-- ==== Sys2Proof/Word.lean ====
section
/-! DEFINITION. The word types of the FLT-9624 (R91) and the sparse map that every table of the state uses. -/

namespace Sys2Proof

/-- A scalar register (R91), a base word (R11), a word of memory (R6). -/
abbrev Word := BitVec 64

/-- One byte of memory. -/
abbrev Byte := BitVec 8

/-- A vector register: 32n lanes of 32 bits, held at the width of a gang of eight (R91, R155). -/
abbrev VReg := BitVec 8192

/-- A lane mask: one bit a lane, held at the width of a gang of eight (R91, R156). -/
abbrev KReg := BitVec 256

/-- A channel entry or message: 128 bytes (R75). -/
abbrev Entry := BitVec 1024

/-- A table by number, in ascending order of the number, one pair for each number that holds something. -/
abbrev SMap (α : Type) := List (Nat × α)

/-- A core of the package: die × 256 + y × 16 + x. -/
abbrev CoreId := Nat

end Sys2Proof
end

