-- ==== Sys2Proof/Payload.lean ====
section
/-! DEFINITION. What a Tolog word, a fabric packet and a Pelpogrim container carry: the operands of the instructions. -/

namespace Sys2Proof

/-- Ranges: first byte and length. -/
abbrev Ranges := List (Nat × Nat)

/-- The fields of a Tolog base word (R11), with the immediate (R12). An `IMM32` stands in the low half of `imm`. -/
structure Tolog where
  len   : BitVec 2
  stall : BitVec 4
  yld   : Bool
  ga    : BitVec 3
  na    : Bool
  gb    : BitVec 3
  nb    : Bool
  ch    : BitVec 2
  mod   : BitVec 8
  d     : BitVec 6
  a     : BitVec 6
  b     : BitVec 6
  c     : BitVec 6
  e     : BitVec 6
  imm   : BitVec 64
deriving DecidableEq, Repr

/-- A fabric packet (R452, R453): the header's fields and what its class carries (R454, R458, R459, R461, R465). -/
structure Packet where
  cls   : Nat := 0
  op    : Nat := 0
  dpkg  : Nat := 0
  spkg  : Nat := 0
  part  : Nat := 0
  key   : Nat := 0
  die   : Nat := 0
  y     : Nat := 0
  x     : Nat := 0
  actor : Nat := 0
  chan  : Nat := 0
  task  : Nat := 0
  pidx  : Nat := 0
  addr  : Nat := 0
  val   : Nat := 0
  sid   : Nat := 0
  block : Nat := 0
  /-- The words of the stream entry that `SXREQ` carries (R461). -/
  words : List Word := []
  data  : List Byte := []
  /-- A partial-sum word that is marked poisoned (R276). -/
  psn   : Bool := false
  /-- An answer's flow: that of the packet it answers (R453). -/
  flowOf : List Nat := []
  /-- The task, core and slot that issued it, for its answer (R455, R465). -/
  srcTask : Nat := 0
  srcCore : Nat := 0
  srcSlot : Nat := 0
deriving DecidableEq, Repr

/-- An input channel as `.in` declares it (R75). -/
structure InDecl where
  ch    : Nat
  rate  : Nat
  depth : Nat
  cls   : Nat
deriving DecidableEq, Repr

/-- An output channel as `.out` declares it: its target is input `tch` of actor `actor` of image `image` (R42, R470). -/
structure OutDecl where
  ch    : Nat
  rate  : Nat
  image : Nat
  actor : Nat
  tch   : Nat
deriving DecidableEq, Repr

/-- An actor of an image (R74, R427). -/
structure ActorDecl where
  entry : Nat
  priv  : Bool
  ins   : List InDecl
  outs  : List OutDecl
deriving DecidableEq, Repr

/-- One basic block of the signature section: first address, control-flow CRC and, where present, data-dependence CRC (R427). -/
structure SigBlock where
  addr : Nat
  cf   : Nat
  dd   : Option Nat
deriving DecidableEq, Repr

/-- An image (R427): code for the instruction store, data, its actors, signatures and helper images. -/
structure Image where
  code   : List Byte := []
  data   : List Byte := []
  actors : List ActorDecl := []
  sigs   : List SigBlock := []
  ldCode : List Byte := []
  ldData : List Byte := []
  stCode : List Byte := []
  stData : List Byte := []
deriving DecidableEq, Repr

/-- A `.place` line (R42, R427). -/
structure Placement where
  role : Nat
  die  : Nat
  x0   : Nat
  y0   : Nat
  x1   : Nat
  y1   : Nat
deriving DecidableEq, Repr

/-- A task entry of a graph object (R422). -/
structure GraphTask where
  desc  : List Word
  dsel  : Nat
  preds : List Nat
  /-- `NPRED`, which counts them. -/
  npred : Nat := preds.length
deriving DecidableEq, Repr

/-- A graph object (R422). -/
structure Graph where
  np    : Nat
  gdone : Nat
  gval  : Word
  grec  : Nat
  tasks : List GraphTask
deriving DecidableEq, Repr

/-- A handle-table image of section 0x08: the task that names it, by graph and number in the container, where firmware puts it, and its
entries, each an index and its four words (R45). -/
structure HandleImage where
  graph : Nat
  task  : Nat
  addr  : Nat
  entries : List (Nat × List Word)
deriving DecidableEq, Repr

/-- What a section of a container holds (R427). But for graph objects (R422) the spec gives the bytes inside a section no layout: the operand
says what they are. -/
inductive Section where
  | image (code data : List Byte) (actors : List ActorDecl)
  /-- Role and image, by the image's number in the container. -/
  | roles (rs : List (Nat × Nat))
  | placement (ps : List Placement)
  /-- Boot tree: (die, x, y, directions as bits n, e, s, w). -/
  | bootTree (es : List (Nat × Nat × Nat × Nat))
  | signatures (image : Nat) (bs : List SigBlock)
  | types (ts : List (Nat × List Word))
  /-- Graph objects, which are read from the container's bytes. -/
  | graphs
  | handles (ts : List HandleImage)
  | helpers (image : Nat) (ldCode ldData stCode stData : List Byte)
  /-- A section that cannot be read. -/
  | garbled
deriving DecidableEq, Repr

/-- What the bytes of a Pelpogrim container say where the spec gives them no layout (R427). -/
structure Container where
  /-- The digest of the key that the ML-DSA-87 signature verifies under. -/
  signer   : Option Nat := none
  /-- The sections, in the order of the section table. -/
  sections : List Section := []
deriving DecidableEq, Repr

/-- A configuration table, and what firmware sets up at start (R430, R432, R439, R341, R317, R393). -/
structure BootTable where
  /-- Its bytes, as they stand in its flash bank; the spec gives them no layout. -/
  bytes    : List Byte := []
  /-- Its signature verifies under the vendor key. -/
  signed   : Bool := true
  version  : Nat := 0
  colX     : Nat := 15
  colW     : Nat := 1
  /-- Disabled cores. -/
  disabled : List CoreId := []
  /-- Digests of the container-signing keys. -/
  signers  : List Nat := []
  minFw    : Nat := 0
  /-- Chip-scratchpad ways, and the free frames of the pool, by die. -/
  ways     : List Nat := []
  hbm      : List (List Nat) := []
  chip     : List (List Nat) := []
  /-- Bytes of CXL memory behind ports 0 and 1. -/
  cxlSize  : Nat := 0
  cxlSize1 : Nat := 0
  /-- `FABID` as firmware sets it before the fabric is enabled. -/
  fabid    : Word := 0
deriving DecidableEq, Repr

end Sys2Proof
end

