-- ==== Sys2Proof/Rv.lean ====
section
/-! DEFINITION. The RV32IMC instructions of the helper cores (R202): the standard instructions, registers by number.
A compressed form is held as the standard instruction it stands for. -/

namespace Sys2Proof

inductive RvAlu where
  | add | sub | sll | slt | sltu | xor | srl | sra | or | and
  | mul | mulh | mulhsu | mulhu | div | divu | rem | remu
deriving DecidableEq, Repr

inductive RvCmp where
  | eq | ne | lt | ge | ltu | geu
deriving DecidableEq, Repr

inductive RvCsrOp where
  | rw | rs | rc
deriving DecidableEq, Repr

/-- One RV32IM instruction with the CSR instructions and the machine-mode returns (R202, R203). -/
inductive Rv where
  | lui (rd : BitVec 5) (imm : BitVec 32)
  | auipc (rd : BitVec 5) (imm : BitVec 32)
  | jal (rd : BitVec 5) (off : BitVec 32)
  | jalr (rd rs : BitVec 5) (off : BitVec 32)
  | branch (c : RvCmp) (rs rt : BitVec 5) (off : BitVec 32)
  /-- A load of `size` bytes, sign-extended where `sx`. -/
  | load (size : Nat) (sx : Bool) (rd rs : BitVec 5) (off : BitVec 32)
  | store (size : Nat) (rs rt : BitVec 5) (off : BitVec 32)
  | opImm (o : RvAlu) (rd rs : BitVec 5) (imm : BitVec 32)
  | op (o : RvAlu) (rd rs rt : BitVec 5)
  | fence
  | ecall
  | ebreak
  | mret
  | wfi
  /-- A CSR instruction; with `imm` the source is the five-bit number itself. -/
  | csr (o : RvCsrOp) (imm : Bool) (rd src : BitVec 5) (n : BitVec 12)
  /-- A word that is no RV32IMC instruction: the illegal-instruction exception (R204, R205). -/
  | illegal (w : BitVec 32)
deriving DecidableEq, Repr

end Sys2Proof
end

