-- ==== Sys2Proof/Syntax.lean ====
section
/-! DEFINITION. The instructions and steps of the opcode table (R31, R204 and the rules each constructor names): one constructor a row. -/

namespace Sys2Proof

/-- One row of the opcode table: a Tolog instruction, with the fields of its word, an instruction of a helper core,
or a step that the device takes outside an instruction, with the part it acts on. -/
inductive Instr where
  /-- `NOP` (R107). -/
  | nop (w : Tolog)
  /-- `IADD` (R108). -/
  | iadd (w : Tolog)
  /-- `ISUB` (R108). -/
  | isub (w : Tolog)
  /-- `IMUL` (R108). -/
  | imul (w : Tolog)
  /-- `IMULH` (R108). -/
  | imulh (w : Tolog)
  /-- `IDIV` (R110). -/
  | idiv (w : Tolog)
  /-- `IREM` (R110). -/
  | irem (w : Tolog)
  /-- `IMIN` (R108). -/
  | imin (w : Tolog)
  /-- `IMAX` (R108). -/
  | imax (w : Tolog)
  /-- `IABS` (R108). -/
  | iabs (w : Tolog)
  /-- `AND` (R108). -/
  | and_ (w : Tolog)
  /-- `OR` (R108). -/
  | or_ (w : Tolog)
  /-- `XOR` (R108). -/
  | xor_ (w : Tolog)
  /-- `ANDN` (R108). -/
  | andn (w : Tolog)
  /-- `SHL` (R109). -/
  | shl (w : Tolog)
  /-- `SHR` (R109). -/
  | shr (w : Tolog)
  /-- `SAR` (R109). -/
  | sar (w : Tolog)
  /-- `ROT` (R109). -/
  | rot (w : Tolog)
  /-- `CLZ` (R108). -/
  | clz (w : Tolog)
  /-- `POPC` (R108). -/
  | popc (w : Tolog)
  /-- `BFX` (R111). -/
  | bfx (w : Tolog)
  /-- `BFI` (R111). -/
  | bfi (w : Tolog)
  /-- `SEXT` (R108). -/
  | sext (w : Tolog)
  /-- `MOVI` (R108). -/
  | movi (w : Tolog)
  /-- `MOV` (R108). -/
  | mov (w : Tolog)
  /-- `SEL` (R108). -/
  | sel (w : Tolog)
  /-- `ICMP` (R108). -/
  | icmp (w : Tolog)
  /-- `PLOG` (R108). -/
  | plog (w : Tolog)
  /-- `LEA` (R108). -/
  | lea (w : Tolog)
  /-- `IMAD` (R108). -/
  | imad (w : Tolog)
  /-- `IADDS` (R108). -/
  | iadds (w : Tolog)
  /-- `BR` (R112). -/
  | br (w : Tolog)
  /-- `BRI` (R112). -/
  | bri (w : Tolog)
  /-- `CALL` (R112). -/
  | call (w : Tolog)
  /-- `RET` (R112). -/
  | ret (w : Tolog)
  /-- `JTAB` (R115). -/
  | jtab (w : Tolog)
  /-- `LOOP` (R112). -/
  | loop (w : Tolog)
  /-- `FINI` (R84). -/
  | fini (w : Tolog)
  /-- `ABORT` (R84). -/
  | abort (w : Tolog)
  /-- `YIELD` (R116). -/
  | yield (w : Tolog)
  /-- `TRAP` (R118). -/
  | trap (w : Tolog)
  /-- `CTLR` (R120). -/
  | ctlr (w : Tolog)
  /-- `CTLW` (R120). -/
  | ctlw (w : Tolog)
  /-- `FENCE` (R121). -/
  | fence (w : Tolog)
  /-- `CLOCK` (R122). -/
  | clock (w : Tolog)
  /-- `GETID` (R123). -/
  | getid (w : Tolog)
  /-- `TRET` (R119). -/
  | tret (w : Tolog)
  /-- `ECALL` (R124). -/
  | ecall (w : Tolog)
  /-- `CHAVL` (R126). -/
  | chavl (w : Tolog)
  /-- `CHRD` (R127). -/
  | chrd (w : Tolog)
  /-- `CHWR` (R128). -/
  | chwr (w : Tolog)
  /-- `SEND` (R130). -/
  | send (w : Tolog)
  /-- `SENDH` (R131). -/
  | sendh (w : Tolog)
  /-- `SENDV` (R130). -/
  | sendv (w : Tolog)
  /-- `LD` (R135). -/
  | ld (w : Tolog)
  /-- `ST` (R135). -/
  | st (w : Tolog)
  /-- `LDP` (R135). -/
  | ldp (w : Tolog)
  /-- `STP` (R135). -/
  | stp (w : Tolog)
  /-- `PREF` (R136). -/
  | pref (w : Tolog)
  /-- `AMO` (R139). -/
  | amo (w : Tolog)
  /-- `CAS` (R140). -/
  | cas (w : Tolog)
  /-- `INCW` (R141). -/
  | incw (w : Tolog)
  /-- `FADDB` (R142). -/
  | faddb (w : Tolog)
  /-- `CADD` (R144). -/
  | cadd (w : Tolog)
  /-- `CADD_FAB` (R458). -/
  | caddFab (w : Tolog)
  /-- `CWAIT` (R145). -/
  | cwait (w : Tolog)
  /-- `CREAD` (R146). -/
  | cread (w : Tolog)
  /-- `MON` (R147). -/
  | mon (w : Tolog)
  /-- `MWAIT` (R149). -/
  | mwait (w : Tolog)
  /-- `HLD` (R151). -/
  | hld (w : Tolog)
  /-- `HST` (R151). -/
  | hst (w : Tolog)
  /-- `RGCHK` (R152). -/
  | rgchk (w : Tolog)
  /-- `FLUSHR` (R153). -/
  | flushr (w : Tolog)
  /-- `INVR` (R153). -/
  | invr (w : Tolog)
  /-- `LDBIT` (R154). -/
  | ldbit (w : Tolog)
  /-- `STBIT` (R154). -/
  | stbit (w : Tolog)
  /-- `VADD` (R159). -/
  | vadd (w : Tolog)
  /-- `VSUB` (R159). -/
  | vsub (w : Tolog)
  /-- `VMUL` (R160). -/
  | vmul (w : Tolog)
  /-- `VMULH` (R160). -/
  | vmulh (w : Tolog)
  /-- `VMAD` (R160). -/
  | vmad (w : Tolog)
  /-- `VMIN` (R159). -/
  | vmin (w : Tolog)
  /-- `VMAX` (R159). -/
  | vmax (w : Tolog)
  /-- `VABS` (R159). -/
  | vabs (w : Tolog)
  /-- `VAND` (R159). -/
  | vand (w : Tolog)
  /-- `VOR` (R159). -/
  | vor (w : Tolog)
  /-- `VXOR` (R159). -/
  | vxor (w : Tolog)
  /-- `VSHL` (R161). -/
  | vshl (w : Tolog)
  /-- `VSHR` (R161). -/
  | vshr (w : Tolog)
  /-- `VSAR` (R161). -/
  | vsar (w : Tolog)
  /-- `VCLZ` (R159). -/
  | vclz (w : Tolog)
  /-- `VPOPC` (R159). -/
  | vpopc (w : Tolog)
  /-- `VCMP` (R159). -/
  | vcmp (w : Tolog)
  /-- `VSEL` (R159). -/
  | vsel (w : Tolog)
  /-- `VRQ` (R162). -/
  | vrq (w : Tolog)
  /-- `VADDS` (R159). -/
  | vadds (w : Tolog)
  /-- `VSUBS` (R159). -/
  | vsubs (w : Tolog)
  /-- `VAVG` (R159). -/
  | vavg (w : Tolog)
  /-- `VDOT4` (R163). -/
  | vdot4 (w : Tolog)
  /-- `VMOV` (R159). -/
  | vmov (w : Tolog)
  /-- `VEXT` (R164). -/
  | vext (w : Tolog)
  /-- `VINS` (R164). -/
  | vins (w : Tolog)
  /-- `VRED` (R165). -/
  | vred (w : Tolog)
  /-- `VSCAN` (R165). -/
  | vscan (w : Tolog)
  /-- `KLOG` (R166). -/
  | klog (w : Tolog)
  /-- `KLOG_FROMV` (R166). -/
  | klogFromv (w : Tolog)
  /-- `KPOPC` (R166). -/
  | kpopc (w : Tolog)
  /-- `VIOTA` (R159). -/
  | viota (w : Tolog)
  /-- `VFADD` (R167). -/
  | vfadd (w : Tolog)
  /-- `VFSUB` (R167). -/
  | vfsub (w : Tolog)
  /-- `VFMUL` (R167). -/
  | vfmul (w : Tolog)
  /-- `VFMA` (R167). -/
  | vfma (w : Tolog)
  /-- `VFMIN` (R167). -/
  | vfmin (w : Tolog)
  /-- `VFMAX` (R167). -/
  | vfmax (w : Tolog)
  /-- `VFNEG` (R167). -/
  | vfneg (w : Tolog)
  /-- `VFCMP` (R167). -/
  | vfcmp (w : Tolog)
  /-- `VFDIV` (R167). -/
  | vfdiv (w : Tolog)
  /-- `VFSQRT` (R167). -/
  | vfsqrt (w : Tolog)
  /-- `VFRSQ` (R168). -/
  | vfrsq (w : Tolog)
  /-- `VFRCP` (R168). -/
  | vfrcp (w : Tolog)
  /-- `VFEXP2` (R168). -/
  | vfexp2 (w : Tolog)
  /-- `VFLOG2` (R168). -/
  | vflog2 (w : Tolog)
  /-- `VFTRIG` (R168). -/
  | vftrig (w : Tolog)
  /-- `VFTANH` (R168). -/
  | vftanh (w : Tolog)
  /-- `VFSIG` (R168). -/
  | vfsig (w : Tolog)
  /-- `VFCVT` (R170). -/
  | vfcvt (w : Tolog)
  /-- `VICVT` (R170). -/
  | vicvt (w : Tolog)
  /-- `VFDOTMX` (R171). -/
  | vfdotmx (w : Tolog)
  /-- `VFSCALE` (R167). -/
  | vfscale (w : Tolog)
  /-- `VFRED` (R169). -/
  | vfred (w : Tolog)
  /-- `VFCLASS` (R167). -/
  | vfclass (w : Tolog)
  /-- `VFTRI` (R173). -/
  | vftri (w : Tolog)
  /-- `VFPACK` (R170). -/
  | vfpack (w : Tolog)
  /-- `VFUNPK` (R170). -/
  | vfunpk (w : Tolog)
  /-- `VLD` (R174). -/
  | vld (w : Tolog)
  /-- `VST` (R174). -/
  | vst (w : Tolog)
  /-- `VLDS` (R174). -/
  | vlds (w : Tolog)
  /-- `VSTS` (R174). -/
  | vsts (w : Tolog)
  /-- `VGATH` (R174). -/
  | vgath (w : Tolog)
  /-- `VSCAT` (R174). -/
  | vscat (w : Tolog)
  /-- `VLDB` (R177). -/
  | vldb (w : Tolog)
  /-- `VSTB` (R177). -/
  | vstb (w : Tolog)
  /-- `VLDL` (R176). -/
  | vldl (w : Tolog)
  /-- `VSTL` (R176). -/
  | vstl (w : Tolog)
  /-- `VPERM` (R180). -/
  | vperm (w : Tolog)
  /-- `VROT` (R180). -/
  | vrot (w : Tolog)
  /-- `VZIP` (R180). -/
  | vzip (w : Tolog)
  /-- `VUZP` (R180). -/
  | vuzp (w : Tolog)
  /-- `VBCAST` (R180). -/
  | vbcast (w : Tolog)
  /-- `VCOMP` (R180). -/
  | vcomp (w : Tolog)
  /-- `VEXPD` (R180). -/
  | vexpd (w : Tolog)
  /-- `VAMO` (R179). -/
  | vamo (w : Tolog)
  /-- `BAMOV` (R178). -/
  | bamov (w : Tolog)
  /-- `BAMOV_RD` (R178). -/
  | bamovRd (w : Tolog)
  /-- `BAADD` (R178). -/
  | baadd (w : Tolog)
  /-- `MWLD` (R232). -/
  | mwld (w : Tolog)
  /-- `MSWAP` (R232). -/
  | mswap (w : Tolog)
  /-- `MSTRM` (R232). -/
  | mstrm (w : Tolog)
  /-- `MDRAIN` (R232). -/
  | mdrain (w : Tolog)
  /-- `MZERO` (R232). -/
  | mzero (w : Tolog)
  /-- `MSPMAP` (R232). -/
  | mspmap (w : Tolog)
  /-- `CPY` (R238). -/
  | cpy (w : Tolog)
  /-- `CPY2D` (R238). -/
  | cpy2d (w : Tolog)
  /-- `CHTAIL` (R226). -/
  | chtail (w : Tolog)
  /-- `CHSEQ` (R226). -/
  | chseq (w : Tolog)
  /-- `CHWAIT` (R226). -/
  | chwait (w : Tolog)
  /-- `XBARW` (R226). -/
  | xbarw (w : Tolog)
  /-- `XBARR` (R226). -/
  | xbarr (w : Tolog)
  /-- `BFMT` (R226). -/
  | bfmt (w : Tolog)
  /-- `HELP` (R226). -/
  | help (w : Tolog)
  /-- `EVQR` (R226). -/
  | evqr (w : Tolog)
  /-- `GANG` (R250). -/
  | gang (w : Tolog)
  /-- `DISBAND` (R253). -/
  | disband (w : Tolog)
  /-- `BAR` (R258). -/
  | bar (w : Tolog)
  /-- `LNKCFG` (R265). -/
  | lnkcfg (w : Tolog)
  /-- `LNKST` (R266). -/
  | lnkst (w : Tolog)
  /-- `RSEND` (R271). -/
  | rsend (w : Tolog)
  /-- `RTREE` (R268). -/
  | rtree (w : Tolog)
  /-- `TSPAWN` (R287). -/
  | tspawn (w : Tolog)
  /-- `TDONE` (R303). -/
  | tdone (w : Tolog)
  /-- `TDONE_KILL` (R303). -/
  | tdoneKill (w : Tolog)
  /-- `TREG_REL` (R304). -/
  | tregRel (w : Tolog)
  /-- `TREG_RO` (R304). -/
  | tregRo (w : Tolog)
  /-- `TQRY` (R311). -/
  | tqry (w : Tolog)
  /-- `SFORK` (R355). -/
  | sfork (w : Tolog)
  /-- `SFORK_NEW` (R355). -/
  | sforkNew (w : Tolog)
  /-- `SRET` (R360). -/
  | sret (w : Tolog)
  /-- `SJOIN_ARM` (R361). -/
  | sjoinArm (w : Tolog)
  /-- `SJOIN_Q` (R361). -/
  | sjoinQ (w : Tolog)
  /-- `SFLAT` (R356). -/
  | sflat (w : Tolog)
  /-- `SATTN` (R366). -/
  | sattn (w : Tolog)
  /-- `SAPP` (R357). -/
  | sapp (w : Tolog)
  /-- `SPARK` (R398). -/
  | spark (w : Tolog)
  /-- `SWAKE_WAKE` (R406). -/
  | swakeWake (w : Tolog)
  /-- `SWAKE_PRE` (R406). -/
  | swakePre (w : Tolog)
  /-- `SWAKE_EXT` (R406). -/
  | swakeExt (w : Tolog)
  /-- `SMIG` (R462). -/
  | smig (w : Tolog)
  /-- `SPRUNE` (R359). -/
  | sprune (w : Tolog)
  /-- `SSTEP` (R358). -/
  | sstep (w : Tolog)
  /-- `XLINVC_WRITE` (R324). -/
  | xlinvcWrite (w : Tolog)
  /-- `FSEED_WRITE` (R61). -/
  | fseedWrite (w : Tolog)
  /-- `TEPREQ_WRITE` (R308). -/
  | tepreqWrite (w : Tolog)
  /-- `SPCFG_WRITE` (R344). -/
  | spcfgWrite (w : Tolog)
  /-- `VDOM_WRITE` (R446). -/
  | vdomWrite (w : Tolog)
  /-- `H_CADD` (R204). -/
  | hCadd (b a : BitVec 5)
  /-- `H_PUSH` (R204). -/
  | hPush (b a : BitVec 5)
  /-- `H_CHAP` (R204). -/
  | hChap (b a d : BitVec 5)
  /-- `H_EVQ` (R204). -/
  | hEvq (b a d : BitVec 5)
  /-- `H_WAIT` (R204). -/
  | hWait (b a d : BitVec 5)
  /-- `RV32IMC_INSTRUCTION` (R202). -/
  | rv32imcInstruction (r : Rv) (len : Nat)
  /-- `TABLE_WALK` (R320). -/
  | tableWalk (ctx va : Nat) (wr ilv : Bool)
  /-- `WAKE_ALIAS_WRITE` (R417). -/
  | wakeAliasWrite (p : Nat) (bs : List Byte)
  /-- `BAR2_ACCESS` (R417). -/
  | bar2Access (wr : Bool) (pa len : Nat) (bs : List Byte)
  /-- `QTAIL_WRITE` (R418). -/
  | qtailWrite (v : Word)
  /-- `QKICK_WRITE` (R424). -/
  | qkickWrite (v : Word)
  /-- `LOAD` (R428). -/
  | load (x : Container)
  /-- `KEY_LOAD` (R433). -/
  | keyLoad (key : Nat) (load : Bool) (allot : Ranges)
  /-- `MEASURED_START` (R432). -/
  | measuredStart (a b : BootTable)
  /-- `THROTTLE_START` (R448). -/
  | throttleStart (tj pwr : Nat)
  /-- `THROTTLE_END` (R448). -/
  | throttleEnd (tj pwr : Nat)
  /-- `FAB_MSG` (R455). -/
  | fabMsg (p : Packet)
  /-- `FAB_RED` (R459). -/
  | fabRed (p : Packet)
  /-- `FAB_CTR` (R458). -/
  | fabCtr (p : Packet)
  /-- `FAB_WAKE` (R454). -/
  | fabWake (p : Packet)
  /-- `SXREQ` (R462). -/
  | sxreq (p : Packet)
  /-- `SXACK` (R462). -/
  | sxack (p : Packet)
  /-- `SXNAK` (R462). -/
  | sxnak (p : Packet)
  /-- `SXPULL` (R462). -/
  | sxpull (p : Packet)
  /-- `SXDATA` (R462). -/
  | sxdata (p : Packet)
  /-- `SXDONE` (R463). -/
  | sxdone (p : Packet)
  /-- `SXFIN` (R463). -/
  | sxfin (p : Packet)
  /-- `SXABORT` (R463). -/
  | sxabort (p : Packet)
  /-- `RMEM` (R465). -/
  | rmem (p : Packet)
  /-- `MOVED` (R465). -/
  | moved (p : Packet)
  /-- `RSP_BOUNCE` (R455). -/
  | rspBounce (p : Packet)
  /-- `RSP_ACKNOWLEDGE` (R463). -/
  | rspAcknowledge (p : Packet)
  /-- `QBASE_WRITE` (R418). -/
  | qbaseWrite (v : Word)
  /-- `QDWB_WRITE` (R418). -/
  | qdwbWrite (v : Word)
  /-- `QUEUE_BIND` (R418). -/
  | queueBind (key ctx fn : Nat)
  /-- `UPDATE_COMPONENT` (R434). -/
  | updateComponent (comp : Nat)
  /-- `REQUEST_FIRMWARE_DATA` (R434). -/
  | requestFirmwareData (bs : List Byte)
  /-- `VERIFY_COMPLETE` (R434). -/
  | verifyComplete (good : Bool) (version : Nat)
  /-- `SCRUB` (R445). -/
  | scrub (a found : Nat)
  /-- `H_PULSE` (R204). -/
  | hPulse
  /-- `HELPER_WAKE` (R204). -/
  | helperWake
  /-- `FIRING_START` (R79). -/
  | firingStart
  /-- `MESSAGE_ARRIVAL` (R81). -/
  | messageArrival
  /-- `RESULT_DELIVERY` (R25). -/
  | resultDelivery
  /-- `MXSUS_DELIVERY` (R101). -/
  | mxsusDelivery
  /-- `CWAIT_END` (R145). -/
  | cwaitEnd
  /-- `CWAIT_TIMEOUT` (R145). -/
  | cwaitTimeout
  /-- `MON_REGISTERED` (R147). -/
  | monRegistered
  /-- `MWAIT_WAKE` (R197). -/
  | mwaitWake
  /-- `MWAIT_TIMEOUT` (R149). -/
  | mwaitTimeout
  /-- `YIELD_EXPIRY` (R116). -/
  | yieldExpiry
  /-- `XBAR_PULSE` (R207). -/
  | xbarPulse
  /-- `XBAR_TERM_FIRE` (R207). -/
  | xbarTermFire
  /-- `XBAR_START_ACTION` (R206). -/
  | xbarStartAction
  /-- `XBAR_TIMER` (R206). -/
  | xbarTimer
  /-- `EMPTY_ENTRY` (R217). -/
  | emptyEntry
  /-- `MWLD_ENTRY` (R236). -/
  | mwldEntry
  /-- `MSWAP_ENTRY` (R236). -/
  | mswapEntry
  /-- `MSTRM_ENTRY` (R233). -/
  | mstrmEntry
  /-- `MDRAIN_ENTRY` (R235). -/
  | mdrainEntry
  /-- `MZERO_ENTRY` (R236). -/
  | mzeroEntry
  /-- `MSPMAP_ENTRY` (R229). -/
  | mspmapEntry
  /-- `CPY_ENTRY` (R242). -/
  | cpyEntry
  /-- `CPY2D_ENTRY` (R240). -/
  | cpy2dEntry
  /-- `ENTRY_COMPLETE` (R243). -/
  | entryComplete
  /-- `FOL_RELEASE` (R231). -/
  | folRelease
  /-- `GANG_FORMED` (R251). -/
  | gangFormed
  /-- `LINK_WORD_ARRIVAL` (R263). -/
  | linkWordArrival
  /-- `PARTIAL_SUM_ARRIVAL` (R270). -/
  | partialSumArrival
  /-- `ROUTER_MERGE_SEND` (R274). -/
  | routerMergeSend
  /-- `ROUTER_RESPONSE_SPLIT` (R275). -/
  | routerResponseSplit
  /-- `XLINV_DONE` (R324). -/
  | xlinvDone
  /-- `TASK_QUEUED` (R292). -/
  | taskQueued
  /-- `TASK_DISPATCH` (R295). -/
  | taskDispatch
  /-- `TASK_AGE_PREEMPT` (R297). -/
  | taskAgePreempt
  /-- `ENTRY_EDGE` (R300). -/
  | entryEdge
  /-- `QUIESCENCE` (R302). -/
  | quiescence
  /-- `TREG_FLUSH` (R304). -/
  | tregFlush
  /-- `EXIT_DRAIN` (R305). -/
  | exitDrain
  /-- `EXIT_FLUSH` (R305). -/
  | exitFlush
  /-- `EXIT_PUBLISH` (R305). -/
  | exitPublish
  /-- `PREEMPT_WAIT_EXPIRY` (R308). -/
  | preemptWaitExpiry
  /-- `PREEMPT_SAVE` (R212). -/
  | preemptSave
  /-- `TASK_RESTORE` (R310). -/
  | taskRestore
  /-- `STAGE_BALANCE` (R312). -/
  | stageBalance
  /-- `STREAM_RELEASE` (R351). -/
  | streamRelease
  /-- `ABSORB` (R353). -/
  | absorb
  /-- `BATCH_FORM` (R363). -/
  | batchForm
  /-- `BATCH_TIMER_EXPIRY` (R363). -/
  | batchTimerExpiry
  /-- `JOIN_REDUCE` (R364). -/
  | joinReduce
  /-- `ATTN_TRIPLE_MERGE` (R367). -/
  | attnTripleMerge
  /-- `PENDING_PARK` (R398). -/
  | pendingPark
  /-- `WAKE` (R401). -/
  | wake
  /-- `PARK_TCX_EXPIRY` (R402). -/
  | parkTcxExpiry
  /-- `PARK_TFL_EXPIRY` (R402). -/
  | parkTflExpiry
  /-- `FRAME_MOVE` (R403). -/
  | frameMove
  /-- `STAGE_A` (R404). -/
  | stageA
  /-- `STAGE_B` (R404). -/
  | stageB
  /-- `STAGE_C` (R404). -/
  | stageC
  /-- `QUEUE_ENABLE` (R418). -/
  | queueEnable
  /-- `QUEUE_RESET` (R421). -/
  | queueReset
  /-- `RSTDONE` (R421). -/
  | rstdone
  /-- `QSTAT_READ` (R418). -/
  | qstatRead
  /-- `KICK` (R419). -/
  | kick
  /-- `HOST_CADD` (R419). -/
  | hostCadd
  /-- `AMSG` (R426). -/
  | amsg
  /-- `HOST_FENCE` (R419). -/
  | hostFence
  /-- `HWRITE` (R419). -/
  | hwrite
  /-- `HREAD` (R419). -/
  | hread
  /-- `GRAPH_REPLAY` (R425). -/
  | graphReplay
  /-- `GRAPH_COMPLETE` (R425). -/
  | graphComplete
  /-- `MAP` (R429). -/
  | map_
  /-- `UNMAP` (R429). -/
  | unmap
  /-- `KEYQ` (R429). -/
  | keyq
  /-- `HRST` (R429). -/
  | hrst
  /-- `PREEMPT` (R429). -/
  | preempt
  /-- `GET_VERSION` (R433). -/
  | getVersion
  /-- `GET_CAPABILITIES` (R433). -/
  | getCapabilities
  /-- `NEGOTIATE_ALGORITHMS` (R433). -/
  | negotiateAlgorithms
  /-- `GET_DIGESTS` (R433). -/
  | getDigests
  /-- `GET_CERTIFICATE` (R433). -/
  | getCertificate
  /-- `CHALLENGE` (R433). -/
  | challenge
  /-- `GET_MEASUREMENTS` (R433). -/
  | getMeasurements
  /-- `KEY_EXCHANGE` (R433). -/
  | keyExchange
  /-- `FINISH` (R433). -/
  | finish
  /-- `END_SESSION` (R433). -/
  | endSession
  /-- `HEARTBEAT` (R433). -/
  | heartbeat
  /-- `QUERY_DEVICE_IDENTIFIERS` (R434). -/
  | queryDeviceIdentifiers
  /-- `GET_FIRMWARE_PARAMETERS` (R434). -/
  | getFirmwareParameters
  /-- `GET_STATUS` (R434). -/
  | getStatus
  /-- `REQUEST_UPDATE` (R434). -/
  | requestUpdate
  /-- `PASS_COMPONENT_TABLE` (R434). -/
  | passComponentTable
  /-- `TRANSFER_COMPLETE` (R434). -/
  | transferComplete
  /-- `APPLY_COMPLETE` (R434). -/
  | applyComplete
  /-- `ACTIVATE_FIRMWARE` (R434). -/
  | activateFirmware
  /-- `CANCEL_UPDATE_COMPONENT` (R434). -/
  | cancelUpdateComponent
  /-- `CANCEL_UPDATE` (R434). -/
  | cancelUpdate
  /-- `LOCK_INTERFACE` (R435). -/
  | lockInterface
  /-- `GET_DEVICE_INTERFACE_REPORT` (R435). -/
  | getDeviceInterfaceReport
  /-- `START_INTERFACE` (R435). -/
  | startInterface
  /-- `STOP_INTERFACE` (R435). -/
  | stopInterface
  /-- `BINDING_VIOLATION` (R435). -/
  | bindingViolation
  /-- `BITMAP_FLASH_WRITE` (R439). -/
  | bitmapFlashWrite
  /-- `RECT_FENCE` (R442). -/
  | rectFence
  /-- `FENCE_COMPLETE` (R442). -/
  | fenceComplete
  /-- `DOMAIN_RAISE` (R447). -/
  | domainRaise
  /-- `DOMAIN_WINDOW_EXPIRY` (R447). -/
  | domainWindowExpiry
  /-- `POWER_REMOVAL` (R448). -/
  | powerRemoval
  /-- `SMIG_TIMEOUT` (R463). -/
  | smigTimeout
  /-- `STUB_EXPIRY` (R464). -/
  | stubExpiry
  /-- `FAB_TIMEOUT` (R455). -/
  | fabTimeout
  /-- `FRAME_RESEND` (R456). -/
  | frameResend
  /-- `PORT_DOWN` (R456). -/
  | portDown
  /-- `LINK_TRAINING` (R457). -/
  | linkTraining
  /-- `PACKAGE_RESET` (R432). -/
  | packageReset
  /-- `COPY_ON_WRITE_COMPLETE` (R347). -/
  | copyOnWriteComplete
  /-- `FIRMWARE_RESTART_COMPLETE` (R434). -/
  | firmwareRestartComplete
  /-- `LINK_KEY_RENEWAL` (R457). -/
  | linkKeyRenewal
  /-- `POWER_FAILURE` (R439). -/
  | powerFailure
deriving DecidableEq, Repr

end Sys2Proof
end

