-- ==== Sys2Proof/Machine/Forms.lean ====
section
/-! DEFINITION. The form of every opcode (R13, R17, R19, R22, R31 and the form tables of the instruction chapters):
which operand fields it uses and how, which modifier and immediate bits it admits, its lengths and its latency. -/

namespace Sys2Proof

/-- The register spaces of R19. -/
inductive Space where
  | g | v | p | k | ba
deriving DecidableEq, Repr

/-- Whether a field is read, written, or both. -/
inductive Role where
  | src | dst | both
deriving DecidableEq, Repr

/-- What an operand field holds. -/
inductive Opd where
  /-- Unused: zero, else `IL.RSV` (R11). -/
  | unused
  /-- A number below `lim`, else `IL.RSV` (R106). -/
  | num (lim : Nat)
  /-- A register code; `link`: the vector field admits the links (R157). -/
  | reg (sp : Space) (role : Role) (link : Bool)
  /-- The first of three vector registers (R173). -/
  | tri (role : Role)
deriving DecidableEq, Repr

/-- The form of one instruction. -/
structure Form where
  d : Opd := .unused
  a : Opd := .unused
  b : Opd := .unused
  c : Opd := .unused
  e : Opd := .unused
  /-- The `MOD` bits the instruction assigns. -/
  mods  : BitVec 8 := 0
  /-- The values of the `MOD` fields and the other conditions whose breach raises `IL.RSV`. -/
  valid : Bool := true
  /-- The immediate bits the instruction uses. -/
  imm   : BitVec 64 := 0
deriving DecidableEq, Repr

/-- The causes of the instruction-word class found at decode (R29). -/
inductive IlCause where
  | align | len | opc | rsv | opnd
deriving DecidableEq, Repr

/-- `TRAPCAUSE` of each (R29). -/
def IlCause.code : IlCause → Nat
  | .align => 0x01
  | .len => 0x02
  | .opc => 0x03
  | .rsv => 0x04
  | .opnd => 0x05

/-- Latency of an instruction's register results (R31). -/
inductive Latency where
  | fixed (n : Nat) | sb | none
deriving DecidableEq, Repr

namespace Forms

def gd : Opd := .reg .g .dst false
def gs : Opd := .reg .g .src false
def gx : Opd := .reg .g .both false
def vd : Opd := .reg .v .dst true
def vs : Opd := .reg .v .src true
def vdn : Opd := .reg .v .dst false
def vsn : Opd := .reg .v .src false
def vx : Opd := .reg .v .both false
def pd : Opd := .reg .p .dst false
def ps : Opd := .reg .p .src false
def kd : Opd := .reg .k .dst false
def ks : Opd := .reg .k .src false
def bd : Opd := .reg .ba .dst false
def bs : Opd := .reg .ba .src false

/-- All of `IMM32`. -/
def imm32 : BitVec 64 := 0xFFFFFFFF

/-- An I-form's second source (R13). -/
def ib (w : Tolog) : Opd := if w.mod.getLsbD 0 then .unused else gs
/-- The immediate bits of an I-form. -/
def ii (w : Tolog) : BitVec 64 := if w.mod.getLsbD 0 then BitVec.allOnes 64 else 0

/-- The condition field of R22: 111 is reserved, and `tst` takes `N` = 0. -/
def ccOk (cc : Nat) (n : Bool) : Bool := cc != 7 && !(cc == 6 && n)

/-- Scalar ALU, 0x00 to 0x1E (R107). -/
def scalar (op : Nat) (w : Tolog) : Option Form :=
  let m := w.mod
  match op with
  | 0x00 => some { imm := BitVec.allOnes 64, valid := w.ga == 0 && !w.na && w.gb == 0 && !w.nb }
  | 0x01 => some { d := gd, a := gs, b := ib w, mods := 0x01, imm := ii w }
  | 0x02 => some { d := gd, a := gs, b := ib w, mods := 0x01, imm := ii w }
  | 0x03 => some { d := gd, a := gs, b := ib w, mods := 0x01, imm := ii w }
  | 0x04 => some { d := gd, a := gs, b := ib w, mods := 0x03, imm := ii w }
  | 0x05 => some { d := gd, a := gs, b := ib w, mods := 0x03, imm := ii w }
  | 0x06 => some { d := gd, a := gs, b := ib w, mods := 0x03, imm := ii w }
  | 0x07 => some { d := gd, a := gs, b := ib w, mods := 0x03, imm := ii w }
  | 0x08 => some { d := gd, a := gs, b := ib w, mods := 0x03, imm := ii w }
  | 0x09 => some { d := gd, a := gs }
  | 0x0A => some { d := gd, a := gs, b := ib w, mods := 0x01, imm := ii w }
  | 0x0B => some { d := gd, a := gs, b := ib w, mods := 0x01, imm := ii w }
  | 0x0C => some { d := gd, a := gs, b := ib w, mods := 0x01, imm := ii w }
  | 0x0D => some { d := gd, a := gs, b := ib w, mods := 0x01, imm := ii w }
  | 0x0E => some { d := gd, a := gs, b := ib w, mods := 0x01, imm := ii w }
  | 0x0F => some { d := gd, a := gs, b := ib w, mods := 0x01, imm := ii w }
  | 0x10 => some { d := gd, a := gs, b := ib w, mods := 0x01, imm := ii w }
  | 0x11 => some { d := gd, a := gs, b := ib w, mods := 0x21, imm := ii w }
  | 0x12 => some { d := gd, a := gs }
  | 0x13 => some { d := gd, a := gs }
  | 0x14 =>
    let wid := (w.imm.extractLsb' 8 7).toNat
    some { d := gd, a := gs, mods := 0x02, imm := 0x7F3F,
           valid := wid != 0 && (w.imm.extractLsb' 0 6).toNat + wid ≤ 64 }
  | 0x15 =>
    let wid := (w.imm.extractLsb' 8 7).toNat
    some { d := gx, a := gs, imm := 0x7F3F,
           valid := wid != 0 && (w.imm.extractLsb' 0 6).toNat + wid ≤ 64 }
  | 0x16 => some { d := gd, a := gs, mods := 0xE2, valid := (m.extractLsb' 5 3).toNat ≤ 2 }
  | 0x17 => some { d := gd, mods := if w.len == 1 then 0x02 else 0, imm := BitVec.allOnes 64 }
  | 0x18 => some { d := gd, a := gs }
  | 0x19 => some { d := gd, a := gs, b := gs, c := ps }
  | 0x1A => some { d := pd, a := gs, b := ib w, mods := 0x1F, imm := ii w,
                   valid := ccOk (m.extractLsb' 2 3).toNat (m.getLsbD 1) }
  | 0x1B => some { d := pd, a := ps, b := ps, mods := 0x0F }
  | 0x1C => some { d := gd, a := gs, b := ib w, mods := 0xE1, imm := ii w }
  | 0x1D => some { d := gd, a := gs, b := gs, c := gs }
  | 0x1E => some { d := gd, a := gs, b := ib w, mods := 0x03, imm := ii w }
  | _ => none

/-- Control and system, 0x20 to 0x36 (R112 to R131). -/
def control (op : Nat) (w : Tolog) : Option Form :=
  let m := w.mod
  match op with
  | 0x20 => some { a := gs }
  | 0x21 => some { imm := imm32 }
  | 0x22 => some { d := gd, imm := imm32 }
  | 0x23 => some { a := gs }
  | 0x24 => some { a := gs, b := gs, imm := BitVec.allOnes 64 }
  | 0x25 => some { d := gx, imm := imm32 }
  | 0x26 => some {}
  | 0x27 => some {}
  | 0x28 => some {}
  | 0x29 => some { imm := imm32 }
  | 0x2A => some { d := gd, imm := 0xFFF }
  | 0x2B => some { a := gs, imm := 0xFFF }
  | 0x2C => some { mods := 0x73, valid := m.extractLsb' 0 2 != 0 && m.extractLsb' 4 3 != 0 && (m.extractLsb' 4 3).toNat ≤ 5 }
  | 0x2D => some { d := gd }
  | 0x2E => some { d := gd, mods := 0x07, valid := (m.extractLsb' 0 3).toNat ≤ 4 }
  | 0x2F => some { mods := 0x01 }
  | 0x30 => some { d := gd, a := gs, b := gs, imm := 0xFFFF }
  | 0x31 => some { d := gd, mods := 0x07 }
  | 0x32 => some { d := if m.getLsbD 7 then vd else gd, a := gs, mods := 0x83 }
  | 0x33 => some { a := if m.getLsbD 7 then .unused else gs, b := if m.getLsbD 7 then vs else gs, mods := 0x8B }
  | 0x34 => some { a := gs, b := gs, c := gs, imm := imm32 }
  | 0x35 => some { a := gs, b := gs, c := gs, imm := imm32 }
  | 0x36 => some { a := if m.getLsbD 0 then .unused else gs, b := vs, mods := 0x01,
                   imm := if m.getLsbD 0 then imm32 else 0 }
  | _ => none

def width (m : BitVec 8) : Nat := (m.extractLsb' 0 3).toNat
def scope (m : BitVec 8) : Nat := (m.extractLsb' 4 3).toNat
def sgn (m : BitVec 8) : Bool := m.getLsbD 3

/-- Scalar memory, atomics, counters and monitors, 0x40 to 0x54 (R135 to R154). -/
def memory (op : Nat) (w : Tolog) : Option Form :=
  let m := w.mod
  let f : Form := { a := gs, imm := imm32 }
  match op with
  | 0x40 => some { f with d := gd, mods := 0x0F, valid := width m ≤ 3 }
  | 0x41 => some { f with b := gs, mods := 0x07, valid := width m ≤ 3 }
  | 0x42 => some { f with d := gd, b := gd, mods := 0x07, valid := width m == 4 && !(w.d == w.b && w.d != 0) }
  | 0x43 => some { f with b := gs, c := gs, mods := 0x07, valid := width m == 4 }
  | 0x44 => some { f with mods := 0x80 }
  | 0x45 => some { f with d := gd, b := gs, c := .num 7, mods := 0x7F,
                          valid := (width m == 2 || width m == 3) && scope m ≤ 5 && (!sgn m || w.c == 4 || w.c == 5) }
  | 0x46 => some { f with d := gd, b := gs, c := gs, mods := 0x77, valid := (width m == 2 || width m == 3) && scope m ≤ 5 }
  | 0x47 => some { f with d := gd, b := gs, mods := 0x77, valid := (width m == 2 || width m == 3) && scope m ≤ 5 }
  | 0x48 => some { f with d := gd, b := gs, c := gs, e := pd, mods := 0x77,
                          valid := (width m == 2 || width m == 3) && scope m ≤ 5 }
  | 0x49 => some { f with b := gs, c := if m.getLsbD 7 then gs else .unused, mods := 0xF7,
                          valid := width m == 3 && scope m != 0 && scope m ≤ 5 && (!m.getLsbD 7 || scope m == 5) }
  | 0x4A => some { f with d := gd, b := gs, c := gs, e := pd, mods := 0x77, valid := width m == 3 && scope m != 0 && scope m ≤ 5 }
  | 0x4B => some { f with d := gd, mods := 0x77, valid := width m == 3 && scope m != 0 && scope m ≤ 5 }
  | 0x4C => some f
  | 0x4D => some { d := gd, a := gs }
  | 0x4E => some { d := gd, imm := 0x3FF }
  | 0x4F => some { b := gs, imm := 0x3FF }
  | 0x50 => some { f with d := gd, b := gs }
  | 0x51 => some { f with b := gs }
  | 0x52 => some { f with b := gs }
  | 0x53 => some { f with d := gd, b := .num 32, mods := 0x08 }
  | 0x54 => some { f with b := .num 32, c := gs }
  | _ => none

/-- The lane mask field of R156. -/
def mk (w : Tolog) : Opd := if w.mod.getLsbD 7 then ks else .unused

/-- Vector integer, 0x60 to 0x7E (R159 to R166). -/
def vint (op : Nat) (w : Tolog) : Option Form :=
  let m := w.mod
  let wd := (m.extractLsb' 0 2).toNat
  let x3 := m.getLsbD 3
  let n := m.getLsbD 2
  let cc := (m.extractLsb' 3 3).toNat
  let f3 : Form := { d := vd, a := vs, b := vs, e := mk w, mods := 0x87, valid := wd != 3 }
  match op with
  | 0x60 => some f3
  | 0x61 => some f3
  | 0x62 => some { f3 with mods := 0xCF, valid := wd != 3 && (!x3 || wd == 2) }
  | 0x63 => some { f3 with mods := 0x8F, valid := wd != 3 && (!x3 || wd == 2) }
  | 0x64 => some { f3 with c := vs, mods := 0xCF, valid := wd != 3 && (!x3 || wd == 2) }
  | 0x65 => some f3
  | 0x66 => some f3
  | 0x67 => some { f3 with b := .unused, mods := 0xC3 }
  | 0x68 => some { f3 with mods := 0x83 }
  | 0x69 => some { f3 with mods := 0x83 }
  | 0x6A => some { f3 with mods := 0x83 }
  | 0x6B => some { f3 with b := if x3 then gs else vs, mods := 0xCF }
  | 0x6C => some { f3 with b := if x3 then gs else vs, mods := 0x8F }
  | 0x6D => some { f3 with b := if x3 then gs else vs, mods := 0x8B }
  | 0x6E => some { f3 with b := .unused, mods := 0x83 }
  | 0x6F => some { f3 with b := .unused, mods := 0x83 }
  | 0x70 => some { f3 with mods := 0xBF, valid := wd != 3 && ccOk cc n }
  | 0x71 => some { f3 with c := vs, mods := 0x83 }
  | 0x72 => some { f3 with d := vx, c := gs, mods := 0x8F, valid := wd == 2 }
  | 0x73 => some f3
  | 0x74 => some f3
  | 0x75 => some f3
  | 0x76 => some { f3 with c := vs, mods := 0xCF, valid := wd == 0 && !(x3 && n) }
  | 0x77 =>
    if w.len == 0 then some { f3 with b := .unused }
    else some { f3 with a := .unused, b := .unused, imm := if wd == 0 then 0xFF else if wd == 1 then 0xFFFF else imm32 }
  | 0x78 => some { d := gd, a := vs, b := gs, mods := 0x07, valid := wd != 3 }
  | 0x79 => some { d := vx, a := gs, b := gs, mods := 0x03, valid := wd != 3 }
  | 0x7A => some { d := gd, a := vs, e := mk w, mods := 0xBF, valid := wd != 3 && cc ≤ 5 }
  | 0x7B => some { d := vd, a := vs, e := mk w, mods := 0xBF, valid := wd != 3 && (m.extractLsb' 3 2).toNat ≤ 2 }
  | 0x7C =>
    if m.extractLsb' 4 2 == 0 then some { d := kd, a := ks, b := ks, mods := 0x3F }
    else some { d := kd, a := vs, mods := 0x30, valid := m.extractLsb' 4 2 == 1 }
  | 0x7D => some { d := gd, a := ks }
  | 0x7E => some { d := vd, a := gs, e := mk w, mods := 0x83, valid := wd != 3 }
  | _ => none

/-- The number of elements of one register for a floating format code of R22, for 32 lanes. -/
def fcount (f : Nat) : Nat := if f == 0 then 32 else if f ≤ 2 then 64 else 128
/-- The number of elements for an integer type code of R170. -/
def icount (t : Nat) : Nat := if t ≤ 1 then 32 else if t ≤ 3 then 64 else 128
/-- The runs of `VFPACK` and `VFUNPK` (R170). -/
def runs (f : Nat) : Nat := if f == 7 then 8 else if f ≥ 5 then 5 else 4
/-- The range of the part index (R170). -/
def parts (ns nd : Nat) : Nat := if ns > nd then ns / nd else nd / ns

/-- Vector floating, 0x80 to 0x99 (R167 to R173). -/
def vflt (op : Nat) (w : Tolog) : Option Form :=
  let m := w.mod
  let fm := (m.extractLsb' 0 3).toNat
  let rm := (m.extractLsb' 3 3).toNat
  let ar := fm ≤ 2 && rm != 7 && rm != 5
  let f2 : Form := { d := vd, a := vs, e := mk w, mods := 0xFF, valid := ar }
  let f3 : Form := { f2 with b := vs }
  match op with
  | 0x80 => some f3
  | 0x81 => some f3
  | 0x82 => some f3
  | 0x83 => some { f3 with c := vs }
  | 0x84 => some f3
  | 0x85 => some f3
  | 0x86 => some { f2 with valid := fm ≤ 2 && rm ≤ 2 }
  | 0x87 => some { f3 with valid := fm ≤ 2 && rm != 7 }
  | 0x88 => some f3
  | 0x89 => some f2
  | 0x8A => some f2
  | 0x8B => some f2
  | 0x8C => some f2
  | 0x8D => some f2
  | 0x8E => some { f2 with b := .num 2 }
  | 0x8F => some f2
  | 0x90 => some f2
  | 0x91 =>
    let ns := fcount w.b.toNat
    let nd := fcount fm
    some { f2 with d := if ns < nd then vx else vd, b := .num 5, c := .num (parts ns nd), valid := fm ≤ 4 && rm != 7 }
  | 0x92 =>
    let ni := icount (w.b.extractLsb' 0 3).toNat
    let nf := fcount fm
    let toInt := w.b.getLsbD 3
    let ns := if toInt then nf else ni
    let nd := if toInt then ni else nf
    some { f2 with d := if ns < nd then vx else vd, b := .num 16, c := .num (parts ns nd),
                   valid := fm ≤ 2 && rm != 7 && (w.b.extractLsb' 0 3).toNat ≤ 5 && !(toInt && m.getLsbD 6) }
  | 0x93 => some { d := gd, a := vsn, b := vsn, c := vsn, e := gs, mods := 0x3F, valid := fm ≥ 3 && rm != 7 && rm != 5 }
  | 0x94 => some f3
  | 0x95 => some { f2 with d := gd, b := .num 3 }
  | 0x96 => some f2
  | 0x97 => some { d := .tri .dst, a := .tri .src, b := .tri .src, e := mk w, mods := 0xBF,
                   valid := fm == 0 && rm != 7 && rm != 5 }
  | 0x98 => some { f2 with d := vx, c := .num (runs fm), valid := fm ≥ 3 && rm != 7 }
  | 0x99 => some { f2 with c := .num (runs fm), valid := fm ≥ 3 && rm != 7 }
  | _ => none

/-- Vector memory and permute, 0xA0 to 0xB3 (R174 to R180). -/
def vmem (op : Nat) (w : Tolog) : Option Form :=
  let m := w.mod
  let wd := width m
  let w2 := (m.extractLsb' 0 2).toNat
  let ld : Form := { d := vd, a := gs, e := mk w, mods := 0x8F, imm := imm32, valid := wd ≤ 2 && !(sgn m && wd == 2) }
  let st : Form := { a := gs, e := mk w, mods := 0x87, imm := imm32, valid := wd ≤ 2 }
  let pm : Form := { d := vd, a := vs, e := mk w, mods := 0x83, valid := w2 != 3 }
  match op with
  | 0xA0 => some ld
  | 0xA1 => some { st with b := vs }
  | 0xA2 => some { ld with b := gs }
  | 0xA3 => some { st with b := vs, c := gs }
  | 0xA4 => some { ld with b := vsn }
  | 0xA5 => some { st with b := vsn, c := vs }
  | 0xA6 => some { d := vd, a := bs, b := .num 32, e := mk w, mods := 0x88, imm := 0xFFFF }
  | 0xA7 => some { a := bs, b := .num 32, c := vs, e := mk w, mods := 0x80, imm := 0xFFFF }
  | 0xA8 => some { ld with imm := 0xFFFFFF00 }
  | 0xA9 => some { st with b := vs, imm := 0xFFFFFF00 }
  | 0xAA => some { pm with b := vs }
  | 0xAB => some { pm with b := gs }
  | 0xAC => some { pm with b := vs, c := .num 2 }
  | 0xAD => some { pm with b := vs, c := .num 2 }
  | 0xAE => if m.getLsbD 3 then some { pm with b := gs, mods := 0x8B } else some { pm with a := gs, mods := 0x8B }
  | 0xAF => some { d := vd, a := vs, b := ks, mods := 0x03, valid := w2 == 2 }
  | 0xB0 => some { d := vx, a := vs, b := ks, mods := 0x03, valid := w2 == 2 }
  | 0xB1 => some { d := vx, a := gs, b := vsn, c := .num 7, e := mk w, mods := 0xFF, imm := imm32,
                   valid := wd == 2 && scope m ≤ 5 && (!sgn m || w.c == 4 || w.c == 5) }
  | 0xB2 =>
    if w.len == 0 then
      if m.getLsbD 0 then some { d := gd, a := bs, mods := 0x01 } else some { d := bd, a := gs, mods := 0x01 }
    else some { d := bd, imm := 0xC1FFFFFF }
  | 0xB3 => if w.len == 0 then some { d := bd, a := bs, b := gs } else some { d := bd, a := bs, imm := imm32 }
  | _ => none

/-- Engines, 0xC0 to 0xCF (R218, R226, R232, R238). -/
def engine (op : Nat) (w : Tolog) : Option Form :=
  let m := w.mod
  match op with
  | 0xC0 => some { d := gd, a := gs, e := gs, mods := 0xE0, imm := imm32 }
  | 0xC1 => some { e := gs, mods := 0xE0 }
  | 0xC2 => some { d := gd, a := gs, b := gs, e := gs, mods := 0xE1, imm := imm32 }
  | 0xC3 => some { d := gd, a := gs, b := gs, c := gs, e := gs, mods := 0xFF, imm := imm32,
                   valid := m.extractLsb' 2 3 != 7 }
  | 0xC4 => some { d := gd, b := .num 4, e := gs, mods := 0xE0 }
  | 0xC5 => some { d := gd, a := gs, e := gs, mods := 0xE1, imm := imm32 }
  | 0xC6 => some { d := gd, a := gs, b := gs, c := gs, e := gs, mods := 0x7E, imm := 0xFFFF,
                   valid := m.extractLsb' 2 3 != 7 }
  | 0xC7 => some { d := gd, a := gs, b := gs, c := gs, e := gs, mods := 0x7E, imm := 0xFFFFFFFFFFFF,
                   valid := m.extractLsb' 2 3 != 7 }
  | 0xC8 => some { a := gs, mods := 0x03 }
  | 0xC9 => some { d := gd, mods := 0x03 }
  | 0xCA => some { a := gs, mods := 0x01 }
  | 0xCB => some { a := gs, imm := 0xFF }
  | 0xCC => some { d := gd, imm := 0xFF }
  | 0xCD => some { a := gs, b := .num 16 }
  | 0xCE => some { mods := 0x03, valid := m.extractLsb' 0 2 != 0 }
  | 0xCF => some { d := vdn }
  | _ => none

/-- Cluster, 0xD0 to 0xD6 (R250 to R271). -/
def cluster (op : Nat) (w : Tolog) : Option Form :=
  let m := w.mod
  match op with
  | 0xD0 => some { mods := 0x03, valid := m.extractLsb' 0 2 != 0 }
  | 0xD1 => some {}
  | 0xD2 => some { a := gs, b := .num 4 }
  | 0xD3 => some { imm := 0xF0F }
  | 0xD4 => some { d := gd }
  | 0xD5 => some { a := gs, b := vs }
  | 0xD6 =>
    let nch := (w.imm.extractLsb' 4 5).toNat
    some { a := gs, b := gs, imm := 0x1FFD,
           valid := (w.imm.extractLsb' 9 3).toNat ≤ 4 && 1 ≤ nch && nch ≤ 16 && w.imm.extractLsb' 2 2 != 3 }
  | _ => none

/-- Tasks and streams, 0xE0 to 0xEE (R287, R303, R304, R311, R354 to R366, R398, R406, R462). -/
def task (op : Nat) (w : Tolog) : Option Form :=
  let m := w.mod
  match op with
  | 0xE0 => some { d := gd, a := gs, b := gs, imm := imm32 }
  | 0xE1 => some { mods := 0x01 }
  | 0xE2 => some { mods := 0x03, imm := 0xF, valid := m == 1 || m == 2 }
  | 0xE3 => some { d := gd, b := gs, imm := 0x3, valid := w.imm.extractLsb' 0 2 != 3 }
  | 0xE4 =>
    some { d := gd, a := if m.getLsbD 0 then gs else .unused, b := if m.getLsbD 1 then .unused else gs, c := gs,
           mods := 0x03, imm := if m.getLsbD 0 then imm32 else 0 }
  | 0xE5 => some { a := gs, b := gs }
  | 0xE6 =>
    if m == 0 then some { d := gd, a := gs, b := gs, c := gs, e := gs, imm := imm32 }
    else some { d := gd, a := gs, b := gs, mods := 0x01, imm := 0x3 }
  | 0xE7 => some { d := gd, a := gs }
  | 0xE8 => some { d := gd, a := gs, b := gs, imm := imm32 }
  | 0xE9 => some { d := gd, a := gs, b := gs, c := gs, imm := imm32 }
  | 0xEA => some { d := gd, a := gs, b := gs, c := gs, e := gs, imm := imm32 }
  | 0xEB => some { a := gs, mods := 0x03, valid := m != 3, imm := if m == 2 then imm32 else 0 }
  | 0xEC => some { d := gd, a := gs, b := gs, c := gs, imm := 0xFFFFFF }
  | 0xED => some { a := gs }
  | 0xEE => some { d := gd, a := gs, b := gs, e := pd }
  | _ => none

end Forms

/-- The form of the word `w` under opcode `op`; `none` for an unassigned code (R31). -/
def formOf (op : Nat) (w : Tolog) : Option Form :=
  if op < 0x20 then Forms.scalar op w
  else if op < 0x40 then Forms.control op w
  else if op < 0x60 then Forms.memory op w
  else if op < 0x80 then Forms.vint op w
  else if op < 0xA0 then Forms.vflt op w
  else if op < 0xC0 then Forms.vmem op w
  else if op < 0xD0 then Forms.engine op w
  else if op < 0xE0 then Forms.cluster op w
  else Forms.task op w

/-- The opcodes of length I (R31). -/
def iForm (op : Nat) : Bool :=
  (0x01 ≤ op && op ≤ 0x08) || (0x0A ≤ op && op ≤ 0x11) || op == 0x1A || op == 0x1C || op == 0x1E

/-- The opcodes of length 96 only (R31). -/
def len96 : List Nat :=
  [0x14, 0x15, 0x21, 0x22, 0x25, 0x29, 0x2A, 0x2B, 0x30, 0x34, 0x35, 0x36,
   0x40, 0x41, 0x42, 0x43, 0x44, 0x45, 0x46, 0x47, 0x48, 0x49, 0x4A, 0x4B, 0x4C, 0x4E, 0x4F, 0x50, 0x51, 0x52, 0x53, 0x54,
   0xA0, 0xA1, 0xA2, 0xA3, 0xA4, 0xA5, 0xA6, 0xA7, 0xA8, 0xA9, 0xB1,
   0xC0, 0xC2, 0xC3, 0xC5, 0xC6, 0xCB, 0xCC, 0xD3, 0xD6,
   0xE0, 0xE2, 0xE3, 0xE4, 0xE6, 0xE8, 0xE9, 0xEA, 0xEB, 0xEC]

/-- Whether the opcode permits the `LEN` code with `MOD[0]` as given (R13). -/
def lenOk (op : Nat) (m0 : Bool) (len : BitVec 2) : Bool :=
  if op == 0x00 then true
  else if iForm op then (if m0 then len == 1 || len == 2 else len == 0)
  else if op == 0x17 then len == 1 || len == 2
  else if op == 0x24 || op == 0xC7 then len == 2
  else if op == 0x77 || op == 0xB2 || op == 0xB3 then len == 0 || len == 1
  else if len96.contains op then len == 1
  else len == 0

/-- The memory opcodes (R17). -/
def memOp (op : Nat) : Bool :=
  (0x40 ≤ op && op ≤ 0x54) || (0xA0 ≤ op && op ≤ 0xA9) || op == 0xB1 || op == 0x24

/-- The privileged opcodes (R31). -/
def privOp (op : Nat) : Bool := op == 0x4F || op == 0xD6

/-- Whether the field's code breaks no reservation (R11, R106). -/
def Opd.rsvOk (o : Opd) (x : BitVec 6) : Bool :=
  match o with
  | .unused => x == 0
  | .num lim => x.toNat < lim
  | .reg _ _ _ => true
  | .tri _ => true

/-- Whether the field's code lies in its space (R19, R157, R173). -/
def Opd.codeOk (o : Opd) (x : BitVec 6) : Bool :=
  match o with
  | .unused => true
  | .num _ => true
  | .reg .g _ _ => true
  | .reg .v _ true => x.toNat < 36
  | .reg .v _ false => x.toNat < 32
  | .reg _ _ _ => x.toNat < 8
  | .tri _ => x.toNat < 30

/-- Whether the word breaks no reservation (R11, R12, R17, R22, R106). -/
def Form.rsvOk (f : Form) (op : Nat) (w : Tolog) : Bool :=
  (if memOp op then w.ch != 3 else w.ch == 0) &&
  f.d.rsvOk w.d && f.a.rsvOk w.a && f.b.rsvOk w.b && f.c.rsvOk w.c && f.e.rsvOk w.e &&
  (w.mod &&& ~~~f.mods) == 0 && f.valid && (w.imm &&& ~~~f.imm) == 0

/-- Whether every operand code lies in its space (R19). -/
def Form.codesOk (f : Form) (w : Tolog) : Bool :=
  f.d.codeOk w.d && f.a.codeOk w.a && f.b.codeOk w.b && f.c.codeOk w.c && f.e.codeOk w.e

/-- The decode-time checks of a word, the first cause in the order of R30; `bit7` is the reserved bit of the base word. -/
def ilCheck (op : Nat) (bit7 : Bool) (w : Tolog) : Option IlCause :=
  if w.len == 3 then some .len
  else match formOf op w with
    | none => some .opc
    | some f =>
      if !lenOk op (w.mod.getLsbD 0) w.len then some .len
      else if bit7 || !f.rsvOk op w then some .rsv
      else if !f.codesOk w then some .opnd
      else none

/-- Latency of each opcode's register results (R31). -/
def latency (op : Nat) (w : Tolog) : Latency :=
  let w32 := w.mod.extractLsb' 0 2 == 2 && w.mod.getLsbD 3
  if op == 0x00 then .none
  else if op == 0x03 || op == 0x04 || op == 0x1D then .fixed 3
  else if op == 0x05 || op == 0x06 then .sb
  else if op < 0x20 then .fixed 1
  else if op == 0x22 || op == 0x25 || op == 0x2A || op == 0x2D || op == 0x2E || op == 0x31 then .fixed 1
  else if op == 0x30 || op == 0x32 then .sb
  else if op < 0x40 then .none
  else if op < 0x60 then .sb
  else if op == 0x62 || op == 0x63 || op == 0x64 then .fixed (if w32 then 6 else 3)
  else if op == 0x72 || op == 0x76 then .fixed 3
  else if op == 0x7A then .fixed 4
  else if op == 0x7B then .fixed 5
  else if op == 0x7C || op == 0x7D then .fixed 1
  else if op < 0x80 then .fixed 2
  else if op ≤ 0x83 then .fixed 4
  else if op ≤ 0x87 then .fixed 2
  else if op == 0x88 || op == 0x89 then .sb
  else if op ≤ 0x8D then .fixed 6
  else if op ≤ 0x90 then .fixed 8
  else if op ≤ 0x92 then .fixed 3
  else if op == 0x93 || op == 0x97 then .fixed 6
  else if op == 0x94 || op == 0x98 || op == 0x99 then .fixed 3
  else if op == 0x95 then .fixed 8
  else if op < 0xA0 then .fixed 2
  else if op ≤ 0xA9 || op == 0xB1 then .sb
  else if op == 0xAA || op == 0xAF || op == 0xB0 then .fixed 3
  else if op == 0xB2 || op == 0xB3 then .fixed 1
  else if op < 0xC0 then .fixed 2
  else if op == 0xC9 || op == 0xCC || op == 0xD4 then .fixed 2
  else .sb

end Sys2Proof
end

