-- ==== Sys2Proof/WellFormed.lean ====
section
/-! DEFINITION. Well-formed instructions: those whose word passes the decode-time checks (R30) and whose fields select
the row. -/

namespace Sys2Proof

/-- The Tolog rows: the opcode (R31) and the word. -/
def Instr.tolog (i : Instr) : Option (Nat × Tolog) :=
  match i with
  | .nop w => some (0x00, w)
  | .iadd w => some (0x01, w)
  | .isub w => some (0x02, w)
  | .imul w => some (0x03, w)
  | .imulh w => some (0x04, w)
  | .idiv w => some (0x05, w)
  | .irem w => some (0x06, w)
  | .imin w => some (0x07, w)
  | .imax w => some (0x08, w)
  | .iabs w => some (0x09, w)
  | .and_ w => some (0x0A, w)
  | .or_ w => some (0x0B, w)
  | .xor_ w => some (0x0C, w)
  | .andn w => some (0x0D, w)
  | .shl w => some (0x0E, w)
  | .shr w => some (0x0F, w)
  | .sar w => some (0x10, w)
  | .rot w => some (0x11, w)
  | .clz w => some (0x12, w)
  | .popc w => some (0x13, w)
  | .bfx w => some (0x14, w)
  | .bfi w => some (0x15, w)
  | .sext w => some (0x16, w)
  | .movi w => some (0x17, w)
  | .mov w => some (0x18, w)
  | .sel w => some (0x19, w)
  | .icmp w => some (0x1A, w)
  | .plog w => some (0x1B, w)
  | .lea w => some (0x1C, w)
  | .imad w => some (0x1D, w)
  | .iadds w => some (0x1E, w)
  | .br w => some (0x20, w)
  | .bri w => some (0x21, w)
  | .call w => some (0x22, w)
  | .ret w => some (0x23, w)
  | .jtab w => some (0x24, w)
  | .loop w => some (0x25, w)
  | .fini w => some (0x26, w)
  | .abort w => some (0x27, w)
  | .yield w => some (0x28, w)
  | .trap w => some (0x29, w)
  | .ctlr w => some (0x2A, w)
  | .ctlw w => some (0x2B, w)
  | .fence w => some (0x2C, w)
  | .clock w => some (0x2D, w)
  | .getid w => some (0x2E, w)
  | .tret w => some (0x2F, w)
  | .ecall w => some (0x30, w)
  | .chavl w => some (0x31, w)
  | .chrd w => some (0x32, w)
  | .chwr w => some (0x33, w)
  | .send w => some (0x34, w)
  | .sendh w => some (0x35, w)
  | .sendv w => some (0x36, w)
  | .ld w => some (0x40, w)
  | .st w => some (0x41, w)
  | .ldp w => some (0x42, w)
  | .stp w => some (0x43, w)
  | .pref w => some (0x44, w)
  | .amo w => some (0x45, w)
  | .cas w => some (0x46, w)
  | .incw w => some (0x47, w)
  | .faddb w => some (0x48, w)
  | .cadd w => some (0x49, w)
  | .caddFab w => some (0x49, w)
  | .cwait w => some (0x4A, w)
  | .cread w => some (0x4B, w)
  | .mon w => some (0x4C, w)
  | .mwait w => some (0x4D, w)
  | .hld w => some (0x4E, w)
  | .hst w => some (0x4F, w)
  | .rgchk w => some (0x50, w)
  | .flushr w => some (0x51, w)
  | .invr w => some (0x52, w)
  | .ldbit w => some (0x53, w)
  | .stbit w => some (0x54, w)
  | .vadd w => some (0x60, w)
  | .vsub w => some (0x61, w)
  | .vmul w => some (0x62, w)
  | .vmulh w => some (0x63, w)
  | .vmad w => some (0x64, w)
  | .vmin w => some (0x65, w)
  | .vmax w => some (0x66, w)
  | .vabs w => some (0x67, w)
  | .vand w => some (0x68, w)
  | .vor w => some (0x69, w)
  | .vxor w => some (0x6A, w)
  | .vshl w => some (0x6B, w)
  | .vshr w => some (0x6C, w)
  | .vsar w => some (0x6D, w)
  | .vclz w => some (0x6E, w)
  | .vpopc w => some (0x6F, w)
  | .vcmp w => some (0x70, w)
  | .vsel w => some (0x71, w)
  | .vrq w => some (0x72, w)
  | .vadds w => some (0x73, w)
  | .vsubs w => some (0x74, w)
  | .vavg w => some (0x75, w)
  | .vdot4 w => some (0x76, w)
  | .vmov w => some (0x77, w)
  | .vext w => some (0x78, w)
  | .vins w => some (0x79, w)
  | .vred w => some (0x7A, w)
  | .vscan w => some (0x7B, w)
  | .klog w => some (0x7C, w)
  | .klogFromv w => some (0x7C, w)
  | .kpopc w => some (0x7D, w)
  | .viota w => some (0x7E, w)
  | .vfadd w => some (0x80, w)
  | .vfsub w => some (0x81, w)
  | .vfmul w => some (0x82, w)
  | .vfma w => some (0x83, w)
  | .vfmin w => some (0x84, w)
  | .vfmax w => some (0x85, w)
  | .vfneg w => some (0x86, w)
  | .vfcmp w => some (0x87, w)
  | .vfdiv w => some (0x88, w)
  | .vfsqrt w => some (0x89, w)
  | .vfrsq w => some (0x8A, w)
  | .vfrcp w => some (0x8B, w)
  | .vfexp2 w => some (0x8C, w)
  | .vflog2 w => some (0x8D, w)
  | .vftrig w => some (0x8E, w)
  | .vftanh w => some (0x8F, w)
  | .vfsig w => some (0x90, w)
  | .vfcvt w => some (0x91, w)
  | .vicvt w => some (0x92, w)
  | .vfdotmx w => some (0x93, w)
  | .vfscale w => some (0x94, w)
  | .vfred w => some (0x95, w)
  | .vfclass w => some (0x96, w)
  | .vftri w => some (0x97, w)
  | .vfpack w => some (0x98, w)
  | .vfunpk w => some (0x99, w)
  | .vld w => some (0xA0, w)
  | .vst w => some (0xA1, w)
  | .vlds w => some (0xA2, w)
  | .vsts w => some (0xA3, w)
  | .vgath w => some (0xA4, w)
  | .vscat w => some (0xA5, w)
  | .vldb w => some (0xA6, w)
  | .vstb w => some (0xA7, w)
  | .vldl w => some (0xA8, w)
  | .vstl w => some (0xA9, w)
  | .vperm w => some (0xAA, w)
  | .vrot w => some (0xAB, w)
  | .vzip w => some (0xAC, w)
  | .vuzp w => some (0xAD, w)
  | .vbcast w => some (0xAE, w)
  | .vcomp w => some (0xAF, w)
  | .vexpd w => some (0xB0, w)
  | .vamo w => some (0xB1, w)
  | .bamov w => some (0xB2, w)
  | .bamovRd w => some (0xB2, w)
  | .baadd w => some (0xB3, w)
  | .mwld w => some (0xC0, w)
  | .mswap w => some (0xC1, w)
  | .mstrm w => some (0xC2, w)
  | .mdrain w => some (0xC3, w)
  | .mzero w => some (0xC4, w)
  | .mspmap w => some (0xC5, w)
  | .cpy w => some (0xC6, w)
  | .cpy2d w => some (0xC7, w)
  | .chtail w => some (0xC8, w)
  | .chseq w => some (0xC9, w)
  | .chwait w => some (0xCA, w)
  | .xbarw w => some (0xCB, w)
  | .xbarr w => some (0xCC, w)
  | .bfmt w => some (0xCD, w)
  | .help w => some (0xCE, w)
  | .evqr w => some (0xCF, w)
  | .gang w => some (0xD0, w)
  | .disband w => some (0xD1, w)
  | .bar w => some (0xD2, w)
  | .lnkcfg w => some (0xD3, w)
  | .lnkst w => some (0xD4, w)
  | .rsend w => some (0xD5, w)
  | .rtree w => some (0xD6, w)
  | .tspawn w => some (0xE0, w)
  | .tdone w => some (0xE1, w)
  | .tdoneKill w => some (0xE1, w)
  | .tregRel w => some (0xE2, w)
  | .tregRo w => some (0xE2, w)
  | .tqry w => some (0xE3, w)
  | .sfork w => some (0xE4, w)
  | .sforkNew w => some (0xE4, w)
  | .sret w => some (0xE5, w)
  | .sjoinArm w => some (0xE6, w)
  | .sjoinQ w => some (0xE6, w)
  | .sflat w => some (0xE7, w)
  | .sattn w => some (0xE8, w)
  | .sapp w => some (0xE9, w)
  | .spark w => some (0xEA, w)
  | .swakeWake w => some (0xEB, w)
  | .swakePre w => some (0xEB, w)
  | .swakeExt w => some (0xEB, w)
  | .smig w => some (0xEC, w)
  | .sprune w => some (0xED, w)
  | .sstep w => some (0xEE, w)
  | .xlinvcWrite w => some (0x2B, w)
  | .fseedWrite w => some (0x2B, w)
  | .tepreqWrite w => some (0x2B, w)
  | .spcfgWrite w => some (0x2B, w)
  | .vdomWrite w => some (0x2B, w)
  | _ => none

/-- The index of a `CTLR` or `CTLW` (R120). -/
def Tolog.ctlIdx (w : Tolog) : Nat := (w.imm.extractLsb' 0 12).toNat

/-- The `CTLW` indices that are rows of their own: `FSEED`, `TEPREQ`, `XLINVC`, `SPCFG` and `VDOM0` to `VDOM11`. -/
def ctlOwnRow (n : Nat) : Bool :=
  n == 0x012 || n == 0x204 || n == 0x212 || n == 0x222 || (0x280 ≤ n && n ≤ 0x28B)

/-- Whether the fields of the word select this row among the rows of its opcode. -/
def Instr.rowOk (i : Instr) : Bool :=
  match i with
  | .cadd w => !w.mod.getLsbD 7
  | .caddFab w => w.mod.getLsbD 7
  | .klog w => w.mod.extractLsb' 4 2 != 1
  | .klogFromv w => w.mod.extractLsb' 4 2 == 1
  | .bamov w => !(w.len == 0 && w.mod.getLsbD 0)
  | .bamovRd w => w.len == 0 && w.mod.getLsbD 0
  | .tdone w => !w.mod.getLsbD 0
  | .tdoneKill w => w.mod.getLsbD 0
  | .tregRel w => w.mod == 1
  | .tregRo w => w.mod != 1
  | .sfork w => !w.mod.getLsbD 1
  | .sforkNew w => w.mod.getLsbD 1
  | .sjoinArm w => w.mod == 0
  | .sjoinQ w => w.mod != 0
  | .swakeWake w => w.mod == 0
  | .swakePre w => w.mod == 1
  | .swakeExt w => w.mod != 0 && w.mod != 1
  | .ctlw w => !ctlOwnRow w.ctlIdx
  | .fseedWrite w => w.ctlIdx == 0x012
  | .tepreqWrite w => w.ctlIdx == 0x204
  | .xlinvcWrite w => w.ctlIdx == 0x212
  | .spcfgWrite w => w.ctlIdx == 0x222
  | .vdomWrite w => 0x280 ≤ w.ctlIdx && w.ctlIdx ≤ 0x28B
  | _ => true

/-- Whether the immediate fits the length (R12). -/
def Tolog.immFits (w : Tolog) : Bool :=
  if w.len == 0 then w.imm == 0 else if w.len == 1 then w.imm.toNat < 4294967296 else true

/-- Whether an RV32 instruction has a 32-bit encoding: offsets and immediates in range (R202). -/
def Rv.fits (r : Rv) : Bool :=
  let i12 (x : BitVec 32) : Bool := (x.extractLsb' 0 12).signExtend 32 == x
  match r with
  | .lui _ i => i.extractLsb' 0 12 == 0
  | .auipc _ i => i.extractLsb' 0 12 == 0
  | .jal _ o => (o.extractLsb' 0 21).signExtend 32 == o && o.extractLsb' 0 1 == 0
  | .jalr _ _ o => i12 o
  | .branch _ _ _ o => (o.extractLsb' 0 13).signExtend 32 == o && o.extractLsb' 0 1 == 0
  | .load n sx _ _ o => i12 o && (n == 1 || n == 2 || (n == 4 && sx))
  | .store n _ _ o => i12 o && (n == 1 || n == 2 || n == 4)
  | .opImm al _ _ i =>
    match al with
    | .sll => i.toNat < 32
    | .srl => i.toNat < 32
    | .sra => i.toNat < 32
    | .add => i12 i
    | .slt => i12 i
    | .sltu => i12 i
    | .xor => i12 i
    | .or => i12 i
    | .and => i12 i
    | _ => false
  | .op _ _ _ _ => true
  | .fence => true
  | .ecall => true
  | .ebreak => true
  | .mret => true
  | .wfi => true
  | .csr _ _ _ _ _ => true
  | .illegal _ => false

/-- A well-formed instruction: a word that decodes to it exists. The device's own steps have no word. -/
def Instr.wf (i : Instr) : Bool :=
  match i.tolog with
  | some (op, w) => ilCheck op false w == none && w.immFits && i.rowOk
  | none =>
    match i with
    | .rv32imcInstruction r n => n == 4 && r.fits
    | _ => true

end Sys2Proof
end

