-- ==== Sys2Proof/Decode.lean ====
section
/-! DEFINITION. The decoder of Tolog words and helper words, total on any bits, and the encoder (R8 to R31, R202, R204). -/

namespace Sys2Proof

/-- The fields of a base word, with the immediate that its length gives it (R11, R12). -/
def Tolog.ofBits (x : BitVec 64) (imm : BitVec 64) : Tolog where
  len   := x.extractLsb' 0 2
  stall := x.extractLsb' 2 4
  yld   := x.getLsbD 6
  ga    := x.extractLsb' 8 3
  na    := x.getLsbD 11
  gb    := x.extractLsb' 12 3
  nb    := x.getLsbD 15
  ch    := x.extractLsb' 16 2
  mod   := x.extractLsb' 26 8
  d     := x.extractLsb' 34 6
  a     := x.extractLsb' 40 6
  b     := x.extractLsb' 46 6
  c     := x.extractLsb' 52 6
  e     := x.extractLsb' 58 6
  imm   := if x.extractLsb' 0 2 == 0 then 0
           else if x.extractLsb' 0 2 == 1 then imm &&& 0xFFFFFFFF else imm

/-- The opcode of a base word (R11). -/
def opcodeOf (x : BitVec 64) : Nat := (x.extractLsb' 18 8).toNat

/-- The base word of a Tolog instruction (R11). -/
def Tolog.bits (op : Nat) (w : Tolog) : BitVec 64 :=
  w.e ++ w.c ++ w.b ++ w.a ++ w.d ++ w.mod ++ BitVec.ofNat 8 op ++ w.ch ++
  BitVec.ofBool w.nb ++ w.gb ++ BitVec.ofBool w.na ++ w.ga ++ (0 : BitVec 1) ++ BitVec.ofBool w.yld ++ w.stall ++ w.len

/-- The instruction in bytes (R8). -/
def lenBytes (len : BitVec 2) : Nat := if len == 0 then 8 else if len == 1 then 12 else 16

/-- A `CTLW`: the row of its index. -/
def mkCtlw (w : Tolog) : Instr :=
  let n := w.ctlIdx
  if n == 0x012 then .fseedWrite w
  else if n == 0x204 then .tepreqWrite w
  else if n == 0x212 then .xlinvcWrite w
  else if n == 0x222 then .spcfgWrite w
  else if 0x280 ≤ n && n ≤ 0x28B then .vdomWrite w
  else .ctlw w

/-- The instruction of an opcode and its word's fields (R31). -/
def mkTolog (op : Nat) (w : Tolog) : Option Instr :=
  match op with
  | 0x00 => some (.nop w)
  | 0x01 => some (.iadd w)
  | 0x02 => some (.isub w)
  | 0x03 => some (.imul w)
  | 0x04 => some (.imulh w)
  | 0x05 => some (.idiv w)
  | 0x06 => some (.irem w)
  | 0x07 => some (.imin w)
  | 0x08 => some (.imax w)
  | 0x09 => some (.iabs w)
  | 0x0A => some (.and_ w)
  | 0x0B => some (.or_ w)
  | 0x0C => some (.xor_ w)
  | 0x0D => some (.andn w)
  | 0x0E => some (.shl w)
  | 0x0F => some (.shr w)
  | 0x10 => some (.sar w)
  | 0x11 => some (.rot w)
  | 0x12 => some (.clz w)
  | 0x13 => some (.popc w)
  | 0x14 => some (.bfx w)
  | 0x15 => some (.bfi w)
  | 0x16 => some (.sext w)
  | 0x17 => some (.movi w)
  | 0x18 => some (.mov w)
  | 0x19 => some (.sel w)
  | 0x1A => some (.icmp w)
  | 0x1B => some (.plog w)
  | 0x1C => some (.lea w)
  | 0x1D => some (.imad w)
  | 0x1E => some (.iadds w)
  | 0x20 => some (.br w)
  | 0x21 => some (.bri w)
  | 0x22 => some (.call w)
  | 0x23 => some (.ret w)
  | 0x24 => some (.jtab w)
  | 0x25 => some (.loop w)
  | 0x26 => some (.fini w)
  | 0x27 => some (.abort w)
  | 0x28 => some (.yield w)
  | 0x29 => some (.trap w)
  | 0x2A => some (.ctlr w)
  | 0x2B => some (mkCtlw w)
  | 0x2C => some (.fence w)
  | 0x2D => some (.clock w)
  | 0x2E => some (.getid w)
  | 0x2F => some (.tret w)
  | 0x30 => some (.ecall w)
  | 0x31 => some (.chavl w)
  | 0x32 => some (.chrd w)
  | 0x33 => some (.chwr w)
  | 0x34 => some (.send w)
  | 0x35 => some (.sendh w)
  | 0x36 => some (.sendv w)
  | 0x40 => some (.ld w)
  | 0x41 => some (.st w)
  | 0x42 => some (.ldp w)
  | 0x43 => some (.stp w)
  | 0x44 => some (.pref w)
  | 0x45 => some (.amo w)
  | 0x46 => some (.cas w)
  | 0x47 => some (.incw w)
  | 0x48 => some (.faddb w)
  | 0x49 => some (if w.mod.getLsbD 7 then .caddFab w else .cadd w)
  | 0x4A => some (.cwait w)
  | 0x4B => some (.cread w)
  | 0x4C => some (.mon w)
  | 0x4D => some (.mwait w)
  | 0x4E => some (.hld w)
  | 0x4F => some (.hst w)
  | 0x50 => some (.rgchk w)
  | 0x51 => some (.flushr w)
  | 0x52 => some (.invr w)
  | 0x53 => some (.ldbit w)
  | 0x54 => some (.stbit w)
  | 0x60 => some (.vadd w)
  | 0x61 => some (.vsub w)
  | 0x62 => some (.vmul w)
  | 0x63 => some (.vmulh w)
  | 0x64 => some (.vmad w)
  | 0x65 => some (.vmin w)
  | 0x66 => some (.vmax w)
  | 0x67 => some (.vabs w)
  | 0x68 => some (.vand w)
  | 0x69 => some (.vor w)
  | 0x6A => some (.vxor w)
  | 0x6B => some (.vshl w)
  | 0x6C => some (.vshr w)
  | 0x6D => some (.vsar w)
  | 0x6E => some (.vclz w)
  | 0x6F => some (.vpopc w)
  | 0x70 => some (.vcmp w)
  | 0x71 => some (.vsel w)
  | 0x72 => some (.vrq w)
  | 0x73 => some (.vadds w)
  | 0x74 => some (.vsubs w)
  | 0x75 => some (.vavg w)
  | 0x76 => some (.vdot4 w)
  | 0x77 => some (.vmov w)
  | 0x78 => some (.vext w)
  | 0x79 => some (.vins w)
  | 0x7A => some (.vred w)
  | 0x7B => some (.vscan w)
  | 0x7C => some (if w.mod.extractLsb' 4 2 == 1 then .klogFromv w else .klog w)
  | 0x7D => some (.kpopc w)
  | 0x7E => some (.viota w)
  | 0x80 => some (.vfadd w)
  | 0x81 => some (.vfsub w)
  | 0x82 => some (.vfmul w)
  | 0x83 => some (.vfma w)
  | 0x84 => some (.vfmin w)
  | 0x85 => some (.vfmax w)
  | 0x86 => some (.vfneg w)
  | 0x87 => some (.vfcmp w)
  | 0x88 => some (.vfdiv w)
  | 0x89 => some (.vfsqrt w)
  | 0x8A => some (.vfrsq w)
  | 0x8B => some (.vfrcp w)
  | 0x8C => some (.vfexp2 w)
  | 0x8D => some (.vflog2 w)
  | 0x8E => some (.vftrig w)
  | 0x8F => some (.vftanh w)
  | 0x90 => some (.vfsig w)
  | 0x91 => some (.vfcvt w)
  | 0x92 => some (.vicvt w)
  | 0x93 => some (.vfdotmx w)
  | 0x94 => some (.vfscale w)
  | 0x95 => some (.vfred w)
  | 0x96 => some (.vfclass w)
  | 0x97 => some (.vftri w)
  | 0x98 => some (.vfpack w)
  | 0x99 => some (.vfunpk w)
  | 0xA0 => some (.vld w)
  | 0xA1 => some (.vst w)
  | 0xA2 => some (.vlds w)
  | 0xA3 => some (.vsts w)
  | 0xA4 => some (.vgath w)
  | 0xA5 => some (.vscat w)
  | 0xA6 => some (.vldb w)
  | 0xA7 => some (.vstb w)
  | 0xA8 => some (.vldl w)
  | 0xA9 => some (.vstl w)
  | 0xAA => some (.vperm w)
  | 0xAB => some (.vrot w)
  | 0xAC => some (.vzip w)
  | 0xAD => some (.vuzp w)
  | 0xAE => some (.vbcast w)
  | 0xAF => some (.vcomp w)
  | 0xB0 => some (.vexpd w)
  | 0xB1 => some (.vamo w)
  | 0xB2 => some (if w.len == 0 && w.mod.getLsbD 0 then .bamovRd w else .bamov w)
  | 0xB3 => some (.baadd w)
  | 0xC0 => some (.mwld w)
  | 0xC1 => some (.mswap w)
  | 0xC2 => some (.mstrm w)
  | 0xC3 => some (.mdrain w)
  | 0xC4 => some (.mzero w)
  | 0xC5 => some (.mspmap w)
  | 0xC6 => some (.cpy w)
  | 0xC7 => some (.cpy2d w)
  | 0xC8 => some (.chtail w)
  | 0xC9 => some (.chseq w)
  | 0xCA => some (.chwait w)
  | 0xCB => some (.xbarw w)
  | 0xCC => some (.xbarr w)
  | 0xCD => some (.bfmt w)
  | 0xCE => some (.help w)
  | 0xCF => some (.evqr w)
  | 0xD0 => some (.gang w)
  | 0xD1 => some (.disband w)
  | 0xD2 => some (.bar w)
  | 0xD3 => some (.lnkcfg w)
  | 0xD4 => some (.lnkst w)
  | 0xD5 => some (.rsend w)
  | 0xD6 => some (.rtree w)
  | 0xE0 => some (.tspawn w)
  | 0xE1 => some (if w.mod.getLsbD 0 then .tdoneKill w else .tdone w)
  | 0xE2 => some (if w.mod == 1 then .tregRel w else .tregRo w)
  | 0xE3 => some (.tqry w)
  | 0xE4 => some (if w.mod.getLsbD 1 then .sforkNew w else .sfork w)
  | 0xE5 => some (.sret w)
  | 0xE6 => some (if w.mod == 0 then .sjoinArm w else .sjoinQ w)
  | 0xE7 => some (.sflat w)
  | 0xE8 => some (.sattn w)
  | 0xE9 => some (.sapp w)
  | 0xEA => some (.spark w)
  | 0xEB => some (if w.mod == 0 then .swakeWake w else if w.mod == 1 then .swakePre w else .swakeExt w)
  | 0xEC => some (.smig w)
  | 0xED => some (.sprune w)
  | 0xEE => some (.sstep w)
  | _ => none

/-- Decode a Tolog instruction: its base word and the eight bytes after it. The causes are those of R30, in its order. -/
def decodeTolog (x imm : BitVec 64) : Except IlCause Instr :=
  let op := opcodeOf x
  let w := Tolog.ofBits x imm
  match ilCheck op (x.getLsbD 7) w with
  | some c => .error c
  | none =>
    match mkTolog op w with
    | some i => .ok i
    | none => .error .opc

/-- A helper word of the custom opcode (R204). -/
def hWord (b a : BitVec 5) (f3 : BitVec 3) (d : BitVec 5) : BitVec 32 :=
  (0 : BitVec 7) ++ b ++ a ++ f3 ++ d ++ (0x0B : BitVec 7)

def rvR (f7 : BitVec 7) (rt rs : BitVec 5) (f3 : BitVec 3) (rd : BitVec 5) (op : BitVec 7) : BitVec 32 :=
  f7 ++ rt ++ rs ++ f3 ++ rd ++ op
def rvI (i : BitVec 12) (rs : BitVec 5) (f3 : BitVec 3) (rd : BitVec 5) (op : BitVec 7) : BitVec 32 :=
  i ++ rs ++ f3 ++ rd ++ op
def rvS (i : BitVec 12) (rt rs : BitVec 5) (f3 : BitVec 3) (op : BitVec 7) : BitVec 32 :=
  i.extractLsb' 5 7 ++ rt ++ rs ++ f3 ++ i.extractLsb' 0 5 ++ op

/-- funct7 and funct3 of a register operation. -/
def RvAlu.code (o : RvAlu) : BitVec 7 × BitVec 3 :=
  match o with
  | .add => (0, 0)
  | .sub => (0x20, 0)
  | .sll => (0, 1)
  | .slt => (0, 2)
  | .sltu => (0, 3)
  | .xor => (0, 4)
  | .srl => (0, 5)
  | .sra => (0x20, 5)
  | .or => (0, 6)
  | .and => (0, 7)
  | .mul => (1, 0)
  | .mulh => (1, 1)
  | .mulhsu => (1, 2)
  | .mulhu => (1, 3)
  | .div => (1, 4)
  | .divu => (1, 5)
  | .rem => (1, 6)
  | .remu => (1, 7)

def RvCmp.code (c : RvCmp) : BitVec 3 :=
  match c with
  | .eq => 0
  | .ne => 1
  | .lt => 4
  | .ge => 5
  | .ltu => 6
  | .geu => 7

def RvCsrOp.code (o : RvCsrOp) : BitVec 2 :=
  match o with
  | .rw => 1
  | .rs => 2
  | .rc => 3

/-- The 32-bit word of an RV32IM instruction. -/
def Rv.bits (r : Rv) : BitVec 32 :=
  match r with
  | .lui rd i => i.extractLsb' 12 20 ++ rd ++ (0x37 : BitVec 7)
  | .auipc rd i => i.extractLsb' 12 20 ++ rd ++ (0x17 : BitVec 7)
  | .jal rd o => o.extractLsb' 20 1 ++ o.extractLsb' 1 10 ++ o.extractLsb' 11 1 ++ o.extractLsb' 12 8 ++ rd ++ (0x6F : BitVec 7)
  | .jalr rd rs o => rvI (o.extractLsb' 0 12) rs 0 rd 0x67
  | .branch c rs rt o =>
    o.extractLsb' 12 1 ++ o.extractLsb' 5 6 ++ rt ++ rs ++ c.code ++ o.extractLsb' 1 4 ++ o.extractLsb' 11 1 ++ (0x63 : BitVec 7)
  | .load n sx rd rs o =>
    rvI (o.extractLsb' 0 12) rs (if n == 1 then (if sx then 0 else 4) else if n == 2 then (if sx then 1 else 5) else 2) rd 0x03
  | .store n rs rt o => rvS (o.extractLsb' 0 12) rt rs (if n == 1 then 0 else if n == 2 then 1 else 2) 0x23
  | .opImm o rd rs i =>
    let hi : BitVec 12 := if o == .sra then 0x400 else 0
    rvI (i.extractLsb' 0 12 ||| hi) rs o.code.2 rd 0x13
  | .op o rd rs rt => rvR o.code.1 rt rs o.code.2 rd 0x33
  | .fence => rvI 0 0 0 0 0x0F
  | .ecall => rvI 0 0 0 0 0x73
  | .ebreak => rvI 1 0 0 0 0x73
  | .mret => rvI 0x302 0 0 0 0x73
  | .wfi => rvI 0x105 0 0 0 0x73
  | .csr o imm rd src n => rvI n src (BitVec.ofBool imm ++ o.code) rd 0x73
  | .illegal w => w

/-- The register operation of funct7 and funct3. -/
def rvAluOf (f7 f3 : Nat) : Option RvAlu :=
  match f7, f3 with
  | 0, 0 => some .add
  | 0, 1 => some .sll
  | 0, 2 => some .slt
  | 0, 3 => some .sltu
  | 0, 4 => some .xor
  | 0, 5 => some .srl
  | 0, 6 => some .or
  | 0, 7 => some .and
  | 0x20, 0 => some .sub
  | 0x20, 5 => some .sra
  | 1, 0 => some .mul
  | 1, 1 => some .mulh
  | 1, 2 => some .mulhsu
  | 1, 3 => some .mulhu
  | 1, 4 => some .div
  | 1, 5 => some .divu
  | 1, 6 => some .rem
  | 1, 7 => some .remu
  | _, _ => none

def rvCmpOf (f3 : Nat) : Option RvCmp :=
  match f3 with
  | 0 => some .eq
  | 1 => some .ne
  | 4 => some .lt
  | 5 => some .ge
  | 6 => some .ltu
  | 7 => some .geu
  | _ => none

/-- The immediate operation of funct3 and the immediate. -/
def rvOpImm (f3 : Nat) (rd rs : BitVec 5) (i12 : BitVec 12) : Option Rv :=
  let i := i12.signExtend 32
  let sh : BitVec 32 := (i12.extractLsb' 0 5).zeroExtend 32
  match f3 with
  | 0 => some (.opImm .add rd rs i)
  | 1 => if i12.extractLsb' 5 7 == 0 then some (.opImm .sll rd rs sh) else none
  | 2 => some (.opImm .slt rd rs i)
  | 3 => some (.opImm .sltu rd rs i)
  | 4 => some (.opImm .xor rd rs i)
  | 5 => if i12.extractLsb' 5 7 == 0 then some (.opImm .srl rd rs sh)
         else if i12.extractLsb' 5 7 == 0x20 then some (.opImm .sra rd rs sh) else none
  | 6 => some (.opImm .or rd rs i)
  | _ => some (.opImm .and rd rs i)

/-- A system word: the environment calls, returns and the CSR instructions. -/
def rvSystem (f3 : Nat) (rd rs : BitVec 5) (n : BitVec 12) : Option Rv :=
  match f3 with
  | 0 =>
    if rd == 0 && rs == 0 then
      if n == 0 then some .ecall else if n == 1 then some .ebreak
      else if n == 0x302 then some .mret else if n == 0x105 then some .wfi else none
    else none
  | 1 => some (.csr .rw false rd rs n)
  | 2 => some (.csr .rs false rd rs n)
  | 3 => some (.csr .rc false rd rs n)
  | 5 => some (.csr .rw true rd rs n)
  | 6 => some (.csr .rs true rd rs n)
  | 7 => some (.csr .rc true rd rs n)
  | _ => none

/-- Decode a 32-bit standard word (RV32IM with the CSR instructions). -/
def decodeRv32 (x : BitVec 32) : Option Rv :=
  let rd := x.extractLsb' 7 5
  let f3 := (x.extractLsb' 12 3).toNat
  let rs := x.extractLsb' 15 5
  let rt := x.extractLsb' 20 5
  let f7 := (x.extractLsb' 25 7).toNat
  let i12 := x.extractLsb' 20 12
  let s12 : BitVec 12 := x.extractLsb' 25 7 ++ x.extractLsb' 7 5
  match (x.extractLsb' 0 7).toNat with
  | 0x37 => some (.lui rd (x.extractLsb' 12 20 ++ (0 : BitVec 12)))
  | 0x17 => some (.auipc rd (x.extractLsb' 12 20 ++ (0 : BitVec 12)))
  | 0x6F =>
    let o : BitVec 21 := x.extractLsb' 31 1 ++ x.extractLsb' 12 8 ++ x.extractLsb' 20 1 ++ x.extractLsb' 21 10 ++ (0 : BitVec 1)
    some (.jal rd (o.signExtend 32))
  | 0x67 => if f3 == 0 then some (.jalr rd rs (i12.signExtend 32)) else none
  | 0x63 =>
    let o : BitVec 13 := x.extractLsb' 31 1 ++ x.extractLsb' 7 1 ++ x.extractLsb' 25 6 ++ x.extractLsb' 8 4 ++ (0 : BitVec 1)
    (rvCmpOf f3).map fun c => .branch c rs rt (o.signExtend 32)
  | 0x03 =>
    match f3 with
    | 0 => some (.load 1 true rd rs (i12.signExtend 32))
    | 1 => some (.load 2 true rd rs (i12.signExtend 32))
    | 2 => some (.load 4 true rd rs (i12.signExtend 32))
    | 4 => some (.load 1 false rd rs (i12.signExtend 32))
    | 5 => some (.load 2 false rd rs (i12.signExtend 32))
    | _ => none
  | 0x23 =>
    match f3 with
    | 0 => some (.store 1 rs rt (s12.signExtend 32))
    | 1 => some (.store 2 rs rt (s12.signExtend 32))
    | 2 => some (.store 4 rs rt (s12.signExtend 32))
    | _ => none
  | 0x13 => rvOpImm f3 rd rs i12
  | 0x33 => (rvAluOf f7 f3).map fun o => .op o rd rs rt
  | 0x0F => if f3 == 0 then some .fence else none
  | 0x73 => rvSystem f3 rd rs i12
  | _ => none

/-- Decode a 16-bit compressed word (RV32C): the standard instruction it stands for. -/
def decodeRvc (h : BitVec 16) : Option Rv :=
  let f3 := (h.extractLsb' 13 3).toNat
  let rd := h.extractLsb' 7 5
  let rt := h.extractLsb' 2 5
  let rdp : BitVec 5 := (1 : BitVec 2) ++ h.extractLsb' 2 3
  let rsp : BitVec 5 := (1 : BitVec 2) ++ h.extractLsb' 7 3
  let i6 : BitVec 6 := h.extractLsb' 12 1 ++ h.extractLsb' 2 5
  let lw : BitVec 7 := h.extractLsb' 5 1 ++ h.extractLsb' 10 3 ++ h.extractLsb' 6 1 ++ (0 : BitVec 2)
  let cj : BitVec 12 := h.extractLsb' 12 1 ++ h.extractLsb' 8 1 ++ h.extractLsb' 9 2 ++ h.extractLsb' 6 1 ++
    h.extractLsb' 7 1 ++ h.extractLsb' 2 1 ++ h.extractLsb' 11 1 ++ h.extractLsb' 3 3 ++ (0 : BitVec 1)
  let cb : BitVec 9 := h.extractLsb' 12 1 ++ h.extractLsb' 5 2 ++ h.extractLsb' 2 1 ++ h.extractLsb' 10 2 ++
    h.extractLsb' 3 2 ++ (0 : BitVec 1)
  match (h.extractLsb' 0 2).toNat, f3 with
  | 0, 0 =>
    let i : BitVec 10 := h.extractLsb' 7 4 ++ h.extractLsb' 11 2 ++ h.extractLsb' 5 1 ++ h.extractLsb' 6 1 ++ (0 : BitVec 2)
    if i == 0 then none else some (.opImm .add rdp 2 (i.zeroExtend 32))
  | 0, 2 => some (.load 4 true rdp rsp (lw.zeroExtend 32))
  | 0, 6 => some (.store 4 rsp rdp (lw.zeroExtend 32))
  | 1, 0 => some (.opImm .add rd rd (i6.signExtend 32))
  | 1, 1 => some (.jal 1 (cj.signExtend 32))
  | 1, 2 => some (.opImm .add rd 0 (i6.signExtend 32))
  | 1, 3 =>
    if rd == 2 then
      let i : BitVec 10 := h.extractLsb' 12 1 ++ h.extractLsb' 3 2 ++ h.extractLsb' 5 1 ++ h.extractLsb' 2 1 ++
        h.extractLsb' 6 1 ++ (0 : BitVec 4)
      if i == 0 then none else some (.opImm .add 2 2 (i.signExtend 32))
    else if i6 == 0 then none
    else some (.lui rd ((i6.signExtend 20) ++ (0 : BitVec 12)))
  | 1, 4 =>
    match (h.extractLsb' 10 2).toNat with
    | 0 => if i6.getLsbD 5 then none else some (.opImm .srl rsp rsp (i6.zeroExtend 32))
    | 1 => if i6.getLsbD 5 then none else some (.opImm .sra rsp rsp (i6.zeroExtend 32))
    | 2 => some (.opImm .and rsp rsp (i6.signExtend 32))
    | _ =>
      if h.getLsbD 12 then none
      else match (h.extractLsb' 5 2).toNat with
        | 0 => some (.op .sub rsp rsp rdp)
        | 1 => some (.op .xor rsp rsp rdp)
        | 2 => some (.op .or rsp rsp rdp)
        | _ => some (.op .and rsp rsp rdp)
  | 1, 5 => some (.jal 0 (cj.signExtend 32))
  | 1, 6 => some (.branch .eq rsp 0 (cb.signExtend 32))
  | 1, 7 => some (.branch .ne rsp 0 (cb.signExtend 32))
  | 2, 0 => if i6.getLsbD 5 then none else some (.opImm .sll rd rd (i6.zeroExtend 32))
  | 2, 2 =>
    let o : BitVec 8 := h.extractLsb' 2 2 ++ h.extractLsb' 12 1 ++ h.extractLsb' 4 3 ++ (0 : BitVec 2)
    if rd == 0 then none else some (.load 4 true rd 2 (o.zeroExtend 32))
  | 2, 4 =>
    if !h.getLsbD 12 then
      if rt == 0 then (if rd == 0 then none else some (.jalr 0 rd 0)) else some (.op .add rd 0 rt)
    else if rt == 0 then (if rd == 0 then some .ebreak else some (.jalr 1 rd 0))
    else some (.op .add rd rd rt)
  | 2, 6 =>
    let o : BitVec 8 := h.extractLsb' 7 2 ++ h.extractLsb' 9 4 ++ (0 : BitVec 2)
    some (.store 4 2 rt (o.zeroExtend 32))
  | _, _ => none

/-- Decode a custom word of the helpers (R204); `none` where it is an illegal instruction. -/
def decodeCustom (x : BitVec 32) : Option Instr :=
  let b := x.extractLsb' 20 5
  let a := x.extractLsb' 15 5
  let d := x.extractLsb' 7 5
  if x.extractLsb' 25 7 != 0 then none
  else match (x.extractLsb' 12 3).toNat with
    | 0 => if d == 0 then some (.hCadd b a) else none
    | 1 => if d == 0 then some (.hPush b a) else none
    | 2 => some (.hChap b a d)
    | 3 => some (.hEvq b a d)
    | 4 => some (.hWait b a d)
    | 5 => if d == 0 && a == 0 && b == 0 then some .hPulse else none
    | _ => none

/-- Decode a helper word: a compressed word where its low two bits are not 11, else 32 bits (R202, R204). -/
def decodeHelper (x : BitVec 32) : Instr :=
  if x.extractLsb' 0 2 != 3 then
    match decodeRvc (x.extractLsb' 0 16) with
    | some r => .rv32imcInstruction r 2
    | none => .rv32imcInstruction (.illegal (x &&& 0xFFFF)) 2
  else if x.extractLsb' 0 7 == 0x0B then
    match decodeCustom x with
    | some i => i
    | none => .rv32imcInstruction (.illegal x) 4
  else
    match decodeRv32 x with
    | some r => .rv32imcInstruction r 4
    | none => .rv32imcInstruction (.illegal x) 4

/-- The instruction whose bits are `w`, numbered as the opcode table numbers them: Tolog words have 64 bits or more. -/
def decodeTableWord (nbits w : Nat) : Option Instr :=
  if nbits ≤ 32 then
    match decodeHelper (BitVec.ofNat 32 w) with
    | .rv32imcInstruction (.illegal _) _ => none
    | i => some i
  else
    match decodeTolog (BitVec.ofNat 64 w) (BitVec.ofNat 64 (w / 18446744073709551616)) with
    | .ok i => some i
    | .error _ => none

/-- The word of a well-formed instruction, with its width in bits; the device's own steps have none. -/
def encode (i : Instr) : Option (Nat × Nat) :=
  match i.tolog with
  | some (op, w) => some (8 * lenBytes w.len, (w.bits op).toNat + w.imm.toNat * 18446744073709551616)
  | none =>
    match i with
    | .hCadd b a => some (32, (hWord b a 0 0).toNat)
    | .hPush b a => some (32, (hWord b a 1 0).toNat)
    | .hChap b a d => some (32, (hWord b a 2 d).toNat)
    | .hEvq b a d => some (32, (hWord b a 3 d).toNat)
    | .hWait b a d => some (32, (hWord b a 4 d).toNat)
    | .hPulse => some (32, (hWord 0 0 5 0).toNat)
    | .rv32imcInstruction r _ => some (32, r.bits.toNat)
    | _ => none

end Sys2Proof
end

