-- ==== Sys2Proof/Config.lean ====
section
/-! DEFINITION. What one implementation fixes, and the values the spec leaves open. -/

namespace Sys2Proof.Config

/-- The free value of number `n`: nothing constrains it. It stands for every value and every choice that the spec
leaves open (notes/assumptions/4.md). -/
opaque free : Nat → Nat

/-- What byte `a` reads as under key instance `r`, where its 16-byte block holds other bytes than those that instance wrote: `xs` is the block, each byte
with its tag (R391, R392). Nothing constrains it. -/
opaque scramble (r a : Nat) (xs : List (Option Nat × Byte)) : Byte

/-- The AES-256-GCM tag of a page in an outer tier (R394, R395), by key instance, initialization vector, additional data and page: nothing constrains
it, for a key is no state of the machine. -/
opaque gcmTag (key iv ad : Nat) (page : List Host.Cell) : Nat

/-- The contents of the boot ROM, and the device identity certificate chain, as fixed at manufacture (R432, R433): nothing constrains them. -/
opaque bootRom : List Byte
/-- The firmware column image that a package is shipped with (R432). -/
opaque columnImage : List Byte
opaque certChain : List Byte

/-- The hash of a flow key (R451): nothing constrains it. -/
opaque flowHash : List Nat → Nat

end Sys2Proof.Config
end

