-- ==== Sys2Proof/Machine/Bits.lean ====
section
/-! DEFINITION. Bit fields, little-endian bytes (R6) and the hash functions of the spec (R315, R209). -/

namespace Sys2Proof.Machine

/-- Bits `hi` to `lo` of a word, as a number. -/
def fld (x : Word) (hi lo : Nat) : Nat := (x.extractLsb' lo (hi - lo + 1)).toNat

/-- Bit `i`. -/
def bit (x : Word) (i : Nat) : Bool := x.getLsbD i

/-- A word from a number. -/
def wd (n : Nat) : Word := BitVec.ofNat 64 n

/-- A Boolean as a word. -/
def wb (b : Bool) : Word := if b then 1 else 0

/-- `x` with bits `hi` to `lo` replaced by the number `n`. -/
def setFld (x : Word) (hi lo n : Nat) : Word :=
  let m : Word := (BitVec.allOnes 64 >>> (63 - (hi - lo))) <<< lo
  (x &&& ~~~m) ||| ((wd n <<< lo) &&& m)

/-- The little-endian bytes of a number (R6). -/
def leBytes (n x : Nat) : List Byte :=
  match n with
  | 0 => []
  | k + 1 => BitVec.ofNat 8 x :: leBytes k (x / 256)

/-- The number of little-endian bytes (R6). -/
def ofLe (xs : List Byte) : Nat :=
  match xs with
  | [] => 0
  | b :: t => b.toNat + 256 * ofLe t

/-- A word from its bytes. -/
def wordOf (xs : List Byte) : Word := wd (ofLe xs)

/-- The first eight-byte word at offset `8 n` of bytes. -/
def wordAt (xs : List Byte) (n : Nat) : Word := wordOf ((xs.drop (8 * n)).take 8)

/-- The bytes of words. -/
def bytesOf (ws : List Word) : List Byte := ws.flatMap fun w => leBytes 8 w.toNat

/-- The words of a list of bytes. -/
def wordsOf (bs : List Byte) : List Word := (List.range (bs.length / 8)).map (wordAt bs)

/-- `n` zero bytes. -/
def zeros (n : Nat) : List Byte := List.replicate n 0

/-- Bytes of a channel entry. -/
def entryBytes (e : Entry) : List Byte := leBytes 128 e.toNat

/-- A channel entry from 128 bytes. -/
def entryOf (xs : List Byte) : Entry := BitVec.ofNat 1024 (ofLe xs)

/-- Xor of the `k`-bit groups of bits `lo` to `hi` of `v` (R315). -/
def fold (v lo hi k : Nat) : Nat :=
  let n := (hi - lo + 1 + k - 1) / k
  (List.range n).foldl (fun x j =>
    let i := lo + j * k
    let top := min (i + k - 1) hi
    x ^^^ ((v / 2 ^ i) % 2 ^ (top - i + 1))) 0 % 2 ^ k

/-- Home die and slice of a device virtual address (R315). -/
def homeSlice (addr : Nat) : Nat × Nat :=
  let die := if addr / 2 ^ 56 % 2 = 1 then addr / 2 ^ 53 % 8 else fold addr 13 55 3
  (die, fold addr 8 55 16 % 48)

/-- One bit of the checker's CRC, polynomial 0x1021, most significant bit first (R209). -/
def crcStep (c : BitVec 16) (b : Bool) : BitVec 16 :=
  let top := c.getLsbD 15 != b
  if top then (c <<< 1) ^^^ 0x1021 else c <<< 1

/-- The CRC over the low `n` bits of `x`, most significant bit first. -/
def crcBits (c : BitVec 16) (x : Word) (n : Nat) : BitVec 16 :=
  match n with
  | 0 => c
  | k + 1 => crcBits (crcStep c (x.getLsbD k)) x k

/-- The signed value of a 64-bit word. -/
def sx (x : Word) : Int := x.toInt

/-- The word of an integer, modulo 2^64. -/
def wi (i : Int) : Word := BitVec.ofInt 64 i

/-- Sign-extended `IMM32`. -/
def sext32 (x : BitVec 64) : Word := (x.extractLsb' 0 32).signExtend 64

/-- The displacement of a handle form, sign-extended (R14). -/
def disp (x : BitVec 64) : Word := (x.extractLsb' 8 24).signExtend 64

/-- The handle index of a handle form (R14). -/
def hidx (x : BitVec 64) : Nat := (x.extractLsb' 0 8).toNat

/-- Round up to a multiple. -/
def ceilDiv (a b : Nat) : Nat := (a + b - 1) / b

/-- Keep a counting register at its greatest value. -/
def satAdd (x n max : Nat) : Nat := min (x + n) max

end Sys2Proof.Machine
end

