-- ==== Sys2Proof/Machine/Maps.lean ====
section
/-! DEFINITION. Sparse maps by ascending number, and the byte memory over them. -/

namespace Sys2Proof.Machine

/-- The value at number `k`. -/
def mget (m : SMap α) (k : Nat) : Option α :=
  match m with
  | [] => none
  | (j, x) :: t => if j = k then some x else mget t k

/-- The value at number `k`, or `d`. -/
def mgetD (m : SMap α) (k : Nat) (d : α) : α := (mget m k).getD d

/-- Put a value at number `k`, in ascending order. -/
def mset (m : SMap α) (k : Nat) (x : α) : SMap α :=
  match m with
  | [] => [(k, x)]
  | (j, y) :: t => if k < j then (k, x) :: (j, y) :: t else if j = k then (k, x) :: t else (j, y) :: mset t k x

/-- Take number `k` out. -/
def mdel (m : SMap α) (k : Nat) : SMap α :=
  match m with
  | [] => []
  | (j, y) :: t => if j = k then t else if k < j then (j, y) :: t else (j, y) :: mdel t k

/-- The least number from `n` on, below `n + fuel`, that holds nothing. -/
def mfree (m : SMap α) (n : Nat) (fuel : Nat) : Option Nat :=
  match fuel with
  | 0 => none
  | f + 1 => if (mget m n).isSome then mfree m (n + 1) f else some n

/-- Memory: (address, byte) pairs in ascending order; an unlisted byte reads as zero (notes/assumptions/1.md). -/
abbrev Memory := List Host.Cell

/-- Whether the addresses rise strictly. -/
def mrising (m : SMap α) : Bool :=
  match m with
  | [] => true
  | (j, _) :: t => t.all (fun c => decide (j < c.1)) && mrising t

/-- The canonical form: addresses rise, and no entry is zero. -/
def Memory.wf (m : Memory) : Bool := mrising m && m.all (fun c => c.2 != 0)

/-- One byte. -/
def memGet (m : Memory) (a : Nat) : Byte := mgetD m a 0

/-- Write one byte; a zero takes the entry out. -/
def memSet (m : Memory) (a : Nat) (x : Byte) : Memory := if x = 0 then mdel m a else mset m a x

/-- `n` bytes from `a` on. -/
def memRead (m : Memory) (a n : Nat) : List Byte :=
  match n with
  | 0 => []
  | k + 1 => memGet m a :: memRead m (a + 1) k

/-- Write bytes from `a` on. -/
def memWrite (m : Memory) (a : Nat) (xs : List Byte) : Memory :=
  match xs with
  | [] => m
  | x :: t => memWrite (memSet m a x) (a + 1) t

/-- Take out a range. -/
def mclear (m : SMap α) (a n : Nat) : SMap α := m.filter fun c => !(a ≤ c.1 && c.1 < a + n)

/-- Write `n` zero bytes from `a` on. -/
def memZero (m : Memory) (a n : Nat) : Memory := mclear m a n

/-- The entries of a range, by offset. -/
def mcut (m : SMap α) (a n : Nat) : SMap α :=
  (m.filter fun c => a ≤ c.1 && c.1 < a + n).map fun c => (c.1 - a, c.2)

/-- Put entries by offset from `a` on. -/
def mpaste (m : SMap α) (a : Nat) (cs : SMap α) : SMap α :=
  match cs with
  | [] => m
  | (j, x) :: t => mpaste (mset m (a + j) x) a t

/-- The cells of a range, by offset. -/
def memCut (m : Memory) (a n : Nat) : Memory := mcut m a n

/-- Write cells by offset from `a` on. -/
def memPaste (m : Memory) (a : Nat) (cs : List Host.Cell) : Memory :=
  match cs with
  | [] => m
  | (j, x) :: t => memPaste (memSet m (a + j) x) a t

end Sys2Proof.Machine
end

