-- ==== Sys2Proof/Machine/State.lean ====
section
/-! DEFINITION. The state of the FLT-9624, all of it plain data, and the state right after reset. -/

namespace Sys2Proof.Machine

/-! ### A firing -/

/-- One register's value in flight; `msk` names the bits of a vector register that the instruction writes (R24, R156). -/
inductive RegWrite where
  | g (r : BitVec 6) (x : Word)
  | v (r : Nat) (x msk : VReg)
  | p (r : Nat) (x : Bool)
  | k (r : Nat) (x : KReg)
  | ba (r : Nat) (x : BitVec 40)
deriving DecidableEq, Repr

/-- The results of one issued instruction that have not been delivered (R24 to R27). -/
structure Result where
  /-- The delivery clock of a fixed-latency result; `none` for a scoreboarded one. -/
  due    : Option Nat
  /-- A scoreboarded result whose value its unit has not given yet. -/
  await  : Bool := false
  /-- The number of the load that waits at its home for it, 0 for none (R405). -/
  load   : Nat := 0
  /-- Its registers are delivered poisoned (R443). -/
  poison : Bool := false
  writes : List RegWrite
  /-- The `FSTAT` flags it carries (R70). -/
  flags  : BitVec 7 := 0
deriving DecidableEq, Repr

/-- Why a firing is not a candidate for issue (R98). -/
inductive Wait where
  | none
  /-- `CWAIT`: the place of the counter, its key, target, deadline, destination fields (R145). -/
  | cwait (home key : Nat) (target : Word) (deadline : Option Nat) (d e : BitVec 6)
  /-- `MWAIT`: deadline and destination field (R149). -/
  | mwait (deadline : Option Nat) (d : BitVec 6)
  /-- `CHWAIT`: engine (0 array, 1 copy) and sequence (R226). -/
  | chwait (eng : Nat) (target : Word)
  /-- `BAR`: barrier (R258). -/
  | bar (b : Nat)
  /-- `YIELD`: of the slots that were candidates, those still to issue and all of them, and the last clock (R116). -/
  | yield (left all : List Nat) (until_ : Nat)
  /-- A `GANG` that waits for its group, and once it is granted the clock it is formed in (R251). -/
  | gang (n : Nat) (forms : Option Nat)
  /-- A `GANG` that has been granted while results of its followers are still to come (R27, R251). -/
  | ganging (n : Nat)
  /-- A faulted firing whose trap record the full event queue holds back (R201). -/
  | record
deriving DecidableEq, Repr

/-- The answer of an access replayed to another package (R465): the cause of its trap, 0 for none, and its bytes. -/
structure Reply where
  cause : Nat := 0
  bytes : List Byte := []
  /-- The die whose fenced home has answered a merged request negatively (R443). -/
  nack  : Option Nat := none
  /-- Another package, which has counted it, has answered it negatively (R443, R468). -/
  lost  : Bool := false
deriving DecidableEq, Repr

/-- A checked access: where each of its bytes stands. -/
structure Acc where
  core  : Nat
  space : Nat
  ctx   : Nat
  key   : Nat
  /-- The first address in the space. -/
  addr  : Nat
  n     : Nat
  /-- Its bytes in ascending order: the place of the first and the count; `none` reads as zeros (R345). -/
  segs  : List (Option Nat × Nat)
  /-- Performed in the L1 (R325). -/
  cached : Bool
  /-- The stream of a `STRM` access. -/
  sid   : Nat := 0
deriving DecidableEq, Repr

/-- What a blocked `CWAIT` needs for a new walk of its counter's address (R324): the address, `ILV`, and the pc and `TRAPVAL` of a trap. -/
structure Watched where
  addr : Nat
  ilv  : Bool
  pc   : Nat
  val  : Word
deriving DecidableEq, Repr

/-- A firing in a slot: its registers (R91), control registers (R67, R93) and conditions. -/
structure Firing where
  /-- Entry of the core's actor table. -/
  actor : Nat := 0
  rti   : Nat := 0
  cls   : Nat := 0
  priv  : Bool := false
  /-- Firing sequence number at the start (R87). -/
  seqNo : Nat := 0
  g     : Vector Word 64 := Vector.replicate 64 0
  v     : Vector VReg 32 := Vector.replicate 32 0
  p     : Vector Bool 8 := Vector.replicate 8 false
  k     : Vector KReg 8 := Vector.replicate 8 0
  ba    : Vector (BitVec 40) 8 := Vector.replicate 8 0
  /-- Byte address in the instruction store; 18 bits of the machine, kept as a number for the range check of R10. -/
  pc    : Nat := 0
  fmode : Word := 0
  fstat : Word := 0
  fseed : Word := 0
  sbchk : Word := 0
  sigctl : Word := 0
  trapCause : Word := 0
  trapPc    : Word := 0
  trapVal   : Word := 0
  trapVec   : Word := 0
  /-- The lane generators, lane i in bits 32i + 31 to 32i (R61). -/
  gens  : VReg := 0
  /-- Signature checker: control-flow CRC, data-dependence CRC, block address (R209). -/
  sigCf : BitVec 16 := 0xFFFF
  sigDd : BitVec 16 := 0xFFFF
  sigBlock : Nat := 0
  /-- Flags delivered, each with its clock: they reach `FSTAT` in the clock after it (R70). -/
  flagsDue : List (Nat × BitVec 7) := []
  /-- Results in flight, oldest first. -/
  flight : List Result := []
  /-- Registers that hold poison, by space and number (R443). -/
  poison : List (Nat × Nat) := []
  /-- Registers whose parity fails (R445). -/
  parity : List (Nat × Nat) := []
  /-- Registers that nothing has written since a restore, and that were sound then (R211, R212). -/
  clean : List (Nat × Nat) := []
  nextIssue : Nat := 0
  /-- The first clock in which it became a candidate after its last issue, start, wait or restore (R90). -/
  ready : Option Nat := none
  /-- The last instruction had `YLD` = 1 and its clock has not been offered yet (R18, R90). -/
  yld   : Bool := false
  /-- The clock of the last attempt that the instruction could not issue in. -/
  tried : Option Nat := none
  wait  : Wait := .none
  /-- Input windows by channel (R77). -/
  window : SMap (List Entry) := []
  /-- Entries closed by output channel, and the entry being filled (R78, R128). -/
  closed : SMap (List Entry) := []
  filling : SMap Entry := []
  /-- A monitor of the firing was evicted (R147); a save disarmed its monitors (R149); a monitor had triggered before it went (R150). -/
  overflow : Bool := false
  restored : Bool := false
  woken : Bool := false
  /-- Sequence number of its most recent copy entry (R231). -/
  lastCopy : Option Nat := none
  /-- Size of the gang it leads, 1 for none (R249). -/
  gang  : Nat := 1
  /-- Accesses of the instruction that have been issued and wait at their home, by number (R346, R405). -/
  issued : SMap Acc := []
  /-- Accesses replayed to another package by its interface, and their answers (R465). -/
  asked : List Nat := []
  replies : SMap Reply := []
  /-- Sequence numbers of engine entries whose `MXSUS` is still to be delivered (R101). -/
  mxsus : List Nat := []
  /-- The counter of a blocked `CWAIT`, where it lies in `DEV` memory (R324). -/
  watched : Option Watched := none
  /-- Stopped at an instruction boundary to be saved (R308). -/
  stopped : Bool := false
  /-- To end with `KILL` once the accesses of its instruction are done (R86, R103). -/
  killed : Bool := false
deriving DecidableEq, Repr

/-- What the body of an instruction sees: the word, the firing with its results delivered, its place, and the words popped from links. -/
structure Ctx where
  op : Nat
  w  : Tolog
  f  : Firing
  c  : Nat
  k  : Nat
  links : SMap Entry := []
  /-- The number of a load that has issued and waits at its home, 0 before (R405). -/
  load : Nat := 0
deriving DecidableEq, Repr

/-! ### A core -/

structure InChan where
  ch    : Nat
  rate  : Nat
  depth : Nat
  cls   : Nat
  fifo  : List Entry := []
  reserved : Nat := 0
  /-- A stage's queue (R312): entries held by firings, each with its ordinal and its holder (core × 8 + slot); entries given
  back, by ordinal, ahead of `fifo`. -/
  lent  : List (Nat × Nat × Entry) := []
  back  : SMap Entry := []
  /-- The ordinal of the first entry of `fifo`. -/
  ord   : Nat := 0
  /-- Words of entries in uncorrectable error, by ordinal × 16 + word (R181, R208); and the entries that a restore wrote, with theirs then (R212). -/
  err   : List Nat := []
  cleanTo : Nat := 0
  cleanErr : List Nat := []
deriving DecidableEq, Repr

/-- An output channel, bound to input `tch` of entry `tactor` of the actor table of core `tcore` (R470). -/
structure OutChan where
  ch    : Nat
  rate  : Nat
  tcore : Nat
  tactor : Nat
  tch   : Nat
deriving DecidableEq, Repr

/-- An entry of the actor table (R74 to R80, R87). -/
structure Actor where
  task  : Nat
  rti   : Nat
  idx   : Nat
  entry : Nat
  cls   : Nat
  priv  : Bool
  ins   : List InChan
  outs  : List OutChan
  seqNo : Nat := 0
  busy  : Bool := false
  held  : Bool := false
  faulted : Bool := false
  /-- A start actor that has fired (R76). -/
  started : Bool := false
  /-- The clock it became ready in (R89). -/
  readyAt : Option Nat := none
  /-- Image and stage (R312). -/
  image : Nat := 0
  stage : Nat := 0
  /-- The entry is in uncorrectable error (R181, R208). -/
  bad   : Bool := false
deriving DecidableEq, Repr

/-- A message at a network interface (R132), a partial-sum word (R271) or a fabric packet (R453). -/
inductive OutMsg where
  | actor (task : Nat) (core entry ch : Nat) (data : Entry)
  | partialSum (core : Nat) (data : Entry) (psn : Bool)
  | packet (p : Packet)
deriving DecidableEq, Repr

/-- A handle table entry's four words (R183). -/
structure Handle where
  w0 : Word := 0
  w1 : Word := 0
  w2 : Word := 0
  w3 : Word := 0
deriving DecidableEq, Repr

/-- The captured formats of the banks an entry names (R189): bank and `BFMT`. -/
abbrev Formats := List (Nat × Word)

/-- Why a copy stops at a byte: a status with its fault value, a fenced home's answer (R443), or an answer still to come. -/
inductive Stop where
  | none
  | fault (status : Nat) (val : Word)
  | nack (val : Word)
  | hold
deriving DecidableEq, Repr

/-- What a copy in progress keeps of its sides as it began: the handles, and the lane and scale places that the spec leaves open (R186). -/
structure CopySides where
  d : Handle
  t : Handle
  lane : Nat
  fv : Nat
deriving DecidableEq, Repr

/-- The source of a copied row from byte `ofs` on, as it was read before any byte of the row was written, and where the read stopped (R242). -/
structure SourceRow where
  row : Nat
  ofs : Nat
  bytes : List Byte
  scales : List Nat := []
  stop : Stop := .none
deriving DecidableEq, Repr

/-- What the engine keeps about a chain entry beside its 64 bytes (R219, R225, R231). -/
structure EntryTag where
  seq   : Nat
  formats : Formats := []
  released : Bool := false
  /-- Array entry: the copy entry it is held on has completed, or it is not held (R231). -/
  folDone : Bool := false
  started : Bool := false
  /-- It has started and waits at a home for an answer, a copied frame or a fetched page (R242). -/
  held : Bool := false
  /-- Its operation is done and its counter add was turned away (R443). -/
  worked : Bool := false
  /-- The entry has done its work and waits to be published in order (R216, R230). -/
  finished : Bool := false
  /-- Destination bytes done (R222). -/
  done  : Nat := 0
  flags : BitVec 7 := 0
  suspect : Bool := false
  status : Nat := 0
  faultVal : Word := 0
  /-- The firing that appended it: slot and actor (R101). -/
  slot  : Option Nat := none
  actor : Nat := 0
  mxtrap : Bool := false
  skipped : Bool := false
  /-- The clock it completes in at the earliest (R230). -/
  clock : Nat := 0
  /-- An operand lay outside its field when it was appended (R239). -/
  bad   : Bool := false
  /-- The stream that a `STRM` handle without an id means. -/
  sid   : Nat := 0
  /-- Accesses replayed to another package, and their answers (R465). -/
  asked : List Nat := []
  replies : SMap Reply := []
  /-- Accesses that have been issued and wait at their home, by number (R186, R346). -/
  issued : SMap Acc := []
  /-- The sides of a copy that has begun, and the source of its row in progress (R186, R242). -/
  sides : Option CopySides := none
  source : Option SourceRow := none
deriving DecidableEq, Repr

/-- An engine chain of a task on a core (R215 to R224). -/
structure Chain where
  cfg  : Word := 0
  tail : Nat := 0
  done : Nat := 0
  halted : Option Nat := none
  tags : List EntryTag := []
  /-- Copies whose held array entries are to be released, each with the clock it completed in (R231). -/
  fol  : List (Nat × Nat) := []
deriving DecidableEq, Repr

/-- A task resident on a core, at its resident task index (R203, R283). -/
structure Resident where
  task  : Nat
  slots : Nat := 8
  spBase : Nat := 0
  spSize : Nat := 0
  chBase : Nat := 0
  chSize : Nat := 0
  slBase : Nat := 0
  slSize : Nat := 0
  arr   : Bool := false
  xbar  : Bool := false
  links : Bool := false
  helpers : Bool := false
  rcap  : Bool := false
  excl  : Bool := false
  contrib : BitVec 4 := 0
  band  : Nat := 0
  member : Nat := 0
  handles : SMap Handle := []
  /-- The entries whose image broke the rules when it was checked last: at dispatch, or after an `HST` (R184). -/
  invalid : List Nat := []
  /-- Written high-water marks by region record (R299). -/
  hiWater : SMap Nat := []
  achain : Chain := {}
  cchain : Chain := {}
deriving DecidableEq, Repr

/-- A line of the L1 (R191). `space` 3 is `CHIP`, 4 is `DEV`; `line` is the address ÷ 64. -/
structure Line where
  space : Nat
  line  : Nat
  ctx   : Nat
  /-- Where the line's first byte stands at its home. -/
  home  : Nat
  key   : Nat
  valid : BitVec 64
  dirty : BitVec 64
  /-- Bytes in uncorrectable error (R181, R208). -/
  err   : BitVec 64 := 0
  data  : BitVec 512
deriving DecidableEq, Repr

/-- An armed monitor (R147): its line, its firing, and whether it has triggered. -/
structure Monitor where
  home  : Nat
  slot  : Nat
  /-- The directory at the line's home: die × 48 + slice, or 1000 + core (R196). -/
  dir   : Nat
  registered : Bool := false
  fired : Bool := false
  /-- The entry is in uncorrectable error (R181, R208). -/
  bad   : Bool := false
deriving DecidableEq, Repr

/-- A record of the event queue (R199). -/
structure EvRecord where
  w0 : Word
  w1 : Word := 0
  w2 : Word := 0
  w3 : Word := 0
  /-- The record's words are in uncorrectable error (R181, R208). -/
  psn : Bool := false
  /-- The slot that takes `MXSUS` once the record is written, and the entry's sequence number (R101). -/
  tells : Option (Nat × Nat) := none
deriving DecidableEq, Repr

/-- A translation that a TLB holds (R322). -/
structure TlbEntry where
  ctx  : Nat
  page : Nat
  size : Nat
  pa   : Nat
  r    : Bool
  w    : Bool
deriving DecidableEq, Repr

/-- An `SATTN` whose slices have not all answered (R366, R367): what it captured, its token records and their slices, its
queries, where its results go, the triples still to come by slice and query, and each query's triple so far as codes. -/
structure Attn where
  slot  : Nat
  task  : Nat := 0
  d     : BitVec 6
  sid   : Nat
  key   : Nat
  mode  : Nat
  ftz   : Bool
  nanpol : Bool
  fmt   : Nat
  dim   : Nat
  scale : Nat
  tstr  : Nat
  kofs  : Nat
  vofs  : Nat
  t0    : Nat
  n     : Nat
  blocks : SMap Nat
  queries : List (List Byte)
  out   : List (Option Nat × Nat)
  left  : List (Nat × Nat)
  accs  : List (Nat × Nat × List Nat)
  flags : BitVec 7 := 0
deriving DecidableEq, Repr

/-- A firmware service asked for and not yet answered (R124, R429): the firing's slot and destination, the service with its operands,
and the key and context of the calling task. -/
structure Call where
  slot : Nat
  d    : BitVec 6
  svc  : Nat
  a    : Word
  b    : Word
  key  : Nat
  ctx  : Nat
deriving DecidableEq, Repr

/-- A helper core (R202 to R205). -/
structure Helper where
  /-- Held at reset: its image carries no code (R46). -/
  held : Bool := true
  halted : Bool := false
  /-- `h.wait`: the causes selected, the deadline and rd (R204). -/
  asleep : Option (BitVec 4 × BitVec 32 × BitVec 5) := none
  x    : Vector (BitVec 32) 32 := Vector.replicate 32 0
  pc   : BitVec 32 := 0
  mstatus : BitVec 32 := 0x1800
  mtvec : BitVec 32 := 0
  mepc : BitVec 32 := 0
  mcause : BitVec 32 := 0
  mtval : BitVec 32 := 0
  mscratch : BitVec 32 := 0
  mcycle : Word := 0
  minstret : Word := 0
  hsel : BitVec 32 := 0x300
  /-- Wake causes 1 and 2 pending (R204). -/
  wake1 : Bool := false
  wake2 : Bool := false
deriving DecidableEq, Repr

/-- The event crossbar (R206, R207). -/
structure Xbar where
  counters : Vector Word 16 := Vector.replicate 16 0
  terms    : Vector Word 8 := Vector.replicate 8 0
  starts   : Vector Word 16 := Vector.replicate 16 0
  timer    : Word := 0
  overrun  : BitVec 16 := 0
  latches  : Vector (BitVec 32) 8 := Vector.replicate 8 0
  /-- Source pulses that reach counters and terms, with the clock they pulsed in. -/
  pulses   : List (Nat × Nat) := []
  /-- Terms that have fired and act in the next clock. -/
  fired    : List (Nat × Nat) := []
  pending  : BitVec 16 := 0
  timerAt  : Nat := 0
deriving DecidableEq, Repr

/-- The reduction server (R268 to R273). -/
structure Server where
  cfg   : Word := 0
  parent : Word := 0
  root  : Word := 0
  stat  : Word := 0
  acc   : Entry := 0
  count : Nat := 0
  /-- Words that wait, each with its poison mark (R276). -/
  waiting : List (Entry × Bool) := []
  /-- Whether a poisoned word was added in the open round. -/
  psn   : Bool := false
  /-- The clock the adder is free in. -/
  free  : Nat := 0
deriving DecidableEq, Repr

/-- The matrix array's own memories (R227, R229): words by (set × 128 + row) × 64 + column, planes as weight codes. -/
structure Array where
  acc   : SMap (BitVec 32) := []
  active : SMap (BitVec 16) := []
  shadow : SMap (BitVec 16) := []
  /-- Format word and map of each plane, and the map set for the next load: bitmap in [31:0], `.s24` in [32], the dense
  map of allotment in [33]. -/
  activeFmt : Word := 0
  shadowFmt : Word := 0
  activeMap : Word := 0x200000000
  shadowMap : Word := 0x200000000
  nextMap   : Word := 0x200000000
  /-- Index area address of the map that `MSPMAP` set. -/
  nextIdx   : Nat := 0
  activeIdx : SMap Nat := []
  shadowIdx : SMap Nat := []
  /-- Scale bytes of an MX plane, by block × 64 + column. -/
  activeScale : SMap Nat := []
  shadowScale : SMap Nat := []
  /-- Accumulator rows that hold INT32 words, by set × 128 + row. -/
  accInt : List Nat := []
deriving DecidableEq, Repr

/-- A core (R181). -/
structure Core where
  cycle0 : Nat := 0
  slots  : Vector (Option Firing) 8 := Vector.replicate 8 none
  actors : SMap Actor := []
  nic    : List OutMsg := []
  tasks  : SMap Resident := []
  l1     : List Line := []
  tlb    : List TlbEntry := []
  bfmt   : Vector Word 16 := Vector.replicate 16 0
  array  : Array := {}
  monspo : Word := 0
  monspr : Word := 0
  monspt : Word := 0
  cecnt  : Word := 0
  monitors : List Monitor := []
  /-- Lines of the scratchpad's monitor directory, oldest first (R196). -/
  dir    : List Nat := []
  evq    : List EvRecord := []
  /-- Records that the full queue holds back (R201). -/
  evHeld : List EvRecord := []
  helpers : Vector Helper 2 := Vector.replicate 2 {}
  xbar   : Xbar := {}
  /-- The resident index that the copy engine served last (R214). -/
  copyLast : Nat := 7
  winctl : Word := 0
  /-- Incoming link FIFOs ln, le, ls, lw, each word with the clock it entered in; words on their way, each with the clock
  it arrives in; and the forward bits (R262 to R265). -/
  fifos  : Vector (List (Nat × Entry)) 4 := Vector.replicate 4 []
  arriving : Vector (List (Nat × Entry)) 4 := Vector.replicate 4 []
  /-- Words of the links that are marked poisoned, by direction and the clock they enter in (R276). -/
  linkPsn : List (Nat × Nat) := []
  /-- The clock of the last pop of each FIFO: its credit returns in the next (R263). -/
  popped : Vector (Option Nat) 4 := Vector.replicate 4 none
  fwd    : BitVec 4 := 0
  server : Server := {}
  /-- The leader's core, while this core follows a gang (R251). -/
  follows : Option Nat := none
  /-- Suspect events and `SIGMIS` counted toward quarantine (R444). -/
  sigCount : Nat := 0
  susCount : Nat := 0
  /-- Loads that have issued and wait at their homes for absent pages (R405). -/
  loads  : List Ctx := []
  /-- `SATTN`s under way (R366). -/
  attns  : List Attn := []
  /-- Firmware services asked for (R124). -/
  calls  : List Call := []
  /-- The last clock an instruction issued in (R90), and the clock the multipliers are free in (R160). -/
  issued : Option Nat := none
  mulFree : Nat := 0
  /-- Rewritten from the boot table: the core is disabled (R439), or its rectangle is fenced (R441). -/
  disabled : Bool := false
  fenced : Bool := false
  /-- The fence under way: the core it was asked for, and the rectangle's number where it has one (R441, R442). -/
  fence  : Option (CoreId × Option Nat) := none
deriving DecidableEq, Repr

/-! ### Tasks -/

/-- The states of R291. -/
inductive TaskState where
  | waiting | queued | held | placed | entering | running | preempting | saved | restoring | draining | flushing
deriving DecidableEq, Repr

/-- The code of R291. -/
def TaskState.code : TaskState → Nat
  | .waiting => 1
  | .queued => 2
  | .held => 3
  | .placed => 4
  | .entering => 5
  | .running => 6
  | .preempting => 7
  | .saved => 8
  | .restoring => 9
  | .draining => 10
  | .flushing => 11

/-- The modes of a region record (R285). -/
inductive Mode where
  | r | w | rw | acc
deriving DecidableEq, Repr

/-- A region record (R285), resolved when the task is placed (R286); `now` is what `TREG` has left of it (R304). -/
structure Region where
  hidx  : Nat
  ofs   : Nat
  ext   : Nat
  mode  : Mode
  fwd   : Bool := false
  tb    : Nat := 0
  tm    : Nat := 0
  tofs  : Nat := 0
  space : Nat := 4
  base  : Nat := 0
  key   : Nat := 0
  ilv   : Bool := false
  now   : Option Mode := none
  /-- Released by `TREG`; its flush is still to run; the region is flushed to its end; a flush error (R304 to R307). -/
  released : Bool := false
  flushing : Bool := false
  /-- The rights that it counts with until then (R293, R304). -/
  kept : Option Mode := none
  flushed : Bool := false
  failed : Bool := false
  /-- Bytes flushed, and the high-water mark at the end (R305, R307). -/
  progress : Nat := 0
  high  : Nat := 0
deriving DecidableEq, Repr

/-- A core of a placed task: band, member index, core and resident task index (R296). -/
structure Place where
  band : Nat
  member : Nat
  core : CoreId
  rti  : Nat
deriving DecidableEq, Repr

/-- One core's part of a pre-emption image (R211): what the core held for the task, its ranges' bytes by offset. -/
structure SavedCore where
  band : Nat
  member : Nat
  core : CoreId
  res  : Resident
  actors : List Actor
  firings : List (Nat × Firing)
  sp   : List Host.Cell
  /-- Slice ranges, by lane × 4096 + offset. -/
  sl   : List Host.Cell
  /-- Uncorrectable errors of the scratchpad range, of the slice ranges and of the accumulators, by offset. -/
  spErr : List Nat := []
  slErr : List Nat := []
  accErr : List Nat := []
  array : Option Array
  bfmt : List (Nat × Word)
  xbar : Option Xbar
  fwd  : Option (BitVec 4)
  fifos : List (List (Nat × Entry))
  linkPsn : List (Nat × Nat) := []
  msgs : List OutMsg
deriving DecidableEq, Repr

/-- A task in flight (R284 to R308). -/
structure Task where
  state : TaskState := .queued
  typ   : Nat := 0
  /-- The type's words, and the images of its bands' roles (R282). -/
  tw    : List Word := []
  roles : List (Option Nat) := []
  cls   : Nat := 0
  ts    : Nat := 0
  sid   : Nat := 0
  /-- The streams of a batch task, in member order (R363). -/
  batch : List Nat := []
  regions : List Region := []
  handles : SMap Handle := []
  ctx   : Nat := 0
  key   : Nat := 0
  parm  : Word := 0
  noadd : Bool := false
  doneW : Word := 0
  waitW : Word := 0
  wait  : Bool := false
  wtgt  : Word := 0
  recAddr : Nat := 0
  cap   : Nat := 0
  ncap  : Nat := 0
  capUsed : Nat := 0
  /-- Order of entry into its class queue. -/
  qpos  : Nat := 0
  places : List Place := []
  /-- Clock of the latest dispatch, and the clock since which it has not fitted (R297). -/
  placedAt : Nat := 0
  waitingSince : Option Nat := none
  tdone : Bool := false
  killed : Bool := false
  faulted : Bool := false
  cause : Nat := 0
  fcore : Nat := 0
  fslot : Nat := 0
  fpc   : Nat := 0
  fval  : Word := 0
  status : Nat := 0
  /-- What the record reports of the ended task (R307): completed array and copy sequences, halted copy, entries discarded. -/
  arrSeq : Nat := 0
  copySeq : Nat := 0
  haltSeq : Nat := 0
  dropped : Nat := 0
  preempts : Nat := 0
  saved : List SavedCore := []
  /-- Bytes of the save pool reserved (R471). -/
  reserved : Nat := 0
  /-- A pre-emption has been requested, and the clock `PREEMPT_WAIT` ends in (R308). -/
  preempt : Bool := false
  saveAt : Nat := 0
  /-- The clock its running phase began in (R302). -/
  ranAt : Option Nat := none
  /-- Every core that it has been placed on: the L1s that may hold its lines (R304, R305). -/
  former : List CoreId := []
  /-- What it contributed to the cluster windows of cores it has left, until its exit edge is complete (R261). -/
  windows : List (CoreId × BitVec 4) := []
  /-- The graph and the task's number in it (R425), and the queue whose work the task is (R421). -/
  graph : Option (Nat × Nat) := none
  queue : Option Nat := none
  /-- Predecessors that have not completed: it waits on the engine's own counter (R425). -/
  preds : Option Nat := none
  /-- The stages' queues, by actor index, of a balanced band, and the last look of its balancer (R312). -/
  queues : SMap (List InChan) := []
  balancedAt : Nat := 0
  /-- The member actor of a batch task and its channel (R363). -/
  batchAct : Option (Nat × Nat) := none
deriving DecidableEq, Repr

/-! ### Streams -/

/-- The states of R339. -/
inductive StreamState where
  | free | ready | running | parked | pruned | migrating | snapshot | returned
deriving DecidableEq, Repr

def StreamState.code : StreamState → Nat
  | .free => 0
  | .ready => 1
  | .running => 2
  | .parked => 3
  | .pruned => 4
  | .migrating => 5
  | .snapshot => 6
  | .returned => 7

/-- A stream table entry (R338). The fields' widths are those of the table. -/
structure Stream where
  state : StreamState := .free
  cls   : Bool := false
  ppnd  : Bool := false
  kv    : Bool := false
  depth : Nat := 0
  cidx  : Nat := 0
  parent : Nat := 0
  /-- Generation (R337). -/
  gen   : Nat := 1
  node  : Nat := 0xFFFF
  len   : Nat := 0
  horiz : Nat := 0
  nch   : Nat := 0
  nret  : Nat := 0
  qhead : Nat := 0
  qcnt  : Nat := 0
  key   : Nat := 0
  arm   : Bool := false
  op    : Nat := 0
  kk    : Nat := 0
  cfmode : BitVec 8 := 0
  radr  : Nat := 0
  cadr  : Nat := 0
  jkey  : Word := 0
  rval  : Word := 0
  act   : Vector Word 8 := Vector.replicate 8 0
  /-- The clock it became ready at its node (R363). -/
  readyAt : Nat := 0
  /-- The release of its frames is under way (R351); the absorb of it is due (R353). -/
  releasing : Bool := false
  absorbing : Bool := false
  /-- Its return counts in its parent's `NRET`. -/
  counted : Bool := false
  /-- Where the join record and the counter stand, as `SJOIN.arm` resolved them (R361). -/
  rsegs : List (Option Nat × Nat) := []
  cplace : Option Nat := none
  /-- Context and `ILV` of the record and of the counter, where they lie in `DEV` memory (R324). -/
  rdev  : Option (Nat × Bool) := none
  cdev  : Option (Nat × Bool) := none
  /-- The queue whose work created it (R421). -/
  queue : Option Nat := none
deriving DecidableEq, Repr

/-- An entry of the inverted page table (R342): the mapping of block `block` of stream or snapshot `holder`. -/
structure Mapping where
  holder : Nat
  block  : Nat
  frame  : Nat
  al     : Bool := false
  rc     : Nat := 1
  key    : Nat := 0
  tier   : Nat := 0
  present : Bool := true
  dirty  : Bool := false
  /-- Its slot of the inverted page table: below 2^`LOGS` in a probe run, from there on in the overflow area. -/
  slot   : Nat := 0
deriving DecidableEq, Repr

/-- A copy-on-write step in progress (R347): the new frame and the mapping it will make. -/
structure Copying where
  holder : Nat
  block  : Nat
  src    : Option Nat
  own    : Bool
  frame  : Nat
deriving DecidableEq, Repr

/-- A park record (R396), and what the park engine keeps of it. -/
structure Park where
  /-- `PSTATE`: 0 free, 1 pending, 2 parked, 3 pre-promoting, 4 to 6 stages A to C. -/
  state : Nat := 0
  sid   : Nat := 0
  wake  : Nat := 0
  anchor : Nat := 0
  tfl   : Nat := 0
  tcx   : Nat := 0
  hcnt  : Nat := 0
  hfirst : Nat := 0
  nloc  : Nat := 0
  ncxl  : Nat := 0
  nfl   : Nat := 0
  key   : Nat := 0
  /-- Where the wake line stands, and the key of its handle. -/
  place : Nat := 0
  lineKey : Nat := 0
  /-- The stage of promotion: 1 to 3 for A to C, 0 for none; state 3 runs them too (R404). -/
  stage : Nat := 0
  /-- The delay of an `SWAKE.ext` that waits for the record's return to parked (R406). -/
  ext   : Option Nat := none
  /-- The steps of R402 that have begun, the tier that its moves go to, and the blocks that are still to move. -/
  steps : Nat := 0
  dest  : Nat := 2
  todo  : List Nat := []
  /-- Re-pointed pages that are not present, by block, each with the descriptor of its slot (R404). -/
  kept  : SMap Nat := []
  /-- The HBM frames that stage A has taken, by block (R404). -/
  frames : SMap Nat := []
  /-- Pages that an access waits for (R405). -/
  wanted : List Nat := []
deriving DecidableEq, Repr

/-- A watch (R400): the wake line's device address, the place of the line ÷ 64, and the park index. -/
structure Watch where
  addr : Nat
  line : Nat
  park : Nat
deriving DecidableEq, Repr

/-- A tier descriptor in use (R394): its tier (2 CXL, 3 flash), `PSN`, slot, write counter and `TAG`; the key instance that its page
was written under, and the mark that the slot's bytes carry as they were written (R395). -/
structure Desc where
  tier : Nat
  psn  : Bool := false
  slot : Nat
  ctr  : Nat := 0
  tag  : Nat := 0
  inst : Nat := 0
  mark : Nat := 0
deriving DecidableEq, Repr

/-! ### Clusters, dies and the package -/

/-- A band barrier's open phase (R258). -/
structure Phase where
  count : Nat
  arrived : Nat
deriving DecidableEq, Repr

/-- A constituent of a merge record: the core, slot and number of the request, and its operand. -/
structure Part where
  core : Nat
  slot : Nat
  tag  : Nat
  task : Nat
  val  : Word
deriving DecidableEq, Repr

/-- A router's merge record (R274): the request that its constituents share, and the home's old value once it is back. -/
structure Merge where
  home : Nat
  space : Nat := 4
  key  : Nat
  addr : Nat
  n    : Nat
  /-- The `AMO` operation, or 6 for `CADD`. -/
  op   : Nat
  signed : Bool
  scope : Nat
  born : Nat
  parts : List Part
  old  : Option Nat := none
  /-- The routers whose buffers hold the record, the present one first: each is named by its core (R274). -/
  routers : List Nat := []
  /-- The stream of a `STRM` request; the request has gone on to another package (R465). -/
  sid  : Nat := 0
  away : Bool := false
deriving DecidableEq, Repr

/-- A migration stub (R463, R464): the old id, where the stream went, the clock the stub ends in, and what a wake of the old line needs:
the stream's key and its new park index, once `SXFIN` is acknowledged. -/
structure Stub where
  old  : Nat
  pkg  : Nat
  new  : Nat
  ends : Nat
  key  : Nat := 0
  pidx : Option Nat := none
deriving DecidableEq, Repr

/-- A stream on its way out (R462, R463): where it goes, the stub's milliseconds, its state before, the clock of `SXREQ`; the `SMIG` that
waits for a result; the new id; the completion counter; the blocks with a transfer hold; whether the source has committed. -/
structure OutMig where
  pkg  : Nat
  die  : Nat
  stub : Nat
  prev : StreamState
  start : Nat
  core : CoreId
  slot : Nat
  d    : BitVec 6
  task : Nat
  told : Bool := false
  new  : Nat := 0
  key  : Nat
  cplace : Nat
  ckey : Nat
  caddr : Nat
  cval : Word
  /-- Context and `ILV` of the counter, where it lies in `DEV` memory (R324). -/
  cdev : Option (Nat × Bool) := none
  held : List Nat := []
  committed : Bool := false
deriving DecidableEq, Repr

/-- A stream on its way in (R462): its source package and old id, its blocks, those asked for and those landed, the timers and hot list
of its park record, and whether `SXDONE` has been sent. -/
structure InMig where
  pkg  : Nat
  old  : Nat
  count : Nat
  asked : Nat := 0
  landed : Nat := 0
  park : List Word := []
  finished : Bool := false
deriving DecidableEq, Repr

/-- A packet on its way (R453, R456): the clock it was issued in, and the port that carries it, once one does. -/
structure Flight where
  clk  : Nat
  port : Option Nat := none
  p    : Packet
deriving DecidableEq, Repr

/-- An entry of the task-type table (R282): its words, the images of its bands' roles, and the key that loaded it (R428). -/
structure TaskType where
  words : List Word
  roles : List (Option Nat) := []
  owner : Nat := 0
deriving DecidableEq, Repr

/-- A graph object that a container loaded, and the key that owns it (R422, R428). -/
structure GraphObj where
  graph : Graph
  owner : Nat
deriving DecidableEq, Repr

/-- A replay of a graph in flight (R425): its queue, with key and context; its own copies of the descriptors; the patches of
handle tables, by task, each a word and a value; the tasks spawned, by index, and those published. -/
structure Replay where
  queue : Nat
  key   : Nat
  ctx   : Nat
  graph : Graph
  descs : List (List Word)
  handlePatches : List (Nat × Nat × Nat × Word) := []
  expanded : Bool := false
  spawned : SMap Nat := []
  published : List Nat := []
  /-- Status, first refused task and its refusal word. -/
  status : Nat := 0
  refused : Nat := 0
  word  : Word := 0
deriving DecidableEq, Repr

/-- How often task `i` is named among the predecessors of task `j`. -/
def Replay.edges (r : Replay) (i j : Nat) : Nat := (((r.graph.tasks[j]?).map (·.preds)).getD []).count i

/-- A host queue (R418): its page's registers, the function it is assigned to, the entries started and not completed, each with
its ring slot, the values written to `QKICK` that wait, and the interrupts raised. -/
structure Queue where
  base  : Word := 0
  tail  : Nat := 0
  head  : Nat := 0
  en    : Bool := false
  rst   : Bool := false
  rstdone : Bool := false
  bound : Bool := false
  ctx   : Nat := 0
  key   : Nat := 0
  code  : Nat := 0
  badw  : Bool := false
  slot  : Nat := 0
  done  : Word := 0
  qdwb  : Word := 0
  fn    : Nat := 0
  started : List (Nat × List Word) := []
  kicks : List Word := []
  irqs  : Nat := 0
deriving DecidableEq, Repr

/-- What the device last answered to a host or management request (R417, R418, R433 to R435). -/
inductive Answer where
  | none
  | word (v : Word)
  | bytes (xs : List Byte)
  /-- SPDM: the Busy and Error codes, a message's own response with its content, and the measurement blocks. -/
  | busy
  | error
  | spdm (request : Nat) (content : List Nat)
  | measurements (blocks : SMap Nat)
  /-- PLDM: the state of the update. -/
  | pldm (state : Nat)
  /-- TDISP: the queues of an interface with their `QBIND`, and its BAR0 ranges. -/
  | report (queues : List (Nat × Word)) (ranges : Ranges)
deriving DecidableEq, Repr

/-- The responder of SPDM requests (R433): negotiation so far (0 nothing, 1 version, 2 capabilities, 3 algorithms), and the session
(0 none, 1 keys exchanged, 2 established). -/
structure Spdm where
  nego : Nat := 0
  session : Nat := 0
deriving DecidableEq, Repr

/-- Where a firmware update stands (R434). -/
inductive Update where
  | idle | learn | ready | download | verify | apply
deriving DecidableEq, Repr

def Update.code : Update → Nat
  | .idle => 0
  | .learn => 1
  | .ready => 2
  | .download => 3
  | .verify => 4
  | .apply => 5

/-- The state of a firmware update (R434): its component (0 the column image, 1 the configuration table), the data of each component's
active and inactive bank, and the components applied that wait for activation. -/
structure Pldm where
  state : Update := .idle
  comp  : Nat := 0
  active : SMap (List Byte) := []
  inactive : SMap (List Byte) := []
  applied : List Nat := []
deriving DecidableEq, Repr

/-- A cluster (R248): its TLB. -/
structure Cluster where
  tlb : List TlbEntry := []
deriving DecidableEq, Repr

/-- A die: the registers of its units and what the units keep. -/
structure Die where
  tepwait : Word := 20000
  tepage  : Word := 50000
  tewgt   : Word := 0x1248
  tepreq  : Word := 0
  tesave  : Word := 0
  tesavesz : Word := 0
  saveUsed : Nat := 0
  credits : Vector Nat 4 := Vector.replicate 4 0
  nextTask : Nat := 1
  qseq    : Nat := 0
  tasks   : SMap Task := []
  xlctx   : Word := 0
  xlinva  : Word := 0
  xlinvc  : Word := 0
  sptbase : Word := 16
  spcfg   : Word := 0
  ststat  : Word := 0
  stbase  : Word := 0
  snode   : Word := 0
  streams : SMap Stream := []
  ipt     : List Mapping := []
  hbmFree : List Nat := []
  chipFree : List Nat := []
  copies  : List Copying := []
  stubs   : List Stub := []
  /-- Streams on their way to and from other packages, by id here (R462). -/
  outMigs : SMap OutMig := []
  inMigs  : SMap InMig := []
  barriers : SMap Phase := []
  merges  : List Merge := []
  /-- Monitor directories of the 48 slices, oldest line first (R196). -/
  dirs    : SMap (List Nat) := []
  /-- Chip-scratchpad ways of each slice (R317). -/
  ways    : Nat := 0
  tdbase  : Word := 0
  /-- Tier descriptors in use (R394). -/
  descs   : SMap Desc := []
  /-- `FWIN` (R431). -/
  fwin    : Word := 1
  /-- The reliability registers (R437, R441, R446 to R448). -/
  relstat : Word := 0
  slret   : Word := 0
  slpend  : Word := 0
  ldthr   : Word := 2
  cquar   : Vector Word 3 := Vector.replicate 3 0
  relthr  : Word := 0x204
  cfstat  : Word := 0
  relctr  : Word := 0
  relctrCtx : Nat := 0
  rellast : Word := 0
  /-- The clock of the last event in `RELLAST`, and the events of this clock, which are still to be added (R436). -/
  relClk  : Option Nat := none
  relDue  : Nat := 0
  /-- Corrected errors of slice lines, and the lines disabled, by slice × 2^14 + set × 16 + way (R438). -/
  lineCount : SMap Nat := []
  lineOff : List Nat := []
  crect   : Vector Word 32 := Vector.replicate 32 0
  vdom    : Vector Word 12 := Vector.replicate 12 8
  pfthr   : Word := 16
  therm   : Word := 0
  /-- Events of each domain's window, and the clock the window opened in (R447). -/
  domCount : Vector Nat 12 := Vector.replicate 12 0
  domOpen : Vector Nat 12 := Vector.replicate 12 0
  /-- Tags of the descriptor tree that have been altered, by level and number (R395, R409). -/
  treeErr : List (Nat × Nat) := []
  /-- The clock since which neither condition for throttling has held (R448). -/
  coolAt : Option Nat := none
deriving DecidableEq, Repr

/-- The package's own registers and tables. -/
structure Pkg where
  pktcxl  : Word := 50000
  pktflash : Word := 2000000
  pkbase  : Word := 0
  pkcfg   : Word := 0
  /-- `PKSTAT`'s `ERR`, `SKIP` and `REFUSED`; `PARKED` is counted from the table. -/
  pkstat  : Word := 0
  hbmloc  : Word := 0
  /-- A byte of the HBM range has been written since package reset (R410). -/
  hbmWritten : Bool := false
  /-- Bytes of CXL memory behind port 0, which serves the first 8 TiB, and port 1, which serves the second (R313, R393). -/
  cxlSize : Nat := 0
  cxlSize1 : Nat := 0
  /-- The keys loaded, each with the number of its instance (R391, R392). -/
  keys    : SMap Nat := [(0, 0)]
  nextKey : Nat := 1
  /-- The images of the containers accepted, by the number an actor names, and the image placed on each core (R427). -/
  images  : SMap Image := []
  placed  : SMap Nat := []
  /-- The task-type table, which all dies hold alike (R282). -/
  types   : SMap TaskType := []
  /-- Graphs by id (R428), and the replays in flight (R425). -/
  graphs  : SMap GraphObj := []
  runs    : SMap Replay := []
  /-- Park records in use, by park index (R396); the watch table, by slot (R400); records whose wake has been seen. -/
  parks   : SMap Park := []
  watches : SMap Watch := []
  wakes   : List Nat := []
  /-- The write counters of the outer tiers' slots, by tier × 2^40 + slot (R394). -/
  slotCtr : SMap Nat := []
  /-- Power (R448) and fabric registers (R467). -/
  plim    : Word := 6000
  pwr     : Word := 0
  fabid   : Word := 0
  fabcfg  : Word := 0x3E8000A
  fabstat : Word := 0
  fablnk  : Vector Word 64 := Vector.replicate 64 0
  fabin   : SMap Word := []
  /-- Packets on their way, oldest first. -/
  fabOut  : List Flight := []
  /-- Ports that have gone down and not come up (R467); key exchanges and frames of each port (R457). -/
  portsDown : List Nat := []
  linkKeys : SMap Nat := []
  linkFrames : SMap Nat := []
  /-- Consecutive failures of each port's frames (R456). -/
  linkFails : SMap Nat := []
  /-- The configuration table that the boot ROM accepted (R430, R439). -/
  boot    : BootTable := {}
  /-- Host queues (R418); TDISP states by function (R435): 0 unlocked, 1 locked, 2 run, 3 error; functions whose keys are unloaded
  once their queues are reset. -/
  queues  : SMap Queue := []
  tdisp   : SMap Nat := []
  stopping : List Nat := []
  /-- Physical ranges that firmware allots to a key (R429): first byte and length. -/
  allot   : SMap Ranges := []
  answer  : Answer := .none
  spdm    : Spdm := {}
  pldm    : Pldm := {}
  /-- The firmware column restarts (R434). -/
  restarting : Bool := false
  /-- Measurement blocks (R432), and the containers measured. -/
  meas    : SMap Nat := []
  measured : Nat := 0
  /-- Version in the one-time fuses (R430), and the retirement masks and the disabled lines in module flash by die (R439). -/
  fuse    : Nat := 0
  masks   : SMap Word := []
  lineMaps : SMap (List Nat) := []
deriving DecidableEq, Repr

/-- The part of the machine that the step acts on: a firing's core and slot, a helper's hart, or the number of the
task, stream, queue, port or other part that a step of the device names (`n`, and `k` where it names two). -/
structure Cur where
  core : CoreId := 0
  slot : Nat := 0
  hart : Nat := 0
  n    : Nat := 0
  k    : Nat := 0
deriving DecidableEq, Repr

/-- The agent whose turn it is to move. -/
inductive Turn where
  | firings | helper (hart : Nat)
deriving DecidableEq, Repr

/-- The state of the machine. -/
structure State where
  /-- Core clocks since the package's reset (R93, R122). -/
  clk   : Nat := 0
  /-- Every byte store of the package, in the canonical form of `Memory.wf`. -/
  mem   : List Host.Cell := []
  /-- The key instance under which a byte was last written (R391, R392). -/
  keyTags : SMap Nat := []
  /-- Bytes that hold an uncorrectable error (R208). -/
  bad   : List Nat := []
  /-- Lines of 256 bytes that no one has written since a restore, by place ÷ 256, each with the bytes of it that were in error then (R211, R212). -/
  clean : SMap (List Nat) := []
  /-- Words of key-value frames whose low mantissa fields alone hold an uncorrectable error (R369). -/
  lowErr : List Nat := []
  /-- Words of frame headers of key-value streams of which one of the two copies is uncorrectable: the word's place, plus one for the second copy
  (R369). -/
  hdrErr : List Nat := []
  cores : SMap Core := []
  clusters : SMap Cluster := []
  dies  : SMap Die := []
  pkg   : Pkg := {}
  cur   : Cur := {}
  turn  : Turn := .firings
  /-- Outside events that have not been taken, oldest first, each with the part it acts on. -/
  inputs : List (Cur × Instr) := []
  /-- Cores whose containment rectangle is to be fenced (R208, R442). -/
  fenceReq : List CoreId := []
  /-- Where this clock stands: 0 its instructions, 1 what follows them, 2 the writes of `VDOM` that are judged last (R83, R447). -/
  phase : Nat := 0
  /-- What the instructions of this clock leave for its end: entries that a commit pushes to another core, with their core, actor
  entry and channel (R83), and tasks whose firings end with `KILL`, but for the one of a core and slot (R103). -/
  pushes : List (CoreId × Nat × Nat × List Entry) := []
  kills : List (Nat × Option (CoreId × Nat)) := []
  /-- The model's own counter of the free values taken. -/
  freeCtr : Nat := 0
deriving DecidableEq, Repr

/-- The package right after reset (R432): every field at the value its rule gives. -/
def State.reset : State := {}

/-- Why the machine stops with a fault: no step of this machine does. -/
inductive Fault where
  /-- Raised by no meaning; safe. -/
  | none
deriving DecidableEq, Repr

/-- Why an instruction is refused. -/
inductive Refusal where
  /-- The instruction's arm of `exec` gives it no meaning yet; raised by those arms alone; safe. -/
  | notModelled (mnemonic : String)
deriving DecidableEq, Repr

end Sys2Proof.Machine
end

