-- ==== Sys2Proof/Machine/Ops.lean ====
section
/-! DEFINITION. The named operations over the state: its parts, memory at its homes, the event queue, the crossbar's
pulses, monitors, translation, and taking a trap (R100 to R104). -/

namespace Sys2Proof.Machine

/-! ### Parts of the state -/

/-- A core by its number; a core that nothing has touched is as reset left it. -/
def State.core (s : State) (c : Nat) : Core := mgetD s.cores c {}
def State.setCore (s : State) (c : Nat) (x : Core) : State := { s with cores := mset s.cores c x }
def State.die (s : State) (d : Nat) : Die := mgetD s.dies d {}
def State.setDie (s : State) (d : Nat) (x : Die) : State := { s with dies := mset s.dies d x }
def State.cluster (s : State) (c : Nat) : Cluster := mgetD s.clusters c {}
def State.setCluster (s : State) (c : Nat) (x : Cluster) : State := { s with clusters := mset s.clusters c x }

/-- Die, y and x of a core's number. -/
def dieOf (c : Nat) : Nat := c / 256
def yOf (c : Nat) : Nat := c / 16 % 16
def xOf (c : Nat) : Nat := c % 16
def coreAt (die y x : Nat) : Nat := die * 256 + y * 16 + x

/-- Cluster of a core on its die, and the core's number in it (R248). -/
def clusterOf (c : Nat) : Nat := yOf c / 4 * 4 + xOf c / 4
def clusterKey (c : Nat) : Nat := dieOf c * 12 + clusterOf c
def localK (c : Nat) : Nat := yOf c % 4 * 4 + xOf c % 4

/-- The core of cluster `cl` of a die with number `k` in it (R248). -/
def clusterCore (die cl k : Nat) : Nat := coreAt die (cl / 4 * 4 + k / 4) (cl % 4 * 4 + k % 4)

/-- The firing in a slot. -/
def State.firing (s : State) (c k : Nat) : Option Firing :=
  if h : k < 8 then (s.core c).slots[k] else none

def Core.setSlot (x : Core) (k : Nat) (f : Option Firing) : Core :=
  if h : k < 8 then { x with slots := x.slots.set k f } else x

def State.setFiring (s : State) (c k : Nat) (f : Firing) : State := s.setCore c ((s.core c).setSlot k (some f))
def State.freeSlot (s : State) (c k : Nat) : State := s.setCore c ((s.core c).setSlot k none)

/-- The resident task of a core at its index. -/
def State.resident (s : State) (c r : Nat) : Option Resident := mget (s.core c).tasks r
def State.setResident (s : State) (c r : Nat) (x : Resident) : State :=
  let k := s.core c
  s.setCore c { k with tasks := mset k.tasks r x }

/-- A task in flight by its id; the id's bits 31 to 29 are its die (R289). -/
def State.task (s : State) (t : Nat) : Option Task := mget (s.die (t / 2 ^ 29)).tasks t
def State.setTask (s : State) (t : Nat) (x : Task) : State :=
  let d := s.die (t / 2 ^ 29)
  s.setDie (t / 2 ^ 29) { d with tasks := mset d.tasks t x }
def State.dropTask (s : State) (t : Nat) : State :=
  let d := s.die (t / 2 ^ 29)
  s.setDie (t / 2 ^ 29) { d with tasks := mdel d.tasks t }

/-- An entry of a core's actor table. -/
def State.actor (s : State) (c a : Nat) : Option Actor := mget (s.core c).actors a
def State.setActor (s : State) (c a : Nat) (x : Actor) : State :=
  let k := s.core c
  s.setCore c { k with actors := mset k.actors a x }

/-- A free value, and the state that has taken it. -/
def State.free (s : State) : Nat × State := (Config.free s.freeCtr, { s with freeCtr := s.freeCtr + 1 })

/-- Nanoseconds and microseconds of a clock count: the core clock is 2.25 GHz (R3). -/
def nsOf (clk : Nat) : Nat := clk * 4 / 9
def usOf (clk : Nat) : Nat := clk / 2250

/-- Clocks of a millisecond. -/
def msClk : Nat := 2250000

/-! ### Where bytes stand -/

namespace Loc
/-- Physical memory: HBM and CXL (R313). -/
def phys (pa : Nat) : Nat := pa
/-- Core scratchpad. -/
def sp (c a : Nat) : Nat := 2 ^ 60 + c * 2 ^ 20 + a
/-- Lane slice. -/
def slice (c lane a : Nat) : Nat := 2 * 2 ^ 60 + (c * 32 + lane) * 2 ^ 12 + a
/-- Instruction store. -/
def istore (c a : Nat) : Nat := 3 * 2 ^ 60 + c * 2 ^ 18 + a
/-- Helper instruction store and data store. -/
def hcode (c hart a : Nat) : Nat := 4 * 2 ^ 60 + (c * 2 + hart) * 2 ^ 14 + a
def hdata (c hart a : Nat) : Nat := 5 * 2 ^ 60 + (c * 2 + hart) * 2 ^ 13 + a
/-- Chip scratchpad of a die (R317). -/
def chip (die a : Nat) : Nat := 6 * 2 ^ 60 + die * 2 ^ 32 + a
/-- A page frame of a die's pool (R341). -/
def frame (die f a : Nat) : Nat := 7 * 2 ^ 60 + die * 2 ^ 39 + f * 2 ^ 15 + a
/-- A slot of an outer tier (R394). -/
def slot (tier n a : Nat) : Nat := 8 * 2 ^ 60 + tier * 2 ^ 59 + n * 2 ^ 15 + a
/-- Accumulator word `n` of a core's array, by set × 8192 + row × 64 + column (R181, R227). -/
def acc (c n : Nat) : Nat := 10 * 2 ^ 60 + 2 ^ 59 + c * 2 ^ 17 + n * 4
/-- Byte `b` of the line that stands at place `i` of a core's L1 (R181, R191). -/
def l1 (c i b : Nat) : Nat := 10 * 2 ^ 60 + c * 2 ^ 16 + i * 64 + b
/-- A register of a firing slot, by space and number (R445). -/
def reg (c k sp r : Nat) : Nat := 12 * 2 ^ 60 + c * 2 ^ 16 + k * 2 ^ 12 + sp * 2 ^ 8 + r
/-- The host's bus (R416). -/
def host (a : Nat) : Nat := 16 * 2 ^ 60 + a
end Loc

/-- Whether a place is one of the pool's HBM frames (R341). -/
def hbmFrame (a : Nat) : Bool := 7 * 2 ^ 60 ≤ a && a < 8 * 2 ^ 60 && a / 2 ^ 38 % 2 == 0

/-- Whether a place is encrypted by key: HBM, CXL and the pool's HBM frames (R391). -/
def keyed (a : Nat) : Bool := a < 2 ^ 60 || hbmFrame a

/-- The instance of a loaded key; an access that has been issued names the instance itself (`State.pinned`). -/
def State.keyInst (s : State) (key : Nat) : Nat := if 1024 ≤ key then key / 1024 - 1 else mgetD s.pkg.keys key 0

/-- A key id with the instance that it names now: an access issued under it completes under that key, whatever is unloaded (R392). -/
def State.pinned (s : State) (key : Nat) : Nat := key % 1024 + 1024 * (s.keyInst key + 1)

/-- Whether a key id names a loaded key (R392). -/
def State.keyLoaded (s : State) (key : Nat) : Bool := (mget s.pkg.keys key).isSome

/-- A byte as a read under `key` returns it (R392). -/
def State.byteAt (s : State) (key a : Nat) : Byte :=
  let x := memGet s.mem a
  if keyed a then
    match mget s.keyTags a with
    | some i =>
      if i = s.keyInst key then x
      else Config.scramble (s.keyInst key) a ((List.range 16).map fun k => (mget s.keyTags (a / 16 * 16 + k), memGet s.mem (a / 16 * 16 + k)))
    | none => x
  else x

/-- `n` bytes read at their home. -/
def State.homeRead (s : State) (key a n : Nat) : List Byte :=
  match n with
  | 0 => []
  | k + 1 => s.byteAt key a :: s.homeRead key (a + 1) k

/-- Bytes of a code word: 32 bits in the instruction store, 64 bits elsewhere (R181; notes/assumptions/120.md). -/
def codeWord (a : Nat) : Nat := if a / 2 ^ 60 = 3 then 4 else 8

/-- Whether a code word of `n` bytes holds an uncorrectable error (R208). -/
def State.isBad (s : State) (a n : Nat) : Bool :=
  n != 0 && s.bad.any fun b => a / codeWord b ≤ b / codeWord b && b / codeWord b ≤ (a + n - 1) / codeWord b

/-- The errors left after `n` bytes from `a` on are written: a word that is written whole holds none (R208). -/
def badLeft (bad : List Nat) (a n : Nat) : List Nat :=
  if bad.isEmpty then bad
  else bad.filter fun b => !(a ≤ b / codeWord b * codeWord b && b / codeWord b * codeWord b + codeWord b ≤ a + n)

/-- The tag of byte `b` once bytes `a` to `a + n - 1` are written under key instance `i`. A byte of the same 16-byte block that another instance wrote can
no longer be read under that one: the block is encrypted under `i` (R391; notes/assumptions/143.md). -/
def tagByte (m : SMap Nat) (a n i b : Nat) : SMap Nat :=
  match mget m b with
  | some j => if (a ≤ b && b < a + n) || j = i then mset m b i else mset m b ((j + 1) * 2 ^ 64 + i)
  | none => mset m b i

/-- Tag `k` bytes from `b` on. -/
def tagRun (m : SMap Nat) (a n i b k : Nat) : SMap Nat :=
  match k with
  | 0 => m
  | k + 1 => tagRun (tagByte m a n i b) a n i (b + 1) k

/-- Tag the blocks of `n` bytes from `a` on that are written under a key instance. -/
def tagBytes (m : SMap Nat) (a n i : Nat) : SMap Nat := if n = 0 then m else tagRun m a n i (a / 16 * 16) (((a + n - 1) / 16 - a / 16 + 1) * 16)

/-- The lines of 64 bytes from `a` to `a + n - 1`. -/
def linesOf (a n : Nat) : List Nat := if n = 0 then [] else (List.range ((a + n - 1) / 64 - a / 64 + 1)).map (· + a / 64)

/-- A write triggers the registered monitors on its lines (R148). -/
def Core.trigger (x : Core) (lines : List Nat) : Core :=
  if x.monitors.any (fun m => m.registered && !m.fired && lines.contains m.home) then
    { x with monitors := x.monitors.map fun m => if m.registered && lines.contains m.home then { m with fired := true } else m }
  else x

/-- The place of a slot of the watch table, which follows the park table (R400, R410). -/
def Pkg.watchAt (p : Pkg) (n : Nat) : Nat := fld p.pkbase 51 12 * 4096 + 2 ^ 26 + 16 * n

/-- What a write at a home sets off: monitors (R148), and watched wake lines, whose watches it removes (R399). -/
def State.notify (s : State) (lines : List Nat) : State :=
  let hit := s.pkg.watches.filter fun w => lines.contains w.2.line
  let s := { s with cores := s.cores.map fun c => (c.1, c.2.trigger lines) }
  if hit.isEmpty then s
  else
    { s with
      mem := hit.foldl (fun m w => memZero m (s.pkg.watchAt w.1) 16) s.mem
      pkg := { s.pkg with watches := s.pkg.watches.filter fun w => !lines.contains w.2.line
                          wakes := s.pkg.wakes ++ hit.map (·.2.park) } }

/-- The clean lines left once `n` bytes from `a` on are written (R211). -/
def soiled (m : SMap (List Nat)) (a n : Nat) : SMap (List Nat) :=
  if m.isEmpty then m else m.filter fun l => !(a / 256 ≤ l.1 && l.1 * 256 < a + n)

/-- Write bytes at their home under a key. -/
def State.homeWrite (s : State) (key a : Nat) (xs : List Byte) : State :=
  let n := xs.length
  let s := { s with
    mem := memWrite s.mem a xs
    keyTags := if keyed a then tagBytes s.keyTags a n (s.keyInst key) else s.keyTags
    bad := badLeft s.bad a n
    clean := soiled s.clean a n
    lowErr := badLeft s.lowErr a n
    hdrErr := badLeft s.hdrErr a n
    pkg := if (a < 1536 * 2 ^ 30 || hbmFrame a) && n != 0 then { s.pkg with hbmWritten := true } else s.pkg }
  s.notify (linesOf a n)

/-! ### The event queue and the crossbar's sources -/

/-- Whether a task holds the core's crossbar (R206). -/
def Core.xbarTask (x : Core) : Option Nat := (x.tasks.find? fun r => r.2.xbar).map (·.1)

/-- A source pulses (R206). -/
def State.pulse (s : State) (c src : Nat) : State :=
  let k := s.core c
  if k.xbarTask.isSome then
    s.setCore c { k with xbar := { k.xbar with pulses := k.xbar.pulses ++ [(src, s.clk)] } }
  else s

/-- A record is written: the firing it tells of takes `MXSUS` next (R101). -/
def Core.tell (x : Core) (r : EvRecord) : Core :=
  match r.tells with
  | some (k, n) => if h : k < 8 then { x with slots := x.slots.set k (x.slots[k].map fun f => { f with mxsus := f.mxsus ++ [n] }) } else x
  | none => x

/-- Write a record to a core's event queue; the full queue holds it back (R199, R201). -/
def State.post (s : State) (c : Nat) (r : EvRecord) : State :=
  let k := s.core c
  if k.evq.length < 64 && k.evHeld.isEmpty then
    (s.setCore c (({ k with evq := k.evq ++ [{ r with tells := none }] } : Core).tell r)).pulse c 8
  else s.setCore c { k with evHeld := k.evHeld ++ [r] }

/-- Move held records into the queue as far as it has room (R201). -/
def refill (q h : List EvRecord) : List EvRecord × List EvRecord :=
  match h with
  | [] => (q, [])
  | r :: t => if q.length < 64 then refill (q ++ [{ r with tells := none }]) t else (q, r :: t)

/-- Whether a record is the trap record of a slot's firing (R104). -/
def EvRecord.trapOf (r : EvRecord) (k : Nat) : Bool := fld r.w0 63 56 == 2 && fld r.w0 42 40 == k

/-- Take the oldest record that `p` admits out of the queue (R201). -/
def State.popEvent (s : State) (c : Nat) (p : EvRecord → Bool) : Option EvRecord × State :=
  let k := s.core c
  match k.evq.find? p with
  | none => (none, s)
  | some r =>
    let q := k.evq.erase r
    let (q', h') := refill q k.evHeld
    let moved := k.evHeld.take (k.evHeld.length - h'.length)
    let k : Core := { k with slots := Vector.ofFn fun (i : Fin 8) => match k.slots[i] with
      | some g => if g.wait = .record && moved.any (·.trapOf i) then none else some g
      | none => none }
    let s' := s.setCore c (moved.foldl Core.tell { k with evq := q', evHeld := h' })
    (some r, if k.evHeld.isEmpty then s' else s'.pulse c 8)

/-- The firmware column's core, whose event queue takes the records that no core issues (R195). -/
def State.columnCore (s : State) : CoreId := coreAt 0 0 s.pkg.boot.colX

/-- Whether a core is in the firmware column of die 0 (R429, R430). -/
def State.inColumn (s : State) (c : Nat) : Bool :=
  dieOf c == 0 && s.pkg.boot.colX ≤ xOf c && xOf c < s.pkg.boot.colX + s.pkg.boot.colW

/-- The counter-overflow record (R200). -/
def overflowRecord (task addr : Nat) (v : Word) : EvRecord :=
  { w0 := wd (0x03 * 2 ^ 56 + task % 2 ^ 32), w1 := wd addr, w2 := v }

/-- A counter add at the counter's home: the state, and whether the sum saturated (R144). -/
def State.counterAdd (s : State) (key a : Nat) (v : Word) : State × Bool :=
  let old := ofLe (s.homeRead key a 8)
  let sum := old + v.toNat
  (s.homeWrite key a (leBytes 8 (min sum (2 ^ 64 - 1))), decide (2 ^ 64 ≤ sum))

/-! ### Translation -/

/-- The range of the HBM map and of the CXL tier with expanders behind it (R313). -/
def State.paOk (s : State) (pa n : Nat) : Bool :=
  let c0 := min s.pkg.cxlSize (2 ^ 43)
  let c1 := min s.pkg.cxlSize1 (2 ^ 43)
  pa + n ≤ 1536 * 2 ^ 30 || (2 ^ 44 ≤ pa && pa + n ≤ 2 ^ 44 + c0) ||
  ((c0 = 2 ^ 43 && 2 ^ 44 ≤ pa || 2 ^ 44 + 2 ^ 43 ≤ pa) && pa + n ≤ 2 ^ 44 + 2 ^ 43 + c1)

/-- The die-local window of a die (R389). -/
def State.window (s : State) (die : Nat) : Nat × Nat :=
  let g := fld s.pkg.hbmloc 7 0
  let sh := (1536 - 8 * g) * 2 ^ 30
  (sh + die * g * 2 ^ 30, sh + (die + 1) * g * 2 ^ 30)

/-- The page size of a leaf at a level (R320). -/
def leafSize (lvl : Nat) : Nat := if lvl = 2 then 2 ^ 30 else if lvl = 3 then 2 ^ 21 else 2 ^ 16

/-- The index of a level: its lowest bit and its width (R320). -/
def levelIdx (lvl va : Nat) : Nat :=
  if lvl = 4 then va / 2 ^ 16 % 32 else va / 2 ^ (48 - 9 * lvl) % 512

/-- Why a walk fails. -/
inductive WalkFail where
  | xlate | poison
deriving DecidableEq, Repr

/-- The levels of a walk from `lvl` on, in the table at `tbl` (R320, R321). -/
def State.walkFrom (s : State) (fuel lvl tbl va : Nat) : Except WalkFail TlbEntry :=
  match fuel with
  | 0 => .error .xlate
  | f + 1 =>
    let a := tbl + 8 * levelIdx lvl va
    if s.isBad a 8 then .error .poison
    else
      let e := wordOf (memRead s.mem a 8)
      let addr := fld e 51 8 * 256
      if !bit e 0 || fld e 63 52 != 0 || fld e 7 4 != 0 then .error .xlate
      else if bit e 1 then
        let sz := leafSize lvl
        if lvl < 2 || addr % sz != 0 || !s.paOk addr sz then .error .xlate
        else .ok { ctx := 0, page := va / sz * sz, size := sz, pa := addr, r := bit e 2, w := bit e 3 }
      else if lvl = 4 || bit e 2 || bit e 3 then .error .xlate
      else
        let tsz := if lvl = 3 then 256 else 4096
        if addr % tsz != 0 || addr + tsz > 1536 * 2 ^ 30 then .error .xlate
        else s.walkFrom f (lvl + 1) addr va

/-- A table walk of a die for a context and an address (R319 to R321). -/
def State.walk (s : State) (die ctx va : Nat) : Except WalkFail TlbEntry :=
  let tbl := fld (s.die die).xlctx 51 12 * 4096
  let ct := tbl + 8 * ctx
  if tbl % 8192 != 0 || tbl + 8192 > 1536 * 2 ^ 30 then .error .xlate
  else if s.isBad ct 8 then .error .poison
  else
    let e := wordOf (memRead s.mem ct 8)
    let root := fld e 51 12 * 4096
    if !bit e 0 || fld e 63 52 != 0 || fld e 11 1 != 0 || root + 4096 > 1536 * 2 ^ 30 then .error .xlate
    else (s.walkFrom 5 0 root va).map fun t => { t with ctx := ctx }

def TlbEntry.covers (t : TlbEntry) (ctx va : Nat) : Bool := t.ctx == ctx && t.page ≤ va && va < t.page + t.size

/-- Put an entry into a TLB of `cap` entries; which entry a full one drops is a free value (R322). -/
def tlbPut (ts : List TlbEntry) (t : TlbEntry) (cap choice : Nat) : List TlbEntry :=
  if ts.length < cap then ts ++ [t] else ts.eraseIdx (choice % cap) ++ [t]

/-- The walk's leaf for an access, through the TLBs, which keep it (R322). -/
def State.tlbLookup (s : State) (c ctx va : Nat) : Except WalkFail (State × TlbEntry) :=
  let k := s.core c
  match k.tlb.find? (·.covers ctx va) with
  | some t => .ok (s, t)
  | none =>
    let (fv, s) := s.free
    let cl := s.cluster (clusterKey c)
    match cl.tlb.find? (·.covers ctx va) with
    | some t => .ok (s.setCore c { k with tlb := tlbPut k.tlb t 64 fv }, t)
    | none =>
      match s.walk (dieOf c) ctx va with
      | .error e => .error e
      | .ok t =>
        let s := s.setCluster (clusterKey c) { cl with tlb := tlbPut cl.tlb t 2048 fv }
        .ok (s.setCore c { k with tlb := tlbPut k.tlb t 64 fv }, t)

/-- Translate one device virtual address for a party of core `c` (R321, R390). -/
def State.xlate (s : State) (c ctx va : Nat) (rd wr ilv : Bool) : Except WalkFail (State × Nat) :=
  match s.tlbLookup c ctx va with
  | .error e => .error e
  | .ok (s, t) =>
    let win := s.window (va / 2 ^ 53 % 8)
    if (wr && !t.w) || (rd && !t.r) then .error .xlate
    else if ilv && !(win.1 ≤ t.pa && t.pa + t.size ≤ win.2) then .error .xlate
    else .ok (s, t.pa + (va - t.page))

/-- Translate for the task engine, the front end or another unit of a die, which keeps nothing (R305). -/
def State.xlateDie (s : State) (die ctx va : Nat) (wr : Bool) : Except WalkFail Nat :=
  match s.walk die ctx va with
  | .error e => .error e
  | .ok t => if (if wr then t.w else t.r) then .ok (t.pa + (va - t.page)) else .error .xlate

/-- The same through a handle: with `ILV` = 1 the leaf lies in the window of the die that the address names (R390). -/
def State.xlateVia (s : State) (die ctx va : Nat) (wr ilv : Bool) : Except WalkFail Nat :=
  let win := s.window (va / 2 ^ 53 % 8)
  match s.walk die ctx va with
  | .error e => .error e
  | .ok t => if ilv && !(win.1 ≤ t.pa && t.pa + t.size ≤ win.2) then .error .xlate else s.xlateDie die ctx va wr

end Sys2Proof.Machine
end

