-- ==== Sys2Proof/Machine/FabricLinks.lean ====
section
/-! DEFINITION. The torus and its ports (R450, R451, R456, R457), flow keys (R453), and packets handed to the fabric. -/

namespace Sys2Proof

/-- The flow of a packet: class and flow key (R453). -/
def Packet.flow (p : Packet) : List Nat :=
  match p.cls with
  | 1 => [1, p.dpkg, p.die, p.y, p.x, p.actor, p.chan]
  | 2 => [2, p.dpkg, p.die, p.y, p.x]
  | 3 => [3, p.dpkg, p.addr]
  | 4 => [4, p.dpkg, p.pidx]
  | 5 => [5, p.dpkg, p.sid]
  | 6 => [6, p.dpkg, p.sid, p.addr / 256]
  | n => [n, p.dpkg] ++ p.flowOf

/-- Flits of a packet (R453). -/
def Packet.flits (p : Packet) : Nat :=
  match p.cls with
  | 1 => 5
  | 2 => 5
  | 4 => 3
  | 5 => if p.op = 5 then 1025 else 1
  | 6 => if p.data.isEmpty then 1 else 2
  | _ => 1

/-- The first two words of the header flit (R452); `NFL` counts the payload flits. -/
def Packet.header (p : Packet) : Word × Word :=
  (BitVec.ofNat 64 (p.cls % 16 * 2 ^ 60 + p.op % 16 * 2 ^ 56 + (p.flits - 1) * 2 ^ 45 + p.dpkg % 65536 * 65536 + p.spkg % 65536),
   BitVec.ofNat 64 (p.part % 65536 * 2 ^ 48 + p.key % 1024 * 2 ^ 38))

/-- Whether a packet's fields fit its header (R452). -/
def Packet.fits (p : Packet) : Bool := p.cls < 16 && p.op < 16 && p.dpkg < 65536 && p.spkg < 65536 && p.part < 65536 && p.key < 1024

end Sys2Proof

namespace Sys2Proof.Machine

/-- This package's id (R450). -/
def State.pkgId (s : State) : Nat := fld s.pkg.fabid 31 16

/-- The size of dimension `i` of the torus. -/
def torusSize (fabid : Word) (i : Nat) : Nat :=
  match i with
  | 0 => fld fabid 5 3 + 1
  | 1 => fld fabid 8 6 + 1
  | 2 => fld fabid 11 9 + 1
  | _ => fld fabid 15 12 + 1

/-- A package id's coordinate in dimension `i`: 3 bits each, w 4. -/
def coord (id i : Nat) : Nat := id / 8 ^ i % (if i = 3 then 16 else 8)

/-- Whether a package id lies in the torus of `FABID` (R450). -/
def torusOk (fabid : Word) (id : Nat) : Bool := id < 2 ^ 13 && (List.range 4).all fun i => coord id i < torusSize fabid i

/-- The directions that a packet may leave in: the first dimension in which the ids differ, the shorter way round, + where both are equal;
both directions of a dimension of size 2 (R451). -/
def directions (fabid : Word) (src dst : Nat) : List Nat :=
  match (List.range 4).find? fun i => coord src i != coord dst i with
  | none => []
  | some i =>
    let n := torusSize fabid i
    let up := (coord dst i + n - coord src i) % n
    if n = 2 then [2 * i, 2 * i + 1] else if 2 * up ≤ n then [2 * i] else [2 * i + 1]

/-- Whether a port is up. -/
def Pkg.portUp (p : Pkg) (n : Nat) : Bool := fld (p.fablnk.toList.getD n 0) 1 0 == 2

/-- The port that takes a packet: of those of its directions that are up, in ascending order, the one that its flow key picks (R451). -/
def Pkg.portFor (p : Pkg) (q : Packet) : Option Nat :=
  let ups := ((directions p.fabid (fld p.fabid 31 16) q.dpkg).flatMap fun d => (List.range 8).map (d * 8 + ·)).filter p.portUp
  ups[Config.flowHash q.flow % ups.length]?

/-- The nonce of a frame of port `n` (R457). -/
def linkIv (n frame : Nat) : Nat := n % 64 * 2 ^ 90 + frame % 2 ^ 64

/-- A port sends frames: its counter goes on, and its key is renewed before the counter would reach 2^63 (R457). -/
def Pkg.sendFrames (p : Pkg) (n frames : Nat) : Pkg :=
  if mgetD p.linkFrames n 0 + frames < 2 ^ 63 then { p with linkFrames := mset p.linkFrames n (mgetD p.linkFrames n 0 + frames) }
  else { p with linkKeys := mset p.linkKeys n (mgetD p.linkKeys n 0 + 1), linkFrames := mset p.linkFrames n frames }

/-- Give a packet to its port, if one is up: it goes in frames of up to 16 flits (R456). -/
def Pkg.launch (p : Pkg) (f : Flight) : Flight × Pkg :=
  match p.portFor f.p with
  | none => ({ f with port := none }, p)
  | some n => ({ f with port := some n }, p.sendFrames n ((f.p.flits + 15) / 16))

/-- Launch the packets of a list that have no port. -/
def Pkg.launchAll (p : Pkg) (fs : List Flight) : List Flight × Pkg :=
  match fs with
  | [] => ([], p)
  | f :: t =>
    let (g, p) := if f.port.isNone && f.p.dpkg != fld p.fabid 31 16 then p.launch f else (f, p)
    let (gs, p) := p.launchAll t
    (g :: gs, p)

/-- Hand a packet to the fabric (R453). -/
def State.fabSend (s : State) (p : Packet) : State :=
  let (f, k) := s.pkg.launch { clk := s.clk, p }
  { s with pkg := { k with fabOut := k.fabOut ++ [f] } }

/-- Count one in a field of `FABSTAT` (R467). -/
def State.fabCount (s : State) (hi lo : Nat) : State :=
  { s with pkg := { s.pkg with fabstat := setFld s.pkg.fabstat hi lo (satAdd (fld s.pkg.fabstat hi lo) 1 65535) } }

end Sys2Proof.Machine
end

