-- ==== Sys2Proof/Machine/Pool.lean ====
section
/-! DEFINITION. The stream table, the page pool and the resolution of stream blocks (R337 to R353). -/

namespace Sys2Proof.Machine

/-- Home die, generation and index of a stream id (R337). -/
def sidDie (g : Nat) : Nat := g / 2 ^ 21 % 8
def sidGen (g : Nat) : Nat := g / 2 ^ 16 % 32
def sidIdx (g : Nat) : Nat := g % 2 ^ 16

/-- The table entry of an index. -/
def Die.entry (d : Die) (i : Nat) : Stream := mgetD d.streams i {}

/-- Whether the die's pool and stream table are in service (R344). -/
def Die.on (d : Die) : Bool := bit d.spcfg 0

/-- The stream that an id names (R337). -/
def State.stream (s : State) (g : Nat) : Option Stream :=
  let d := s.die (sidDie g)
  let e := d.entry (sidIdx g)
  if d.on && e.state != .free && e.gen == sidGen g then some e else none

/-- The words of an entry (R338); a free one names no id. -/
def Stream.words (e : Stream) (g : Nat) : List Word :=
  let b (x : Bool) (n : Nat) : Nat := if x then 2 ^ n else 0
  [wd (e.state.code * 2 ^ 61 + b e.cls 60 + b e.ppnd 59 + b e.kv 58 + e.depth * 2 ^ 54 + e.cidx * 2 ^ 48 + e.parent * 2 ^ 24 +
      (if e.state = .free then 0 else g)),
   wd (e.node * 2 ^ 48 + e.len), wd (e.horiz * 2 ^ 48 + e.nch * 2 ^ 43 + e.nret * 2 ^ 38 + e.qhead * 2 ^ 35 + e.qcnt * 2 ^ 31 + e.key),
   wd (b e.arm 63 + e.op * 2 ^ 60 + e.kk * 2 ^ 55 + e.cfmode.toNat * 2 ^ 47), wd e.radr, wd e.cadr, e.jkey, e.rval] ++ e.act.toList

/-- Write the entry of a stream id, in the stream table and in its image in memory (R337). -/
def State.setStream (s : State) (g : Nat) (e : Stream) : State :=
  let d := s.die (sidDie g)
  (s.setDie (sidDie g) { d with streams := mset d.streams (sidIdx g) e }).homeWrite 0
    (Loc.phys (fld d.stbase 51 12 * 4096 + 128 * sidIdx g)) (bytesOf (e.words g))

/-- The image of a stream table of which every entry is free. -/
def freeTable : List Byte := (List.range 65536).flatMap fun _ => bytesOf (({} : Stream).words 0)

/-- The stream table of a die enters service: every entry is free with generation 1, and stands so in the table's image in memory (R337). -/
def State.clearTable (s : State) (die : Nat) : State :=
  (s.setDie die { s.die die with streams := [] }).homeWrite 0 (Loc.phys (fld (s.die die).stbase 51 12 * 4096)) freeTable

/-- The bucket of a holder's block in a table of 2^`logs` slots (R343). -/
def bucket (logs h b : Nat) : Nat := fold (h * 2 ^ 25 + b) 0 48 logs

/-- The mapping of a holder's block (R343). -/
def State.mapping (s : State) (h b : Nat) : Option Mapping :=
  (s.die (sidDie h)).ipt.find? fun m => m.holder == h && m.block == b

/-- The first mapping of a block along a stream's chain, with the level it is found at (R345). -/
def State.resolveBlock (s : State) (fuel g b lvl : Nat) : Option (Nat × Mapping) :=
  match s.mapping g b with
  | some m => some (lvl, m)
  | none =>
    match fuel with
    | 0 => none
    | f + 1 =>
      match s.stream g with
      | some e => if e.parent = 0 then none else s.resolveBlock f e.parent b (lvl + 1)
      | none => none

/-- Whether every snapshot from a stream's parent up to `h` has one live child (R347). -/
def State.soleLine (s : State) (fuel g h : Nat) : Bool :=
  match fuel with
  | 0 => false
  | f + 1 =>
    match s.stream g with
    | none => false
    | some e =>
      match s.stream e.parent with
      | none => false
      | some p => p.nch == 1 && (e.parent == h || s.soleLine f e.parent h)

/-- The die of a mapping's frame, and its bytes' place (R341). -/
def Mapping.place (m : Mapping) (o : Nat) : Nat := Loc.frame (sidDie m.holder) m.frame o

/-- Take a frame from the pool, chip scratchpad first where `SPCFG` says so; which frame is a free value (R341). -/
def State.takeFrame (s : State) (die : Nat) : Option (Nat × State) :=
  let d := s.die die
  let (fv, s') := s.free
  let hbm := d.hbmFree
  let chip := d.chipFree
  let useChip := if bit d.spcfg 1 then !chip.isEmpty else hbm.isEmpty && !chip.isEmpty
  if useChip then
    let f := chip.getD (fv % chip.length) 0
    some (f, s'.setDie die { d with chipFree := chip.erase f })
  else if hbm.isEmpty then none
  else
    let f := hbm.getD (fv % hbm.length) 0
    some (f, s'.setDie die { d with hbmFree := hbm.erase f })

/-- Take an HBM frame (R404). -/
def State.takeHbm (s : State) (die : Nat) : Option (Nat × State) :=
  let d := s.die die
  let (fv, s') := s.free
  if d.hbmFree.isEmpty then none
  else
    let f := d.hbmFree.getD (fv % d.hbmFree.length) 0
    some (f, s'.setDie die { d with hbmFree := d.hbmFree.erase f })

/-- Whether a frame number names a chip-scratchpad frame (R341). -/
def chipFrame (f : Nat) : Bool := f / 2 ^ 23 % 2 == 1

/-- Give a frame back to its tier's free list (R350). -/
def State.giveFrame (s : State) (die f : Nat) : State :=
  let d := s.die die
  if chipFrame f then s.setDie die { d with chipFree := d.chipFree ++ [f] }
  else s.setDie die { d with hbmFree := d.hbmFree ++ [f] }

/-- Zero a frame. -/
def State.zeroFrame (s : State) (die f : Nat) : State :=
  let a := Loc.frame die f 0
  { s with
    mem := memZero s.mem a 32768
    keyTags := mclear s.keyTags a 32768
    bad := s.bad.filter fun b => !(a ≤ b && b < a + 32768)
    lowErr := s.lowErr.filter fun b => !(a ≤ b && b < a + 32768)
    hdrErr := s.hdrErr.filter fun b => !(a ≤ b && b < a + 32768)
    pkg := if hbmFrame a then { s.pkg with hbmWritten := true } else s.pkg }

/-- Copy a frame's bytes under a key, with the errors they carry (R347, R369, R391). -/
def State.copyFrame (s : State) (key a b : Nat) : State :=
  let s' := if (mcut s.keyTags a 32768).all (·.2 == s.keyInst key) then
      { s with
        mem := memPaste (memZero s.mem b 32768) b (memCut s.mem a 32768)
        keyTags := mpaste (mclear s.keyTags b 32768) b (mcut s.keyTags a 32768) }
    else s.homeWrite key b (s.homeRead key a 32768)
  let move (xs : List Nat) : List Nat := (xs.filter fun x => !(b ≤ x && x < b + 32768)) ++ (xs.filter fun x => a ≤ x && x < a + 32768).map fun x => x - a + b
  { s' with bad := move s.bad, lowErr := move s.lowErr, hdrErr := (s'.hdrErr.filter fun x => !(b ≤ x && x < b + 32768)) }

/-- The words of an entry of the inverted page table (R342). -/
def Mapping.words (m : Mapping) : List Word :=
  let b (x : Bool) (n : Nat) : Nat := if x then 2 ^ n else 0
  [wd (2 ^ 63 + b m.dirty 62 + m.tier * 2 ^ 60 + b m.al 59 + b m.present 58 + m.holder % 2 ^ 24 * 2 ^ 25 + m.block % 2 ^ 25),
   wd (m.key * 2 ^ 54 + m.rc * 2 ^ 24 + m.frame)]

/-- Write a slot of a die's inverted page table in its image in memory; what lies beyond the overflow area has none. -/
def State.writeIpt (s : State) (die n : Nat) (bs : List Byte) : State :=
  let d := s.die die
  let logs := fld d.sptbase 4 0
  if n < 2 ^ logs + 2 ^ (logs - 3) then s.homeWrite 0 (Loc.phys (fld d.sptbase 51 12 * 4096 + 16 * n)) bs else s

/-- The slot that an insertion takes (R343): the first free one of the bucket's probe run, else one of the overflow area. -/
def Die.slotFor (d : Die) (h b : Nat) : Nat :=
  let logs := fld d.sptbase 4 0
  let k := bucket logs h b
  let vacant (n : Nat) : Bool := !d.ipt.any (·.slot == n)
  match ((List.range 8).map fun i => (k + i) % 2 ^ logs).find? vacant with
  | some n => n
  | none => (((List.range (d.ipt.length + 1)).map (· + 2 ^ logs)).find? vacant).getD 0

/-- Put a mapping into its home's table. -/
def State.addMapping (s : State) (m : Mapping) : State :=
  let i := sidDie m.holder
  let d := s.die i
  let m := { m with slot := d.slotFor m.holder m.block }
  (s.setDie i { d with ipt := d.ipt ++ [m] }).writeIpt i m.slot (bytesOf m.words)

/-- Replace the mapping of (holder, block). -/
def State.putMapping (s : State) (m : Mapping) : State :=
  let i := sidDie m.holder
  let d := s.die i
  (s.setDie i { d with ipt := d.ipt.map fun x => if x.holder == m.holder && x.block == m.block then m else x }).writeIpt i m.slot (bytesOf m.words)

/-- Re-point every mapping that names the frame of `m` (R403, R404): its own entry and its aliases. -/
def State.repoint (s : State) (m : Mapping) (tier frame : Nat) : State :=
  let i := sidDie m.holder
  let d := s.die i
  ((d.ipt.filter fun x => x.frame == m.frame && x.tier == m.tier).map fun x => { x with tier, frame, present := true, dirty := false }).foldl
    (fun s x => s.putMapping x) s

/-- Take the mapping of (holder, block) out. -/
def State.delMapping (s : State) (h b : Nat) : State :=
  let i := sidDie h
  let d := s.die i
  (d.ipt.filter fun x => x.holder == h && x.block == b).foldl (fun s x => s.writeIpt i x.slot (zeros 16))
    (s.setDie i { d with ipt := d.ipt.filter fun x => !(x.holder == h && x.block == b) })

/-- The words of a tier descriptor (R394). -/
def Desc.words (d : Desc) : List Word :=
  [wd (2 ^ 63 + (if d.tier = 3 then 2 ^ 62 else 0) + (if d.psn then 2 ^ 61 else 0) + d.slot), wd d.ctr,
   wd d.tag, wd (d.tag / 2 ^ 64)]

/-- Where a descriptor of a die stands. -/
def State.descAt (s : State) (die n : Nat) : Nat := fld (s.die die).tdbase 51 12 * 4096 + 32 * n

/-- Write a descriptor, or free it. -/
def State.setDesc (s : State) (die n : Nat) (x : Option Desc) : State :=
  let d := s.die die
  match x with
  | some x => (s.setDie die { d with descs := mset d.descs n x }).homeWrite 0 (s.descAt die n) (bytesOf x.words)
  | none => (s.setDie die { d with descs := mdel d.descs n }).homeWrite 0 (s.descAt die n) (zeros 32)

/-- One mapping fewer names a frame: its own entry counts down, and at zero the frame, or its slot and descriptor, is released
(R350, R408). An own entry
that leaves while aliases remain passes the count to one of them. -/
def State.dropRef (s : State) (die frame tier : Nat) (own : Option Mapping) : State :=
  let d := s.die die
  match own with
  | some o =>
    match d.ipt.find? fun x => x.al && x.frame == frame && x.tier == tier with
    | some a => s.putMapping { a with al := false, rc := o.rc - 1, dirty := o.dirty, present := o.present }
    | none => if 1 < o.rc then s else if tier < 2 then s.giveFrame die frame else s.setDesc die frame none
  | none =>
    match d.ipt.find? fun x => !x.al && x.frame == frame && x.tier == tier with
    | some o => s.putMapping { o with rc := o.rc - 1 }
    | none => s

/-- Remove a mapping and count its frame down (R351). -/
def State.unmapBlock (s : State) (h b : Nat) : State :=
  match s.mapping h b with
  | none => s
  | some m => (s.delMapping h b).dropRef (sidDie h) m.frame m.tier (if m.al then none else some m)

/-- What an access to a stream's block meets. -/
inductive Blk where
  /-- The frame's place of byte 0; `none` for an unmapped block, which reads as zeros. -/
  | at_ (place : Option Nat) (s : State)
  | refuse (cause : Nat)
  /-- The access waits: a copy, a move or a migration is in progress. -/
  | hold (s : State)
  /-- Answered `MOVED` (R464). -/
  | moved (pkg new : Nat)
deriving DecidableEq, Repr

/-- The stub of an old id (R464). -/
def State.stub (s : State) (g : Nat) : Option Stub := (s.die (sidDie g)).stubs.find? (·.old == g)

/-- Poison a frame: every byte of it reads as an uncorrectable error (R369). -/
def State.poisonFrame (s : State) (a : Nat) : State := { s with bad := s.bad ++ (List.range 32768).map (· + a) }

/-- What an access to a frame finds of its codes in a key-value stream (R369). Low mantissa fields in error are zeroed and written back where
`LOWTOL` says so; else, and with any other uncorrectable error of the payload, the frame is poisoned. The header words come from the copy that
is sound. A stream without `KV` has no such codes. -/
def State.lowFields (s : State) (m : Mapping) : State :=
  let a := m.place 0
  let die := sidDie m.holder
  let inside (w : Nat) : Bool := a ≤ w && w < a + 32768
  let ws := s.lowErr.filter inside
  let kv := (s.stream m.holder).any (·.kv)
  if !kv then s
  else if s.isBad (a + 256) (32768 - 256) && (s.bad.filter inside).length < 32768 then s.poisonFrame a
  else if ws.isEmpty then s
  else
    let s := { s with lowErr := s.lowErr.filter fun w => !inside w }
    if bit (s.die die).spcfg 2 then
      ws.foldl (fun s w =>
        let x := wordOf (memRead s.mem w 8) &&& 0xFFFCFFFCFFFCFFFC
        let s := { s with mem := memWrite s.mem w (leBytes 8 x.toNat) }
        let d := s.die die
        s.setDie die { d with ststat := setFld d.ststat 47 32 (satAdd (fld d.ststat 47 32) 1 65535) }) s
    else s.poisonFrame a

/-- The holder of the entry that counts the frame of a mapping. -/
def State.ownerOf (s : State) (m : Mapping) : Nat :=
  if m.al then (((s.die (sidDie m.holder)).ipt.find? fun o => !o.al && o.frame == m.frame && o.tier == m.tier).map (·.holder)).getD m.holder
  else m.holder

/-- Note that an access waits for a page that is not present, by the entry that counts its frame (R405). -/
def State.want (s : State) (m : Mapping) : State :=
  let own := s.ownerOf m
  { s with pkg := { s.pkg with parks := s.pkg.parks.map fun p =>
      if p.2.sid == own && !p.2.wanted.contains m.block then (p.1, { p.2 with wanted := p.2.wanted ++ [m.block] }) else p } }

/-- A read of block `b` by stream `g` (R345, R403, R405). -/
def State.readBlock (s : State) (g b : Nat) : Blk :=
  match s.stream g with
  | none => match s.stub g with
    | some t => .moved t.pkg t.new
    | none => .refuse 0x14
  | some e =>
    if e.state = .pruned then .refuse 0x14
    else match s.resolveBlock 8 g b 0 with
      | none => .at_ none s
      | some (_, m) => if !m.present then .hold (s.want m) else if 2 ≤ m.tier then .refuse 0x14 else .at_ (some (m.place 0)) (s.lowFields m)

/-- Begin a copy-on-write step (R347): a frame is taken now, and the mapping made when the copy completes. -/
def State.startCopy (s : State) (g b : Nat) (src : Mapping) (own : Bool) : Blk :=
  match s.takeFrame (sidDie g) with
  | none => .refuse 0x14
  | some (f, s) =>
    let i := sidDie g
    let d := s.die i
    .hold (s.setDie i { d with copies := d.copies ++ [{ holder := g, block := b, src := some src.holder, own, frame := f }] })

/-- A write of block `b` by stream `g` (R346 to R348). -/
def State.writeBlock (s : State) (g b : Nat) : Blk :=
  match s.stream g with
  | none => match s.stub g with
    | some t => .moved t.pkg t.new
    | none => .refuse 0x14
  | some e =>
    if e.state = .pruned then .refuse 0x14
    else if e.state = .snapshot then .refuse 0x12
    else if e.state = .migrating then .hold s
    else if (s.die (sidDie g)).copies.any fun c => c.holder == g && c.block == b then .hold s
    else match s.resolveBlock 8 g b 0 with
      | none =>
        match s.takeFrame (sidDie g) with
        | none => .refuse 0x14
        | some (f, s) =>
          let s := s.zeroFrame (sidDie g) f
          let m : Mapping := { holder := g, block := b, frame := f, key := e.key, tier := if chipFrame f then 1 else 0, dirty := true }
          .at_ (some (m.place 0)) (s.addMapping m)
      | some (lvl, m) =>
        if !m.present then .hold (s.want m)
        else if 2 ≤ m.tier then .refuse 0x14
        else if lvl = 0 then
          if m.rc = 1 && !m.al then .at_ (some (m.place 0)) (s.putMapping { m with dirty := true }) else s.startCopy g b m true
        else if s.soleLine 9 g m.holder && m.rc = 1 && !m.al then
          let m' := { m with holder := g, dirty := true }
          .at_ (some (m'.place 0)) ((s.addMapping m').delMapping m.holder b)
        else s.startCopy g b m false

/-- A write of block `b` that reads it as well: it finds the frame's codes as a read does (R369). -/
def State.updateBlock (s : State) (g b : Nat) : Blk :=
  match s.writeBlock g b with
  | .at_ (some a) s => .at_ (some a) (match s.resolveBlock 8 g b 0 with
    | some (_, m) => s.lowFields m
    | none => s)
  | r => r

end Sys2Proof.Machine
end

