-- ==== Sys2Proof/Machine/Access.lean ====
section
/-! DEFINITION. Accesses through handles: the entry (R183 to R185), the checks of R133 in their order, the region records
(R134, R299), translation, the L1 (R191) and the performing of loads and stores. -/

namespace Sys2Proof.Machine

/-! ### Handle entries -/

def Handle.v (h : Handle) : Bool := bit h.w0 63
def Handle.space (h : Handle) : Nat := fld h.w0 62 60
def Handle.base (h : Handle) : Nat := fld h.w0 56 0
def Handle.len (h : Handle) : Nat := fld h.w1 56 0
def Handle.pol (h : Handle) : Nat := fld h.w2 63 62
def Handle.key (h : Handle) : Nat := fld h.w2 61 52
def Handle.rd (h : Handle) : Bool := bit h.w2 51
def Handle.wr (h : Handle) : Bool := bit h.w2 50
def Handle.ilv (h : Handle) : Bool := bit h.w2 49
def Handle.efmt (h : Handle) : Nat := fld h.w2 47 44
def Handle.mxbs (h : Handle) : Nat := fld h.w2 43 42
def Handle.mxsf (h : Handle) : Nat := fld h.w2 41 40
def Handle.sid (h : Handle) : Nat := fld h.w3 23 0

/-- The numbers of the spaces (R183). -/
def spLane : Nat := 0
def spCore : Nat := 1
def spClus : Nat := 2
def spChip : Nat := 3
def spDev : Nat := 4
def spStrm : Nat := 5

/-- The place of a cluster-window byte, where its bank is open to the band of the resident task (R260). -/
def State.windowByte (s : State) (c : Nat) (r : Resident) (a : Nat) : Option Nat :=
  match s.task r.task with
  | none => none
  | some t =>
    match t.places.find? fun p => p.band == r.band && localK p.core == a / 2 ^ 18 % 16 && clusterKey p.core == clusterKey c with
    | none => none
    | some p =>
      match s.resident p.core p.rti with
      | none => none
      | some m =>
        let bank := 12 + a / 2 ^ 16 % 4
        if bit (s.core p.core).winctl (bank - 12) && m.spBase ≤ bank * 65536 && (bank + 1) * 65536 ≤ m.spBase + m.spSize then
          some (Loc.sp p.core (bank * 65536 + a % 65536))
        else none

/-- Whether every byte of a window range is open (R185). -/
def State.windowOk (s : State) (c : Nat) (r : Resident) (a n : Nat) : Bool :=
  n = 0 || (a + n ≤ 2 ^ 22 && (List.range ((a + n - 1) / 65536 - a / 65536 + 1)).all fun i => (s.windowByte c r ((a / 65536 + i) * 65536)).isSome)

/-- Bytes of chip scratchpad configured on a die (R317). -/
def State.chipSize (s : State) (die : Nat) : Nat := 48 * (s.die die).ways * 262144

/-- Whether a chip-scratchpad range includes a granule that a retired slice withholds (R440). -/
def State.withheld (s : State) (die a n : Nat) : Bool :=
  let m := (s.die die).slret
  m != 0 && n != 0 && (List.range (min 48 ((a + n - 1) / 4096 - a / 4096 + 1))).any fun i => bit m ((a / 4096 + i) % 48)

/-- Whether the image of an entry keeps the rules on a die (R183, R184, R185): `sl` and `sp` are the sizes of the task's ranges, `win` judges a
part of the cluster window. -/
def State.entryOk (s : State) (die sl sp_ : Nat) (win : Nat → Nat → Bool) (h : Handle) : Bool :=
  let sp := h.space
  h.v && sp ≤ 5 && fld h.w0 59 57 == 0 && fld h.w1 63 57 == 0 && h.pol != 3 && !bit h.w2 48 && fld h.w2 39 0 == 0 &&
  fld h.w3 63 24 == 0 && h.mxsf != 3 && h.efmt < 14 &&
  (sp == spDev || (!h.ilv && h.efmt == 0 && h.mxbs == 0)) && (sp == spStrm || h.sid == 0) &&
  (if sp == spLane then h.base + h.len ≤ sl && h.pol == 0 && h.key == 0
   else if sp == spCore then h.base + h.len ≤ sp_ && h.pol == 0 && h.key == 0
   else if sp == spClus then h.base < 2 ^ 22 && win h.base h.len && h.pol == 0 && h.key == 0
   else if sp == spChip then h.base + h.len ≤ s.chipSize die && h.key == 0 && !s.withheld die h.base h.len
   else if sp == spDev then h.base + h.len ≤ 2 ^ 57
   else h.base + h.len ≤ 2 ^ 40)

/-- Whether the image of an entry is valid for a task resident on a core. -/
def State.handleOk (s : State) (c : Nat) (r : Resident) (h : Handle) : Bool := s.entryOk (dieOf c) r.slSize r.spSize (s.windowOk c r) h

/-- The valid entry of an index of a resident task's table; it was judged when it was filled or written (R184). -/
def Resident.handle (r : Resident) (i : Nat) : Option Handle :=
  match mget r.handles i with
  | some h => if h.v && !r.invalid.contains i then some h else none
  | none => none

/-- The valid entries of a resident task's table. -/
def Resident.valids (r : Resident) : List Handle := r.handles.filterMap fun h => if h.2.v && !r.invalid.contains h.1 then some h.2 else none

/-- Judge the entries of a table that is filled at dispatch on core `c` (R184). -/
def State.judgeHandles (s : State) (c : Nat) (r : Resident) : Resident :=
  { r with invalid := (r.handles.filter fun h => !s.handleOk c r h.2).map (·.1) }

/-- Judge entry `i` after an `HST` (R151, R184). -/
def State.judgeHandle (s : State) (c : Nat) (r : Resident) (i : Nat) : Resident :=
  { r with invalid := r.invalid.filter (· != i) ++ (if s.handleOk c r (mgetD r.handles i {}) then [] else [i]) }

/-- `TRAPVAL` in the handle form (R100). -/
def handleVal (i off : Nat) : Word := wd (i % 256 * 2 ^ 56 + off % 2 ^ 56)

/-! ### Checks -/

/-- The kinds of access of R134. -/
inductive Kind where
  | load | store | rmw | accum | cadd | watch | any
deriving DecidableEq, Repr

def Kind.reads : Kind → Bool
  | .load => true
  | .rmw => true
  | .accum => true
  | .watch => true
  | .store => false
  | .cadd => false
  | .any => false

def Kind.writes : Kind → Bool
  | .store => true
  | .rmw => true
  | .accum => true
  | .cadd => true
  | .load => false
  | .watch => false
  | .any => false

/-- Whether a region mode admits the access (R134). -/
def Kind.admits (k : Kind) (m : Mode) : Bool :=
  match k, m with
  | .load, .r => true
  | .load, .rw => true
  | .store, .w => true
  | .store, .rw => true
  | .rmw, .rw => true
  | .accum, .rw => true
  | .accum, .acc => true
  | .cadd, .w => true
  | .cadd, .rw => true
  | .cadd, .acc => true
  | .watch, .r => true
  | .watch, .rw => true
  | .watch, .acc => true
  | .any, _ => true
  | _, _ => false

/-- Why an access is not performed: a cause of R100, a wait at its home, or a move to another package. -/
inductive Bar where
  | trap (cause : Nat)
  | hold (s : State)
  /-- The access has been issued and waits at its home (R346, R405). -/
  | held (s : State) (a : Acc)
  | moved (pkg new : Nat)
  /-- The home lies in a fenced rectangle of the die (R443). -/
  | nack (die : Nat)
deriving DecidableEq, Repr

/-- Pieces of [a, a + n) that do not cross a multiple of `size`. -/
def pieces (fuel a n size : Nat) : List (Nat × Nat) :=
  match fuel with
  | 0 => []
  | f + 1 =>
    if n = 0 then []
    else
      let k := min n (size - a % size)
      (a, k) :: pieces f (a + k) (n - k) size

/-- The resolved range of a region record (R286). -/
def Region.lo (r : Region) : Nat := r.base + r.ofs
def Region.hi (r : Region) : Nat := r.base + r.ofs + r.ext

/-- Whether the records that admit an access cover [a, a + n) (R133). -/
def covered (rs : List Region) (fuel a n : Nat) : Bool :=
  if n = 0 then true
  else match fuel with
    | 0 => false
    | f + 1 =>
      let reach := rs.foldl (fun m r => if r.lo ≤ a && a < r.hi then max m r.hi else m) a
      reach != a && (a + n ≤ reach || covered rs f reach (a + n - reach))

/-- The records of a task that admit a kind of access in a space and stream (R134, R286). -/
def Task.admitting (t : Task) (k : Kind) (space sid : Nat) : List Region :=
  if space = spStrm && !(t.sid == sid || t.batch.contains sid) then []
  else t.regions.filter fun r => r.space == space && match r.now with
    | some m => k.admits m
    | none => false

/-- Raise the written high-water marks (R299). -/
def raiseMarks (rs : List Region) (i space a n : Nat) (m : SMap Nat) : SMap Nat :=
  match rs with
  | [] => m
  | r :: t =>
    let hit := r.space == space && r.lo < a + n && a < r.hi && (match r.now with
      | some .w => true
      | some .rw => true
      | some .acc => true
      | _ => false)
    raiseMarks t (i + 1) space a n (if hit then mset m i (max (mgetD m i 0) (min (a + n) r.hi - r.lo)) else m)

/-- Places of the pages of a `DEV` range (R320). -/
def State.devSegs (s : State) (c ctx : Nat) (rd wr ilv : Bool) (ps : List (Nat × Nat)) : Except WalkFail (State × List (Option Nat × Nat)) :=
  match ps with
  | [] => .ok (s, [])
  | (a, n) :: t =>
    match s.xlate c ctx a rd wr ilv with
    | .error e => .error e
    | .ok (s, pa) =>
      match s.devSegs c ctx rd wr ilv t with
      | .error e => .error e
      | .ok (s, xs) => .ok (s, (some (Loc.phys pa), n) :: xs)

/-- Whether a slice lies in a fenced rectangle (R441, R442). -/
def State.sliceFenced (s : State) (die sl : Nat) : Bool := (List.range 4).any fun q =>
  let c := coreAt die (sl / 8 * 2 + q / 2) (sl % 8 * 2 + q % 2)
  (s.core c).fenced && !s.inColumn c

/-- The die of a fenced bucket home among those that resolve a stream's block (R343, R443). -/
def State.bucketNack (s : State) (fuel g b : Nat) : Option Nat :=
  let die := sidDie g
  if s.sliceFenced die (bucket (fld (s.die die).sptbase 4 0) g b % 48) then some die
  else if (s.mapping g b).isSome then none
  else match fuel, s.stream g with
    | f + 1, some e => if e.parent = 0 then none else s.bucketNack f e.parent b
    | _, _ => none

/-- Places of the blocks of a `STRM` range (R345 to R348). -/
def State.strmSegs (s : State) (g : Nat) (k : Kind) (ps : List (Nat × Nat)) : Except Bar (State × List (Option Nat × Nat)) :=
  match ps with
  | [] => .ok (s, [])
  | (a, n) :: t =>
    match s.bucketNack 8 g (a / 32768) with
    | some die => .error (.nack die)
    | none => match (if !k.writes then s.readBlock g (a / 32768) else if k.reads then s.updateBlock g (a / 32768) else s.writeBlock g (a / 32768)) with
      | .refuse c => .error (.trap c)
      | .hold s => .error (.hold s)
      | .moved p q => .error (.moved p q)
      | .at_ pl s =>
        match s.strmSegs g k t with
        | .error e => .error e
        | .ok (s, xs) => .ok (s, (pl.map (· + a % 32768), n) :: xs)

/-- Whether any byte of the places holds an uncorrectable error. -/
def State.segsBad (s : State) (xs : List (Option Nat × Nat)) : Bool :=
  xs.any fun x => match x.1 with
    | some a => s.isBad a x.2
    | none => false

/-- Whether a line is that of a number in a space and context. -/
def Line.is (l : Line) (space line ctx : Nat) : Bool := l.space == space && l.line == line && l.ctx == ctx

/-- The die of a fenced home among those of a range of device addresses (R443). -/
def State.rangeNack (s : State) (addr n : Nat) : Option Nat :=
  if !s.cores.any (·.2.fenced) then none
  else ((linesOf addr n).find? fun l => let h := homeSlice (l * 64)
    s.sliceFenced h.1 h.2).map fun l => (homeSlice (l * 64)).1

/-- A request answered negatively is counted (R443). -/
def State.countNack (s : State) (die : Nat) : State :=
  let d := s.die die
  s.setDie die { d with cfstat := setFld d.cfstat 47 32 (satAdd (fld d.cfstat 47 32) 1 65535) }

/-- Do what writes a range of device addresses for a unit that waits for no answer: a request to a fenced home is counted and lost (R443). -/
def State.unlessFenced (s : State) (addr n : Nat) (act : State → State) : State :=
  match s.rangeNack addr n with
  | some die => s.countNack die
  | none => act s

/-- The die and slice of the home of a byte of an access: its address in the space, and its place (R315, R317, R341). -/
def homeOf (space core addr : Nat) (place : Option Nat) : Nat × Nat :=
  if space = 3 then (dieOf core, addr / 4096 % 48)
  else if space = 4 then homeSlice addr
  else match place with
    | some a => (a / 2 ^ 39 % 8, a / 2 ^ 15 % 2 ^ 23 % 48)
    | none => (0, 48)

/-- The die of a fenced home that an access asks: a load that the L1 serves, and a store it takes, ask none (R191, R443). -/
def State.fencedHome (s : State) (a : Acc) (k : Kind) : Option Nat :=
  if a.space < 3 || !s.cores.any (·.2.fenced) || (a.cached && k == .store) then none
  else
    let lines := (a.segs.foldl (fun (acc : List (Nat × Nat × Option Nat) × Nat) g =>
      (acc.1 ++ (pieces (g.2 / 64 + 2) acc.2 g.2 64).map (fun p => (p.1, p.2, g.1.map (· + (p.1 - acc.2)))), acc.2 + g.2)) ([], a.addr)).1
    let here (l : Nat × Nat × Option Nat) : Bool := a.cached && match (s.core a.core).l1.find? (·.is a.space (l.1 / 64) a.ctx) with
      | some m => (List.range l.2.1).all fun i => m.valid.getLsbD (l.1 % 64 + i)
      | none => false
    (lines.find? fun l => !here l && let h := homeOf a.space a.core l.1 l.2.2
      s.sliceFenced h.1 h.2).map fun l => (homeOf a.space a.core l.1 l.2.2).1

/-- The die and slice that keep a byte, by its place; `addr` is its address, which places it in HBM or CXL (R315, R317, R341). A core's own stores have none. -/
def placeHome (addr place : Nat) : Option (Nat × Nat) :=
  if place < 2 ^ 60 then some (homeSlice addr)
  else if place / 2 ^ 60 = 6 then some (place / 2 ^ 32 % 2 ^ 28, place % 2 ^ 32 / 4096 % 48)
  else if place / 2 ^ 60 = 7 then some (homeOf spStrm 0 addr (some place))
  else none

/-- The die of a fenced home among those of the places of a range (R443). -/
def State.placesNack (s : State) (addr : Nat) (xs : List (Option Nat × Nat)) : Option Nat :=
  match xs with
  | [] => none
  | (p, n) :: t =>
    let here : Option Nat := p.bind fun q => (pieces (n / 64 + 2) addr n 64).findSome? fun l =>
      (placeHome l.1 (q + (l.1 - addr))).bind fun h => if s.sliceFenced h.1 h.2 then some h.1 else none
    here <|> s.placesNack (addr + n) t

/-- Do what writes places for a unit that waits for no answer: a request to a fenced home is counted and lost (R443). -/
def State.unlessLost (s : State) (addr : Nat) (xs : List (Option Nat × Nat)) (act : State → State) : State :=
  match s.placesNack addr xs with
  | some die => s.countNack die
  | none => act s

/-- Note the bytes that an access writes in the high-water marks of its task (R299). -/
def State.mark (s : State) (c task : Nat) (a : Acc) (k : Kind) : State :=
  if k.writes && 3 ≤ a.space then
    match (s.core c).tasks.find? fun x => x.2.task == task with
    | some (i, r) => s.setResident c i { r with hiWater := raiseMarks ((s.task task).getD {}).regions 0 a.space a.addr a.n r.hiWater }
    | none => s
  else s

/-- Whether a range of a stream cannot be translated: `FLUSHR` and `INVR` check it, and ask no home for anything (R133, R153). -/
def State.streamRefuses (s : State) (g : Nat) (ps : List (Nat × Nat)) : Bool :=
  !(s.die (sidDie g)).on || ps.any fun p => match s.readBlock g (p.1 / 32768) with
    | .refuse _ => true
    | _ => false

/-- A checked access of a task's core at its home: the places of a `STRM` range, a fenced home's answer, the marks. -/
def State.atHome (s : State) (c task : Nat) (a : Acc) (k : Kind) : Except Bar (State × Acc) :=
  let out : Except Bar (State × Acc) :=
    if a.space != spStrm then .ok (s, a)
    else if k == .any then if s.streamRefuses a.sid (pieces (a.n / 32768 + 2) a.addr a.n 32768) then .error (.trap 0x14) else .ok (s, a)
    else if !(s.die (sidDie a.sid)).on then .error (.trap 0x14)
    else match s.strmSegs a.sid k (pieces (a.n / 32768 + 2) a.addr a.n 32768) with
      | .ok (s, xs) => .ok (s, { a with segs := xs })
      | .error (.hold s) => .error (.held s a)
      | .error e => .error e
  match out with
  | .error e => .error e
  | .ok (s, a) =>
    match if k == .any then none else s.fencedHome a k with
    | some die => .error (.nack die)
    | none => .ok (s.mark c task a k, a)

/-- Whether the column's boundary routers drop an access from outside it to its scratchpads, by the cluster window: `MEM` lets loads and stores
pass, `CTR` counter adds (R431). -/
def State.wallsWindow (s : State) (c : Nat) (k : Kind) (segs : List (Option Nat × Nat)) : Bool :=
  !s.inColumn c && !bit (s.die 0).fwin (if k == .cadd then 2 else 3) && segs.any fun g => match g.1 with
    | some a => s.inColumn ((a - Loc.sp 0 0) / (Loc.sp 1 0 - Loc.sp 0 0))
    | none => false

/-- The checks of R133 for `n` bytes at offset `off` of handle `hi`, by the resident task `r` of core `c`, whose firing
acts for stream `sid`. `atHome`: performed at the home whatever the policy; `ch` is the override of R17. -/
def State.check (s : State) (c : Nat) (r : Resident) (sid hi off n align : Nat) (k : Kind) (spaces : List Nat)
    (atHome : Bool) (ch : Nat) : Except Bar (State × Acc) :=
  match r.handle hi with
  | none => .error (.trap 0x11)
  | some h =>
    let sp := h.space
    let g := if h.sid = 0 then sid else h.sid
    let auth := sp != spStrm || match s.stream g with
      | some e => e.key == h.key
      | none => true
    if !spaces.contains sp || (k.reads && !h.rd) || (k.writes && !h.wr) || !s.keyLoaded h.key || !auth then .error (.trap 0x12)
    else if h.len < off + n then .error (.trap 0x10)
    else if off % align != 0 then .error (.trap 0x15)
    else
      let a := h.base + off
      let t := (s.task r.task).getD {}
      if 3 ≤ sp && !covered (t.admitting k sp g) 17 a n then .error (.trap 0x13)
      else
        let pol := if ch = 0 then h.pol else ch
        let acc : Acc := { core := c, space := sp, ctx := t.ctx, key := s.pinned h.key, addr := a, n, segs := [],
                           cached := !atHome && pol == 0 && (sp == spChip || sp == spDev) }
        let out : Except Bar (State × Acc) :=
          if sp = spLane then .ok (s, acc)
          else if sp = spCore then .ok (s, { acc with addr := r.spBase + a, segs := [(some (Loc.sp c (r.spBase + a)), n)] })
          else if sp = spClus then
            let segs := (pieces (n / 65536 + 2) a n 65536).map fun p => (s.windowByte c r p.1, p.2)
            if s.wallsWindow c k segs then .error (.trap 0x12) else .ok (s, { acc with segs })
          else if sp = spChip then .ok (s, { acc with segs := [(some (Loc.chip (dieOf c) a), n)] })
          else if sp = spDev then
            match s.devSegs c t.ctx k.reads k.writes h.ilv (pieces (n / 65536 + 2) a n 65536) with
            | .ok (s, xs) => .ok (s, { acc with segs := xs })
            | .error .xlate => .error (.trap 0x14)
            | .error .poison => .error (.trap 0x16)
          else .ok (s, { acc with sid := g })
        match out with
        | .error e => .error e
        | .ok (s, acc) => s.atHome c r.task acc k

/-! ### Counter words (R217, R221) -/

/-- Whether counters may lie in a space (R143). -/
def ctrSpace (sp : Nat) : Bool := sp == spCore || sp == spClus || sp == spChip || sp == spDev

/-- The access to the counter that a counter word with a `VAL` names; else the status code that says why there is none: one of the causes
that R221 lists under `CTR`, a key that is not loaded (R392), or a translation that cannot be made. Permissions and region records are no
such causes. -/
def State.counterSeat (s : State) (c : Nat) (r : Resident) (w : Word) : Except Nat (State × Acc) :=
  let off := fld w 44 0
  if fld w 47 45 = 0 || 6 ≤ fld w 47 45 then .error 0x0A
  else match r.handle (fld w 63 56) with
  | none => .error 0x0A
  | some h =>
    if !ctrSpace h.space || h.len < off + 8 || off % 8 != 0 then .error 0x0A
    else if !s.keyLoaded h.key then .error 0x02
    else
      let a := h.base + off
      let t := (s.task r.task).getD {}
      let acc : Acc := { core := c, space := h.space, ctx := t.ctx, key := s.pinned h.key, addr := a, n := 8, segs := [], cached := false }
      let out : Except Nat (State × Acc) :=
        if h.space = spCore then .ok (s, { acc with addr := r.spBase + a, segs := [(some (Loc.sp c (r.spBase + a)), 8)] })
        else if h.space = spClus then
          if s.wallsWindow c .cadd [(s.windowByte c r a, 8)] then .error 0x02 else .ok (s, { acc with segs := [(s.windowByte c r a, 8)] })
        else if h.space = spChip then .ok (s, { acc with segs := [(some (Loc.chip (dieOf c) a), 8)] })
        else match s.devSegs c t.ctx false true h.ilv (pieces 2 a 8 65536) with
          | .ok (s, xs) => .ok (s, { acc with segs := xs })
          | .error .xlate => .error 0x06
          | .error .poison => .error 0x07
      match out with
      | .error e => .error e
      | .ok (s, acc) => .ok (s.mark c r.task acc .cadd, acc)

/-! ### The L1 (R191, R192) -/

/-- Byte `i` of a line's data. -/
def lineByte (x : BitVec 512) (i : Nat) : Byte := x.extractLsb' (8 * i) 8

/-- The data with byte `i` replaced. -/
def lineSet (x : BitVec 512) (i : Nat) (b : Byte) : BitVec 512 :=
  (x &&& ~~~((0xFF : BitVec 512) <<< (8 * i))) ||| (b.zeroExtend 512 <<< (8 * i))

/-- What the write-back of byte `k` of a line makes of errors at its home: a word written whole takes the line's own (R208). -/
def State.settleByte (s : State) (l : Line) (k : Nat) : State :=
  let whole : Bool := k % 8 == 7 && (List.range 8).all fun j => l.dirty.getLsbD (k - j)
  if l.err == 0 && (s.bad.isEmpty || !whole) then s
  else
    let own := if whole then ((List.range 8).filter fun j => l.err.getLsbD (k - j)).map (l.home + k - ·) else if l.err.getLsbD k then [l.home + k] else []
    { s with bad := (if whole then badLeft s.bad (l.home + k - 7) 8 else s.bad) ++ own }

/-- Write back the dirty bytes of a line from byte `i` on, at its home under its key (R191). -/
def State.writeDirty (s : State) (l : Line) (i : Nat) : State :=
  match i with
  | 0 => s
  | k + 1 =>
    let s := s.writeDirty l k
    if l.dirty.getLsbD k then (s.homeWrite l.key (l.home + k) [lineByte l.data k]).settleByte l k else s

/-- The same at the end of the clock: a firing whose own trap falls in it records that one (R103). -/
def State.killLater (s : State) (task : Nat) (except : Option (Nat × Nat)) : State := { s with kills := s.kills ++ [(task, except)] }

/-- End a running task from outside: its firings end with `KILL`, and its record reports 0x03 (R103, R307). -/
def State.endRunning (s : State) (id : Nat) : State :=
  match s.task id with
  | none => s
  | some t => (s.setTask id { t with killed := true }).killLater id none

/-- Write a line of core `c` back. A fenced home refuses it: the bytes are lost, and with them the tasks of its context that run on the core end
(R443; notes/assumptions/141.md). -/
def State.writeBack (s : State) (c : Nat) (l : Line) : State :=
  let h := homeOf l.space c (l.line * 64) none
  if l.dirty != 0 && s.sliceFenced h.1 h.2 then
    (((s.core c).tasks.map (·.2.task)).filter fun id => (s.task id).any (·.ctx == l.ctx)).foldl State.endRunning (s.countNack h.1)
  else s.writeDirty l 64

/-- Write a line back and keep it valid and clean (R153). -/
def State.cleanLine (s : State) (c : Nat) (l : Line) : State :=
  let s := s.writeBack c l
  let k := s.core c
  s.setCore c { k with l1 := k.l1.map fun x => if x.is l.space l.line l.ctx then { x with dirty := 0 } else x }

/-- Take a line out of the L1. -/
def State.dropLine (s : State) (c : Nat) (l : Line) : State :=
  let k := s.core c
  s.setCore c { k with l1 := k.l1.filter fun x => !x.is l.space l.line l.ctx }

/-- Put a line into the L1; a full set first writes back and drops a line of its eight, a free choice (R191). -/
def State.putLine (s : State) (c : Nat) (l : Line) : State :=
  let k := s.core c
  if k.l1.any (·.is l.space l.line l.ctx) then
    s.setCore c { k with l1 := k.l1.map fun x => if x.is l.space l.line l.ctx then l else x }
  else
    let set := k.l1.filter fun x => x.line % 128 == l.line % 128
    let s :=
      if set.length < 8 then s
      else
        let (fv, s) := s.free
        match set[fv % set.length]? with
        | some v => (s.writeBack c v).dropLine c v
        | none => s
    let k := s.core c
    s.setCore c { k with l1 := k.l1 ++ [l] }

/-- The L1's line for an access under a key: one held under another key is written back and dropped first (R191). -/
def State.lineFor (s : State) (c space line ctx key home : Nat) : State × Line :=
  let fresh : Line := { space, line, ctx, home, key, valid := 0, dirty := 0, data := 0 }
  match (s.core c).l1.find? (·.is space line ctx) with
  | none => (s, fresh)
  | some l => if l.key = key then (s, l) else ((s.writeBack c l).dropLine c l, fresh)

/-- Fill the bytes of a line that are not valid from its home; a byte in error stays invalid (R191). -/
def State.fill (s : State) (l : Line) (i : Nat) : Line :=
  match i with
  | 0 => l
  | k + 1 =>
    let l := s.fill l k
    if l.valid.getLsbD k || s.isBad (l.home + k) 1 then l
    else { l with data := lineSet l.data k (s.byteAt l.key (l.home + k)), valid := l.valid ||| ((1 : BitVec 64) <<< k) }

/-- Bytes `o` to `o + n - 1` of a line. -/
def lineBytes (l : Line) (o n : Nat) : List Byte := (List.range n).map fun i => lineByte l.data (o + i)

/-- Read a piece inside one line through the L1; `none` where it consumes an error. -/
def State.l1Read (s : State) (a : Acc) (addr n home : Nat) : Option (State × List Byte) :=
  let o := addr % 64
  let (s, l) := s.lineFor a.core a.space (addr / 64) a.ctx a.key (home - o)
  let has (l : Line) : Bool := (List.range n).all fun i => l.valid.getLsbD (o + i) && !l.err.getLsbD (o + i)
  let l := if has l then l else s.fill l 64
  if has l then some (s.putLine a.core l, lineBytes l o n) else none

/-- A line with bytes written from `o` on and marked dirty. -/
def Line.write (l : Line) (o : Nat) (xs : List Byte) : Line :=
  match xs with
  | [] => l
  | x :: t =>
    ({ l with data := lineSet l.data o x, valid := l.valid ||| ((1 : BitVec 64) <<< o), dirty := l.dirty ||| ((1 : BitVec 64) <<< o) } : Line).write (o + 1) t

/-- The words of a line that `n` bytes from `o` on write whole. -/
def wholeWords (o n : Nat) : BitVec 64 :=
  (List.range 8).foldl (fun m j => if o ≤ 8 * j && 8 * j + 8 ≤ o + n then m ||| ((0xFF : BitVec 64) <<< (8 * j)) else m) 0

/-- Write a piece inside one line into the L1 (R191); a word written whole holds no error (R208). -/
def State.l1Write (s : State) (a : Acc) (addr home : Nat) (xs : List Byte) : State :=
  let o := addr % 64
  let (s, l) := s.lineFor a.core a.space (addr / 64) a.ctx a.key (home - o)
  s.putLine a.core ({ l with err := l.err &&& ~~~wholeWords o xs.length }.write o xs)

/-- Cached reads of the pieces of a place. -/
def State.l1Reads (s : State) (a : Acc) (base place : Nat) (ps : List (Nat × Nat)) : Option (State × List Byte) :=
  match ps with
  | [] => some (s, [])
  | (x, n) :: t =>
    match s.l1Read a x n (place + (x - base)) with
    | none => none
    | some (s, b) =>
      match s.l1Reads a base place t with
      | none => none
      | some (s, bs) => some (s, b ++ bs)

/-- Cached writes of the pieces of a place. -/
def State.l1Writes (s : State) (a : Acc) (base place : Nat) (ps : List (Nat × Nat)) (xs : List Byte) : State :=
  match ps with
  | [] => s
  | (x, n) :: t => (s.l1Write a x (place + (x - base)) (xs.take n)).l1Writes a base place t (xs.drop n)

/-! ### Performing -/

/-- Read the places of an access in order; `none` where it consumes an error (R208). -/
def State.readSegs (s : State) (a : Acc) (addr : Nat) (xs : List (Option Nat × Nat)) : Option (State × List Byte) :=
  match xs with
  | [] => some (s, [])
  | (p, n) :: t =>
    let here : Option (State × List Byte) :=
      match p with
      | none => some (s, zeros n)
      | some q =>
        if a.cached then s.l1Reads a addr q (pieces (n / 64 + 2) addr n 64)
        else if s.isBad q n then none
        else some (s, s.homeRead a.key q n)
    match here with
    | none => none
    | some (s, b) =>
      match s.readSegs a (addr + n) t with
      | none => none
      | some (s, bs) => some (s, b ++ bs)

/-- Write the places of an access in order. -/
def State.writeSegs (s : State) (a : Acc) (addr : Nat) (xs : List (Option Nat × Nat)) (bs : List Byte) : State :=
  match xs with
  | [] => s
  | (p, n) :: t =>
    let s :=
      match p with
      | none => s
      | some q =>
        if a.cached then s.l1Writes a addr q (pieces (n / 64 + 2) addr n 64) (bs.take n)
        else s.homeWrite a.key q (bs.take n)
    s.writeSegs a (addr + n) t (bs.drop n)

/-- Perform a read; `none` where it consumes an error. -/
def State.read (s : State) (a : Acc) : Option (State × List Byte) := s.readSegs a a.addr a.segs

/-- Perform a write. -/
def State.write (s : State) (a : Acc) (bs : List Byte) : State := s.writeSegs a a.addr a.segs bs

/-- Write back and drop a core's own L1 copy of the lines of an access performed at its home (R138). -/
def State.dropOwn (s : State) (a : Acc) : State :=
  if a.space == spChip || a.space == spDev then
    (linesOf a.addr a.n).foldl (fun s ln =>
      match (s.core a.core).l1.find? (·.is a.space ln a.ctx) with
      | some l => (s.writeBack a.core l).dropLine a.core l
      | none => s) s
  else s

/-- The place of the first byte of an access. -/
def Acc.place (a : Acc) : Nat :=
  match a.segs with
  | (some p, _) :: _ => p
  | _ => 0

/-- The device address of an access, as records name it (R200). -/
def Acc.device (a : Acc) : Nat := a.addr

/-- Check and perform a load of a resident task. -/
def State.loadH (s : State) (c : Nat) (r : Resident) (sid hi off n align : Nat) (spaces : List Nat) (atHome : Bool) (ch : Nat) :
    Except Bar (State × List Byte) :=
  match s.check c r sid hi off n align .load spaces atHome ch with
  | .error e => .error e
  | .ok (s, a) =>
    match s.read a with
    | none => .error (.trap 0x16)
    | some x => .ok x

/-- Check and perform a store of a resident task. -/
def State.storeH (s : State) (c : Nat) (r : Resident) (sid hi off align : Nat) (bs : List Byte) (spaces : List Nat) (atHome : Bool) (ch : Nat) :
    Except Bar State :=
  match s.check c r sid hi off bs.length align .store spaces atHome ch with
  | .error e => .error e
  | .ok (s, a) => .ok (s.write a bs)

end Sys2Proof.Machine
end

