-- ==== Sys2Proof/Machine/Regs.lean ====
section
/-! DEFINITION. The registers of a firing (R20, R91), the delivery of results (R23 to R27, R70) and the neighbour links
as operands (R21, R262 to R264). -/

namespace Sys2Proof.Machine

/-- `g[r]`; `g0` reads zero (R20). -/
def Firing.rg (f : Firing) (r : BitVec 6) : Word := if r = 0 then 0 else f.g[r.toNat]

/-- `v[r]` of the low 32 codes. -/
def Firing.rv (f : Firing) (r : Nat) : VReg := if h : r < 32 then f.v[r] else 0

/-- `p[r]`; `p0` reads true (R20). -/
def Firing.rp (f : Firing) (r : Nat) : Bool := if r = 0 then true else if h : r < 8 then f.p[r] else false

/-- The lanes of the firing: 32 for each member of its gang (R155). -/
def Firing.lanes (f : Firing) : Nat := 32 * f.gang

/-- `k[r]`; `k0` reads all ones over the lanes (R20). -/
def Firing.rk (f : Firing) (r : Nat) : KReg :=
  if r = 0 then BitVec.ofNat 256 (2 ^ f.lanes - 1) else if h : r < 8 then f.k[r] else 0

/-- `ba[r]`. -/
def Firing.rba (f : Firing) (r : Nat) : BitVec 40 := if h : r < 8 then f.ba[r] else 0

/-- Write one register; `g0`, `p0` and `k0` discard it (R20). -/
def Firing.put (f : Firing) (x : RegWrite) : Firing :=
  match x with
  | .g r y => if r = 0 then f else { f with g := f.g.set r.toNat y }
  | .v r y m => if h : r < 32 then { f with v := f.v.set r ((f.v[r] &&& ~~~m) ||| (y &&& m)) } else f
  | .p r y => if r = 0 then f else if h : r < 8 then { f with p := f.p.set r y } else f
  | .k r y => if r = 0 then f else if h : r < 8 then { f with k := f.k.set r y } else f
  | .ba r y => if h : r < 8 then { f with ba := f.ba.set r y } else f


/-- The space and number of a register write. -/
def RegWrite.reg : RegWrite → Nat × Nat
  | .g r _ => (0, r.toNat)
  | .v r _ _ => (1, r)
  | .p r _ => (2, r)
  | .k r _ => (3, r)
  | .ba r _ => (4, r)

/-- Write registers in order; what they hold is poison or none (R443). -/
def Firing.puts (f : Firing) (xs : List RegWrite) (bad : Bool := false) : Firing :=
  let f := xs.foldl Firing.put f
  if f.poison.isEmpty && f.parity.isEmpty && f.clean.isEmpty && !bad then f
  else
    let rs := xs.map RegWrite.reg
    { f with poison := (f.poison.filter fun r => !rs.contains r) ++ (if bad then rs else []), parity := f.parity.filter fun r => !rs.contains r
             clean := f.clean.filter fun r => !rs.contains r }

/-- What is left of an earlier write once a later-issued one has been delivered (R26). -/
def RegWrite.under (x y : RegWrite) : Option RegWrite :=
  match x, y with
  | .v r a m, .v q _ n => if r = q then (if m &&& ~~~n = 0 then none else some (.v r a (m &&& ~~~n))) else some x
  | _, _ => if x.reg = y.reg then none else some x

/-- What is left of earlier writes under later ones. -/
def under (xs ys : List RegWrite) : List RegWrite :=
  ys.foldl (fun xs y => xs.filterMap fun x => x.under y) xs

/-- Deliver the results that `sel` selects, in issue order; a later-issued write wins (R26). -/
def deliver (sel : Result → Bool) (clk : Nat) (rs : List Result) (f : Firing) : List Result × Firing :=
  match rs with
  | [] => ([], f)
  | r :: t =>
    if sel r then
      deliver sel clk t { f.puts r.writes r.poison with flagsDue := if r.flags = 0 then f.flagsDue else f.flagsDue ++ [(r.due.getD clk, r.flags)] }
    else
      let (t', f') := deliver sel clk t f
      ({ r with writes := under r.writes ((t.filter sel).flatMap (·.writes)) } :: t', f')

/-- OR the flags delivered before `clk` into `FSTAT` (R70). -/
def Firing.mergeFlags (f : Firing) (clk : Nat) : Firing :=
  if f.flagsDue.isEmpty then f else
  { f with
    fstat := (f.flagsDue.filter (·.1 < clk)).foldl (fun x y => x ||| y.2.zeroExtend 64) f.fstat
    flagsDue := f.flagsDue.filter fun y => !(y.1 < clk) }

/-- The firing with every fixed-latency result due by `clk` delivered (R24). -/
def Firing.settle (f : Firing) (clk : Nat) : Firing :=
  if f.flight.isEmpty then f.mergeFlags clk else
  let (fl, f') := deliver (fun r => match r.due with | some d => d ≤ clk | none => false) clk f.flight f
  ({ f' with flight := fl }).mergeFlags clk

/-- The firing with every result in flight delivered (R27). -/
def Firing.drain (f : Firing) (clk : Nat) : Firing :=
  if f.flight.isEmpty then f.mergeFlags (clk + 1) else
  let (_, f') := deliver (fun _ => true) clk f.flight f
  let f'' : Firing := { f' with flight := [] }
  { f'' with fstat := f''.flagsDue.foldl (fun x y => x ||| y.2.zeroExtend 64) f''.fstat, flagsDue := [] }

/-- Deliver the results of an instruction that has waited; earlier results to the same registers are discarded (R26). -/
def Firing.answer (f : Firing) (ws : List RegWrite) (clk : Nat) (fs : BitVec 7) : Firing :=
  let f := f.puts ws
  { f with flight := f.flight.map fun r => { r with writes := under r.writes ws }
           flagsDue := if fs = 0 then f.flagsDue else f.flagsDue ++ [(clk, fs)] }

/-- The last clock in which a result in flight is delivered. -/
def Firing.lastDue (f : Firing) (clk : Nat) : Nat := f.flight.foldl (fun m r => max m (r.due.getD clk)) clk

/-! ### The registers an instruction names -/

end Sys2Proof.Machine

namespace Sys2Proof

/-- The registers that a field names, by space and number; `links` are left out. -/
def Opd.regs (o : Opd) (x : BitVec 6) (role : Role → Bool) : List (Nat × Nat) :=
  match o with
  | .unused => []
  | .num _ => []
  | .reg .g r _ => if role r then [(0, x.toNat)] else []
  | .reg .v r _ => if role r && x.toNat < 32 then [(1, x.toNat)] else []
  | .reg .p r _ => if role r then [(2, x.toNat)] else []
  | .reg .k r _ => if role r then [(3, x.toNat)] else []
  | .reg .ba r _ => if role r then [(4, x.toNat)] else []
  | .tri r => if role r then [(1, x.toNat), (1, x.toNat + 1), (1, x.toNat + 2)] else []

def Role.reads : Role → Bool
  | .src => true
  | .both => true
  | .dst => false

def Role.writes : Role → Bool
  | .src => false
  | .both => true
  | .dst => true

/-- The registers of the fields with a role, in the order A, B, C, E, D. -/
def Form.regs (m : Form) (w : Tolog) (role : Role → Bool) : List (Nat × Nat) :=
  m.a.regs w.a role ++ m.b.regs w.b role ++ m.c.regs w.c role ++ m.e.regs w.e role ++ m.d.regs w.d role

/-- The guard predicates. -/
def Tolog.guards (w : Tolog) : List (Nat × Nat) := [(2, w.ga.toNat), (2, w.gb.toNat)]

/-- Whether the guard passes (R15). -/
def Tolog.pass (w : Tolog) (f : Machine.Firing) : Bool := (f.rp w.ga.toNat != w.na) && (f.rp w.gb.toNat != w.nb)

end Sys2Proof

namespace Sys2Proof.Machine

/-- The first of the registers with a fixed-latency result still to come: the register and its clock (R24). -/
def Firing.early (f : Firing) (rs : List (Nat × Nat)) : Option (Nat × Nat × Nat) :=
  rs.findSome? fun r =>
    (f.flight.filterMap fun x => if x.due.isSome && x.writes.any (fun y => y.reg = r) then x.due else none).getLast?.map
      fun d => (r.1, r.2, d)

/-- Whether one of the registers has an undelivered scoreboarded result (R25). -/
def Firing.boarded (f : Firing) (rs : List (Nat × Nat)) : Bool :=
  f.flight.any fun x => x.due.isNone && x.writes.any fun y => rs.contains y.reg

/-- `TRAPVAL` of `IL.STALL` (R29). -/
def stallVal (space reg left : Nat) : Word := wd (left % 256 * 256 + space % 4 * 64 + reg % 64)

/-! ### Links (R262 to R264) -/

/-- The neighbour of a core in a direction: 0 north, 1 east, 2 south, 3 west; `none` at the die's edge. -/
def neighbour (c dir : Nat) : Option Nat :=
  let y := yOf c
  let x := xOf c
  match dir with
  | 0 => if y = 0 then none else some (coreAt (dieOf c) (y - 1) x)
  | 1 => if x = 15 then none else some (coreAt (dieOf c) y (x + 1))
  | 2 => if y ≥ 11 then none else some (coreAt (dieOf c) (y + 1) x)
  | _ => if x = 0 then none else some (coreAt (dieOf c) y (x - 1))

def opposite (dir : Nat) : Nat := (dir + 2) % 4

def Core.fifo (x : Core) (d : Nat) : List (Nat × Entry) := if h : d < 4 then x.fifos[d] else []
def Core.setFifo (x : Core) (d : Nat) (q : List (Nat × Entry)) : Core :=
  if h : d < 4 then { x with fifos := x.fifos.set d q } else x
def Core.coming (x : Core) (d : Nat) : List (Nat × Entry) := if h : d < 4 then x.arriving[d] else []
def Core.setComing (x : Core) (d : Nat) (q : List (Nat × Entry)) : Core :=
  if h : d < 4 then { x with arriving := x.arriving.set d q } else x

/-- Whether a core's links are allotted to the task with id `t` (R262). -/
def Core.linkTask (x : Core) (t : Nat) : Bool := x.tasks.any fun r => r.2.links && r.2.task == t

/-- Whether the task may name the link of a direction (R262). -/
def State.linkOk (s : State) (c t dir : Nat) : Bool :=
  (s.core c).linkTask t &&
  match neighbour c dir with
  | none => false
  | some n => (s.core n).linkTask t

/-- Free credits toward the neighbour in a direction (R263). -/
def State.credits (s : State) (c dir : Nat) : Nat :=
  match neighbour c dir with
  | none => 0
  | some n =>
    let x := s.core n
    let d := opposite dir
    let held := if h : d < 4 then (if x.popped[d] = some s.clk then 1 else 0) else 0
    4 - min 4 ((x.fifo d).length + (x.coming d).length + held)

/-- The clock that a word enters in: the link carries one word a clock, in order (R263). -/
def Core.lands (x : Core) (d at_ : Nat) : Nat := (x.fifo d ++ x.coming d).foldl (fun m w => max m (w.1 + 1)) at_

/-- Send a word toward a direction, to arrive at clock `at_`; `psn` marks it poisoned (R263, R276). -/
def State.push (s : State) (c dir at_ : Nat) (e : Entry) (psn : Bool := false) : State :=
  match neighbour c dir with
  | none => s
  | some n =>
    let x := s.core n
    let d := opposite dir
    let t := x.lands d at_
    let y := x.setComing d (x.coming d ++ [(t, e)])
    s.setCore n (if psn then { y with linkPsn := y.linkPsn ++ [(d, t)] } else y)

/-- Whether the oldest word of a link is marked poisoned (R276). -/
def Core.headBad (x : Core) (dir : Nat) : Bool :=
  match x.fifo dir with
  | [] => false
  | (t, _) :: _ => x.linkPsn.contains (dir, t)

/-- Discard the words of a link (R265). -/
def Core.clearFifo (x : Core) (d : Nat) : Core :=
  let gone := x.fifo d
  { x.setFifo d [] with linkPsn := x.linkPsn.filter fun p => p.1 != d || !gone.any (·.1 == p.2) }

/-- The oldest word a pop may take: it entered before this clock (R263). -/
def State.linkHead (s : State) (c dir : Nat) : Option Entry :=
  match (s.core c).fifo dir with
  | [] => none
  | (t, e) :: _ => if t < s.clk then some e else none

/-- Pop a word, forwarding it with its mark where the forward bit is set (R21, R264, R276). -/
def State.pop (s : State) (c dir : Nat) : State :=
  match (s.core c).fifo dir with
  | [] => s
  | (at_, e) :: t =>
    let psn := (s.core c).headBad dir
    let x := (s.core c).setFifo dir t
    let x : Core := { x with linkPsn := x.linkPsn.filter (· != (dir, at_)) }
    let x : Core := if h : dir < 4 then { x with popped := x.popped.set dir (some s.clk) } else x
    let s := s.setCore c x
    if x.fwd.getLsbD dir then s.push c (opposite dir) (s.clk + 2) e psn else s

end Sys2Proof.Machine

namespace Sys2Proof

/-- The links that fields with a role name: directions 0 to 3. -/
def Opd.links (o : Opd) (x : BitVec 6) (role : Role → Bool) : List Nat :=
  match o with
  | .reg .v r _ => if role r && 32 ≤ x.toNat && x.toNat < 36 then [x.toNat - 32] else []
  | _ => []

def Form.links (m : Form) (w : Tolog) (role : Role → Bool) : List Nat :=
  (m.a.links w.a role ++ m.b.links w.b role ++ m.c.links w.c role ++ m.d.links w.d role).eraseDups

end Sys2Proof
end

