-- ==== Sys2Proof/Machine/RelOps.lean ====
section
/-! DEFINITION. Reliability events (R436), the quarantine counts (R444) and the domain monitors' counts (R447). -/

namespace Sys2Proof.Machine

/-- The add of `n` reliability events, under key 0 in the captured context; dropped where its translation fails (R437). It writes no
event-queue record (R436). -/
def State.relAdd (s : State) (die n : Nat) : State :=
  let d := s.die die
  if d.relctr = 0 then s
  else match s.xlateDie die d.relctrCtx (fld d.relctr 56 0) true with
    | .error _ => s
    | .ok pa => s.unlessFenced (fld d.relctr 56 0) 8 fun s => (s.counterAdd 0 (Loc.phys pa) (wd n)).1

/-- Report an event: of several in one clock, `RELLAST` keeps the lowest kind, and their number is added at its end (R436). -/
def State.relEvent (s : State) (die kind detail : Nat) : State :=
  let d := { s.die die with relDue := (s.die die).relDue + 1 }
  s.setDie die (if d.relClk == some s.clk && fld d.rellast 63 56 < kind then d
    else { d with rellast := wd (kind * 2 ^ 56 + detail % 2 ^ 48), relClk := some s.clk })

/-- The events of a clock add their number in one add to each die's counter (R436). -/
def State.relSettle (s : State) : State :=
  (s.dies.filter fun d => d.2.relDue != 0).foldl (fun s d => (s.setDie d.1 { s.die d.1 with relDue := 0 }).relAdd d.1 d.2.relDue) s

/-- Count an event for a core's domain monitor (R447). -/
def State.domainEvent (s : State) (c : Nat) : State :=
  let d := s.die (dieOf c)
  let k := clusterOf c
  let w := s.clk / msClk * msClk
  if h : k < 12 then
    s.setDie (dieOf c) { d with
      domCount := d.domCount.set k (if d.domOpen[k] = w then d.domCount[k] + 1 else 1)
      domOpen := d.domOpen.set k w }
  else s

/-- The bit of a core in `CQUAR0` to `CQUAR2` (R437). -/
def quarIndex (c : Nat) : Nat := 16 * yOf c + xOf c

/-- Quarantine a core whose count has reached its threshold (R444). -/
def State.quarantine (s : State) (c bitNo : Nat) : State :=
  let d := s.die (dieOf c)
  let i := quarIndex c
  let s := if h : i / 64 < 3 then s.setDie (dieOf c) { d with cquar := d.cquar.set (i / 64) (setFld d.cquar[i / 64] (i % 64) (i % 64) 1) } else s
  s.relEvent (dieOf c) 4 (yOf c * 256 + xOf c + 2 ^ bitNo)

/-- Whether a core's count has reached a threshold, or stands above one that has been lowered since, with the core not in quarantine (R444). -/
def State.reached (s : State) (c n thr : Nat) : Bool :=
  n == thr || (thr < n && !bit ((s.die (dieOf c)).cquar.toList.getD (quarIndex c / 64) 0) (quarIndex c % 64))

/-- Count a `SIGMIS` of a core (R444). -/
def State.countSig (s : State) (c : Nat) : State :=
  let x := s.core c
  let n := x.sigCount + 1
  let s := s.setCore c { x with sigCount := n }
  if s.reached c n (fld (s.die (dieOf c)).relthr 15 8) then s.quarantine c 16 else s

/-- Count a suspect event of a core's array, which its domain's monitor counts too (R172, R234, R444, R447). -/
def State.countSuspect (s : State) (c : Nat) : State :=
  let x := s.core c
  let n := x.susCount + 1
  let s := (s.setCore c { x with susCount := n }).domainEvent c
  if s.reached c n (fld (s.die (dieOf c)).relthr 7 0) then s.quarantine c 17 else s

end Sys2Proof.Machine
end

