-- ==== Sys2Proof/Machine/Traps.lean ====
section
/-! DEFINITION. Ending a firing (R84 to R87), disbanding a gang (R253), and taking a trap, handled or not (R100 to R104,
R210, R254). -/

namespace Sys2Proof.Machine

/-! ### Channels -/

/-- Change one of a list of input channels. -/
def modChan (is : List InChan) (ch : Nat) (f : InChan → InChan) : List InChan := is.map fun i => if i.ch = ch then f i else i

/-- The queue of a stage of a balanced band (R312). -/
def State.queue (s : State) (task stage : Nat) : Option (List InChan) := (s.task task).bind fun t => mget t.queues stage

/-- The stage whose queue an entry of an actor table stands for: a message enters that of the actor's present stage; an output channel stays
bound to the stage that it was bound to at placement (R312, R470; notes/assumptions/70.md). -/
def Actor.queueFor (a : Actor) (bound : Bool) : Nat := if bound then a.idx else a.stage

/-- The input channels that messages to an actor enter, or the entries of channels bound to it: its own, or its stage's queue (R75, R312). -/
def State.inputsOf (s : State) (a : Actor) (bound : Bool := false) : List InChan := (s.queue a.task (a.queueFor bound)).getD a.ins

/-- The input channels that an actor's firings take from. -/
def State.sourceOf (s : State) (a : Actor) : List InChan := (s.queue a.task a.stage).getD a.ins

/-- Replace the queue of a stage. -/
def State.setQueue (s : State) (task stage : Nat) (is : List InChan) : State :=
  match s.task task with
  | some t => s.setTask task { t with queues := mset t.queues stage is }
  | none => s

/-- Change the input channel of an entry of an actor table that messages enter. -/
def State.modIn (s : State) (c e ch : Nat) (f : InChan → InChan) (bound : Bool := false) : State :=
  match s.actor c e with
  | none => s
  | some a => match s.queue a.task (a.queueFor bound) with
    | some is => s.setQueue a.task (a.queueFor bound) (modChan is ch f)
    | none => s.setActor c e { a with ins := modChan a.ins ch f }

/-- An actor of a task's stage that was held is held no longer. -/
def Core.unhold (x : Core) (task stage : Nat) : Core :=
  { x with actors := x.actors.map fun a => (a.1, if a.2.task == task && a.2.stage == stage then { a.2 with held := false } else a.2) }

/-- Commit entries to an input channel; a held actor is held no longer (R82, R84). -/
def State.commit (s : State) (c e ch : Nat) (xs : List Entry) (bound : Bool := false) : State :=
  match s.actor c e with
  | none => s
  | some a =>
    let s := s.modIn c e ch (fun i => { i with fifo := i.fifo ++ xs }) bound
    if xs.isEmpty then s
    else if (s.queue a.task (a.queueFor bound)).isSome then
      (((s.task a.task).map (·.places)).getD []).foldl (fun s p => s.setCore p.core ((s.core p.core).unhold a.task (a.queueFor bound))) s
    else match s.actor c e with
      | some a => s.setActor c e { a with held := false }
      | none => s

/-- The reservations of a firing's output channels, given back (R78, R84). -/
def State.unreserve (s : State) (outs : List OutChan) : State :=
  outs.foldl (fun s o => s.modIn o.tcore o.tactor o.tch (fun i => { i with reserved := i.reserved - o.rate }) true) s

/-- The holder's number of a firing. -/
def holder (c k : Nat) : Nat := c * 8 + k

/-- The entries that a firing holds of a stage's queue are popped, or given back ahead of those not held (R312). -/
def InChan.settleHeld (i : InChan) (h : Nat) (pop : Bool) : InChan :=
  let mine := i.lent.filter fun e => e.2.1 == h
  { i with lent := i.lent.filter fun e => e.2.1 != h,
           back := if pop then i.back else mine.foldl (fun m e => mset m e.1 e.2.2) i.back }

def State.settleHeld (s : State) (c k : Nat) (a : Actor) (pop : Bool) : State :=
  match s.queue a.task a.stage with
  | some is => s.setQueue a.task a.stage (is.map fun i => i.settleHeld (holder c k) pop)
  | none => s

/-! ### Gangs -/

/-- Width and height of a gang of size `n` (R249). -/
def gangShape (n : Nat) : Nat × Nat := if n = 2 then (2, 1) else if n = 4 then (2, 2) else if n = 8 then (4, 2) else (1, 1)

/-- The core of member `j` of the gang of size `n` that core `c` leads (R249). -/
def gangCore (c n j : Nat) : Nat := c + j / (gangShape n).1 * 16 + j % (gangShape n).1

/-- The cores of a gang in member order. -/
def gangCores (c n : Nat) : List Nat := (List.range n).map (gangCore c n)

/-- Lanes 0 to 31 of a vector register, and their bits of a mask. -/
def lowLanes (x : VReg) : VReg := x &&& BitVec.ofNat 8192 (2 ^ 1024 - 1)
def lowMask (x : KReg) : KReg := x &&& BitVec.ofNat 256 (2 ^ 32 - 1)

/-- A firing without its gang's upper lanes (R253). -/
def Firing.narrow (f : Firing) : Firing :=
  { f with gang := 1, v := f.v.map lowLanes, k := f.k.map lowMask, gens := lowLanes f.gens }

/-- The followers' firings issue again from 4 clk on (R253). -/
def Core.resume (x : Core) (at_ : Nat) : Core :=
  { x with follows := none, slots := x.slots.map fun f => f.map fun g => { g with nextIssue := max g.nextIssue at_ } }

/-- The size of the gang that a firing leads, or that has been granted to it (R251). -/
def Firing.span (f : Firing) : Nat :=
  match f.wait with
  | .gang n (some _) => n
  | .ganging n => n
  | _ => f.gang

/-- End the gang that a firing leads (R253): its results delivered, its lanes narrowed, its followers released. -/
def State.disband (s : State) (c k : Nat) : State :=
  match s.firing c k with
  | none => s
  | some f =>
    if f.span = 1 then s
    else
      let s := ((gangCores c f.span).drop 1).foldl (fun s m => s.setCore m ((s.core m).resume (s.clk + 4))) s
      let g := (f.drain s.clk).narrow
      s.setFiring c k { g with nextIssue := max g.nextIssue (s.clk + 4) }

/-! ### Ending a firing -/

/-- Disarm a slot's monitors (R149). -/
def Core.disarm (x : Core) (k : Nat) : Core := { x with monitors := x.monitors.filter fun m => m.slot != k }

/-- The number that stands for the slot of a firing that has ended: no slot has it. -/
def noSlot : Nat := 8

/-- What a firing has started goes on without it (R86): its attention and service requests answer no slot (R124, R366), and `MXSUS` of its
entries is recorded in their completion records alone (R101). -/
def Core.orphan (x : Core) (k : Nat) : Core :=
  let cut (ch : Chain) : Chain :=
    if ch.tags.any (·.slot == some k) then { ch with tags := ch.tags.map fun t => if t.slot == some k then { t with slot := none } else t } else ch
  { x with
    loads := x.loads.filter fun y => y.k != k
    attns := x.attns.map fun j => if j.slot == k then { j with slot := noSlot } else j
    calls := x.calls.map fun j => if j.slot == k then { j with slot := noSlot } else j
    evHeld := x.evHeld.map fun r => if r.tells.any (·.1 == k) then { r with tells := none } else r
    tasks := x.tasks.map fun r => (r.1, { r.2 with achain := cut r.2.achain, cchain := cut r.2.cchain }) }

/-- Leave the slot: the reservations given back, the monitors disarmed, the actor free; `fa` marks the actor. -/
def State.leave (s : State) (c k : Nat) (f : Firing) (fa : Actor → Actor) : State :=
  let s := match s.actor c f.actor with
    | some a =>
      let s := (s.settleHeld c k a false).unreserve a.outs
      match s.actor c f.actor with
      | some a => s.setActor c f.actor (fa { a with busy := false, readyAt := none })
      | none => s
    | none => s
  s.setCore c ((((s.core c).disarm k).orphan k).setSlot k none)

/-- Push a commit's entries: on its own core at once, to another core at the end of the clock, after that core's own commit (R83). -/
def State.commitTo (s : State) (c tc e ch : Nat) (xs : List Entry) : State :=
  if tc = c then s.commit tc e ch xs true else { s with pushes := s.pushes ++ [(tc, e, ch, xs)] }

/-- `FINI` with everything committed: pops, then pushes (R83, R84, R87). -/
def State.finish (s : State) (c k : Nat) : State :=
  let s := s.disband c k
  match s.firing c k with
  | none => s
  | some f =>
    let s := match s.actor c f.actor with
      | some a => s.settleHeld c k a true
      | none => s
    let s := s.leave c k f fun a =>
      { a with seqNo := a.seqNo + 1, ins := a.ins.map fun i => { i with fifo := i.fifo.drop i.rate, ord := i.ord + min i.rate i.fifo.length } }
    match s.actor c f.actor with
    | none => s
    | some a => a.outs.foldl (fun s o => s.commitTo c o.tcore o.tactor o.tch (mgetD f.closed o.ch [])) s

/-- `ABORT`: nothing committed; the actor is held (R84). -/
def State.abort (s : State) (c k : Nat) : State :=
  let s := s.disband c k
  match s.firing c k with
  | none => s
  | some f => s.leave c k f fun a => { a with held := true }

/-! ### Traps -/

/-- The firing trap record (R104). -/
def trapRecord (cause slot actor task pc : Nat) (val : Word) (seqNo : Nat) : EvRecord :=
  { w0 := wd (0x02 * 2 ^ 56 + cause % 256 * 2 ^ 48 + slot % 8 * 2 ^ 40 + actor % 64 * 2 ^ 32 + task % 2 ^ 32)
    w1 := wd pc, w2 := val, w3 := wd seqNo }

/-- Size of a register image in a capture area (notes/assumptions/11.md). -/
def captureSize : Nat := 4864

/-- The bytes of a register image (R210; their order is notes/assumptions/11.md). -/
def captureBytes (f : Firing) (pc : Nat) : List Byte :=
  f.g.toList.flatMap (fun x => leBytes 8 x.toNat) ++ f.v.toList.flatMap (fun x => leBytes 128 x.toNat) ++
  (List.range 8).map (fun r => if f.rp r then 1 else 0) ++ (List.range 8).flatMap (fun r => leBytes 4 (f.rk r).toNat) ++
  f.ba.toList.flatMap (fun x => leBytes 8 x.toNat) ++ leBytes 8 pc ++
  leBytes 8 f.fmode.toNat ++ leBytes 8 f.fstat.toNat ++ leBytes 8 f.fseed.toNat

/-- Write bytes at a device address for a unit of a die, under a context and key; dropped where that fails. -/
def State.devWrite (s : State) (die ctx key addr : Nat) (xs : List Byte) : Option State :=
  if !s.keyLoaded key then none
  else
    (pieces (xs.length / 65536 + 2) addr xs.length 65536).foldl (fun (acc : Option (State × List Byte)) p =>
      match acc with
      | none => none
      | some (s, bs) =>
        match s.xlateDie die ctx p.1 true with
        | .ok pa => some (s.homeWrite key (Loc.phys pa) (bs.take p.2), bs.drop p.2)
        | .error _ => none) (some (s, xs)) |>.map (·.1)

/-- Read bytes at a device address for a unit of a die. -/
def State.devRead (s : State) (die ctx key addr n : Nat) : Except WalkFail (List Byte) :=
  (pieces (n / 65536 + 2) addr n 65536).foldl (fun (acc : Except WalkFail (List Byte)) p =>
    match acc with
    | .error e => .error e
    | .ok bs =>
      match s.xlateDie die ctx p.1 false with
      | .error e => .error e
      | .ok pa => if s.isBad (Loc.phys pa) p.2 then .error .poison else .ok (bs ++ s.homeRead key (Loc.phys pa) p.2)) (.ok [])

/-- Save the register image of a faulted firing where its task's type asks for it, and post its record (R210). An image that cannot be written is dropped
like one that finds the area full (notes/assumptions/150.md). -/
def State.capture (s : State) (c k : Nat) (f : Firing) (pc : Nat) : State × Option EvRecord :=
  match s.resident c f.rti with
  | none => (s, none)
  | some r =>
    if !r.rcap then (s, none)
    else
      match s.task r.task with
      | none => (s, none)
      | some t =>
        let addr := t.cap + t.capUsed * captureSize
        let wanted := t.cap != 0 && t.capUsed < t.ncap
        let lost := if wanted then s.rangeNack addr captureSize else none
        let out := if wanted && lost.isNone then s.devWrite (dieOf c) t.ctx t.key addr (captureBytes f pc) else none
        let s := match lost with
          | some die => s.countNack die
          | none => s
        match out with
        | some s => (s.setTask r.task { t with capUsed := t.capUsed + 1 },
            some { w0 := wd (0x05 * 2 ^ 56 + k % 8 * 2 ^ 40 + r.task % 2 ^ 32), w1 := wd addr })
        | none => (s, some { w0 := wd (0x05 * 2 ^ 56 + k % 8 * 2 ^ 40 + r.task % 2 ^ 32) })

/-- End a firing with a trap record: nothing committed; the full event queue keeps it in its slot (R103, R201). -/
def State.endFaulted (s : State) (c k cause pc : Nat) (val : Word) (fa : Actor → Actor) (more : Option EvRecord) : State :=
  match s.firing c k with
  | none => s
  | some f =>
    let task := ((s.resident c f.rti).map (·.task)).getD 0
    let idx := ((s.actor c f.actor).map (·.idx)).getD f.actor
    let s := s.leave c k f fa
    let s := s.post c (trapRecord cause k idx task pc val f.seqNo)
    let s := if (s.core c).evHeld.isEmpty then s else s.setFiring c k { f with wait := .record }
    match more with
    | some r => s.post c r
    | none => s

/-- The slots of a core that hold firings of the resident index, without those that only wait for their record. -/
def Core.firingsOf (x : Core) (rti : Nat) : List Nat :=
  (List.range 8).filter fun k => if h : k < 8 then match x.slots[k] with
    | some f => f.rti == rti && f.wait != .record
    | none => false else false

/-- `TRAPPC` of a trap in a firing: the 18 bits of its address (R93). -/
def Firing.trapAt (f : Firing) : Nat := f.pc % 2 ^ 18

/-- Whether an access of a firing's instruction is under way: it has no boundary before that is done (R86, R103). -/
def Firing.midway (f : Firing) : Bool := !(f.asked.isEmpty && f.issued.isEmpty)

/-- End one firing with `KILL`: what it still awaits from other units goes on without it, and its image is captured as for any trap that no
handler takes (R86, R103, R210; notes/assumptions/140.md). -/
def State.killOne (s : State) (c k : Nat) : State :=
  let s := s.disband c k
  match s.firing c k with
  | none => s
  | some f =>
    let f := ({ f with flight := f.flight.filter (!·.await) } : Firing).drain s.clk
    let (s, more) := (s.setFiring c k f).capture c k f f.trapAt
    s.endFaulted c k 0x30 f.trapAt 0 id more

/-- End a task's firings with `KILL`, all but the one excepted; one in the middle of an instruction ends after it (R103, R303). -/
def State.killAll (s : State) (task : Nat) (except : Option (Nat × Nat)) : State :=
  match s.task task with
  | none => s
  | some t =>
    t.places.foldl (fun s p =>
      ((s.core p.core).firingsOf p.rti).foldl (fun s k =>
        if except = some (p.core, k) then s
        else match s.firing p.core k with
          | none => s
          | some f => if f.midway then s.setFiring p.core k { f with killed := true } else s.killOne p.core k) s) s

/-- Whether a firing that is to end with `KILL` stands at a boundary. -/
def Firing.reapable (f : Firing) : Bool := f.killed && !f.midway && f.wait != .record

/-- The firings of a core that end with `KILL`, now that their instructions are done. -/
def State.reap (s : State) (c : Nat) : State :=
  (List.range 8).foldl (fun s k => match s.firing c k with
    | some f => if f.reapable then s.killOne c k else s
    | none => s) s

/-- Whether any firing is to end so. -/
def State.reaps (s : State) : Bool := s.cores.any fun c => c.2.slots.any fun f => f.any (·.reapable)

/-- The end of the clock's instructions: the pushes to other cores enter (R83), and killed firings end (R103). -/
def State.endIssue (s : State) : State :=
  let s := s.pushes.foldl (fun s p => s.commit p.1 p.2.1 p.2.2.1 p.2.2.2 true) { s with pushes := [] }
  let s := s.kills.foldl (fun s k => s.killAll k.1 k.2) { s with kills := [] }
  s.cores.foldl (fun s c => s.reap c.1) s

/-- An unhandled trap (R103). -/
def State.unhandled (s : State) (c k cause pc : Nat) (val : Word) : State :=
  match s.firing c k with
  | none => s
  | some f =>
    let task := ((s.resident c f.rti).map (·.task)).getD 0
    let (s, more) := s.capture c k f pc
    let s := s.endFaulted c k cause pc val (fun a => { a with faulted := true }) more
    match s.task task with
    | none => s
    | some t =>
      let t' := if t.faulted then t else { t with faulted := true, cause := cause, fcore := c, fslot := k, fpc := pc, fval := val }
      (s.setTask task t').killLater task none

/-- Causes that a handler may take (R100). -/
def takeable (cause : Nat) : Bool := cause != 0x16 && cause != 0x20 && cause != 0x30

/-- Whether an address breaks R10. -/
def badTarget (a : Nat) : Bool := a % 4 != 0 || a % 32 == 28 || 262144 ≤ a

/-- The firing in its handler: the trap registers written, `EN` cleared, the PC at `ADDR` × 4 (R102). -/
def Firing.handle (f : Firing) (cause pc : Nat) (val : Word) : Firing :=
  let a := fld f.trapVec 17 2 * 4
  { f with trapCause := wd cause, trapPc := wd pc, trapVal := val, trapVec := f.trapVec &&& ~~~(1 : Word),
           ready := none, pc := a, wait := .none, sigCf := 0xFFFF, sigDd := 0xFFFF, sigBlock := a }

/-- Raise a trap in the firing of a slot (R27, R100 to R103). In a gang it disbands the gang first, and a takeable cause
of the lanes of member `m` ≥ 1 becomes `GANGBRK` (R254). -/
def State.raise (s : State) (c k cause : Nat) (val : Word) (m : Nat) : State :=
  match s.firing c k with
  | none => s
  | some f0 =>
    let (cause, val) := if m = 0 || !takeable cause then (cause, val) else (0x21, wd (m % 8 + cause * 256))
    let s := if cause = 0x16 then { s with fenceReq := s.fenceReq ++ [c] } else s
    let s := if cause = 0x20 then s.countSig c else s
    let late := f0.lastDue s.clk
    let s := (s.setFiring c k (f0.drain s.clk)).disband c k
    match s.firing c k with
    | none => s
    | some f =>
      if bit f.trapVec 0 && takeable cause then
        let g := f.handle cause f.trapAt val
        let g := { g with nextIssue := max g.nextIssue (late + 1) }
        let s := s.setFiring c k g
        if badTarget g.pc then s.unhandled c k 0x01 g.pc (wd g.pc) else s
      else s.unhandled c k cause f.trapAt val

end Sys2Proof.Machine
end

