-- ==== Sys2Proof/Machine/Issue.lean ====
section
/-! DEFINITION. Issuing one Tolog instruction: what every instruction shares (R9, R15 to R30, R112 to R114, R209). Each
meaning hands its own part over as a body. -/

namespace Sys2Proof.Machine

def Ctx.g (x : Ctx) (r : BitVec 6) : Word := x.f.rg r
def Ctx.p (x : Ctx) (r : BitVec 6) : Bool := x.f.rp r.toNat
def Ctx.km (x : Ctx) (r : BitVec 6) : KReg := x.f.rk r.toNat
def Ctx.ba (x : Ctx) (r : BitVec 6) : BitVec 40 := x.f.rba r.toNat

/-- A vector source: a register, or the word popped from a link (R21). -/
def Ctx.v (x : Ctx) (r : BitVec 6) : VReg :=
  if r.toNat < 32 then x.f.rv r.toNat else (mgetD x.links (r.toNat - 32) 0).zeroExtend 8192

/-- `opB` of R105. -/
def Ctx.b (x : Ctx) : Word :=
  if x.w.mod.getLsbD 0 then (if x.w.len = 2 then x.w.imm else sext32 x.w.imm) else x.g x.w.b

/-- The offset of a handle form (R14). -/
def Ctx.off (x : Ctx) : Nat := (x.g x.w.a + disp x.w.imm).toNat

/-- The lanes active under R156. -/
def Ctx.active (x : Ctx) : KReg := if x.w.mod.getLsbD 7 then x.km x.w.e else x.f.rk 0

/-- The resident task of the firing, and the stream it acts for. -/
def Ctx.res (x : Ctx) (s : State) : Resident := (s.resident x.c x.f.rti).getD { task := 0 }
def Ctx.sid (x : Ctx) : Nat := fld (x.g 4) 23 0

/-- The effect of an instruction: the state, the register results, the flags, and the target of a taken transfer. -/
structure Eff where
  s : State
  writes : List RegWrite := []
  flags : BitVec 7 := 0
  jump : Option Nat := none
  /-- The results come later, from a unit that fills them in; `load` is the number of a load that waits at its home. -/
  await : Bool := false
  load : Nat := 0
  /-- The next instruction issues no earlier than this clock. -/
  hold : Nat := 0
  /-- The register results are poisoned (R443). -/
  poison : Bool := false

/-- What a body answers. -/
inductive Body where
  /-- The effect. -/
  | ok (e : Eff)
  /-- A precise fault with no effect; `m` is the gang member whose lanes raised it (R254). -/
  | trap (cause : Nat) (val : Word) (m : Nat)
  /-- The instruction does not issue in this clock. -/
  | wait (s : State)
  /-- Its accesses, by number, have been issued, and one waits at its home (R346, R405). -/
  | held (s : State) (issued : SMap Acc)
  /-- The effect, and the firing waits. -/
  | block (e : Eff) (w : Wait)
  /-- The firing has ended. -/
  | gone (s : State)
  /-- A home in a fenced rectangle of a die answers negatively (R443). -/
  | nack (die : Nat) (s : State)
  /-- Another package has answered it negatively and counted that (R468). -/
  | lost (s : State)

/-- The address of the sequential successor (R9). -/
def seqAddr (pc : Nat) (len : BitVec 2) : Nat :=
  let a := pc + lenBytes len
  if a % 32 = 28 then a + 4 else a

/-- The opcodes at which the signature checker compares (R209). -/
def sigPoint (op : Nat) : Bool :=
  op == 0x20 || op == 0x21 || op == 0x22 || op == 0x23 || op == 0x24 || op == 0x25 || op == 0x26 || op == 0x27 || op == 0x2F

/-- The operand codes that an instruction reads and writes, in the order D, A, B, C, E (notes/assumptions/12.md). -/
def sigCodes (m : Form) (w : Tolog) : List (BitVec 6) :=
  let one (o : Opd) (x : BitVec 6) : List (BitVec 6) := match o with
    | .reg _ _ _ => [x]
    | .tri _ => [x]
    | _ => []
  one m.d w.d ++ one m.a w.a ++ one m.b w.b ++ one m.c w.c ++ one m.e w.e

/-- The checker with one more instruction (R209). -/
def Firing.sigStep (f : Firing) (bits : Word) (codes : List (BitVec 6)) : Firing :=
  { f with
    sigCf := if bit f.sigctl 0 then crcBits f.sigCf bits 32 else f.sigCf
    sigDd := if bit f.sigctl 1 then codes.foldl (fun c x => crcBits c (x.zeroExtend 64) 6) f.sigDd else f.sigDd }

/-- The signature entry of the running block (R209, R427). -/
def State.sigEntry (s : State) (c : Nat) (f : Firing) : Option SigBlock :=
  match s.actor c f.actor with
  | none => none
  | some a => ((mget s.pkg.images a.image).getD {}).sigs.find? (·.addr == f.sigBlock)

/-- Whether the running values differ from the block's entry (R209). -/
def State.sigBad (s : State) (c : Nat) (f : Firing) : Bool :=
  match s.sigEntry c f with
  | none => false
  | some e => (bit f.sigctl 0 && f.sigCf.toNat != e.cf) || (bit f.sigctl 1 && match e.dd with
    | some d => f.sigDd.toNat != d
    | none => false)

/-- The instructions that share the mantissa multipliers (R160). -/
def usesMul (op : Nat) : Bool :=
  op == 0x62 || op == 0x63 || op == 0x64 || op == 0x76 || op == 0x72 || op == 0x82 || op == 0x83 || op == 0x93

/-- A slot has issued: the firings that yielded to it wait for one slot fewer (R116). -/
def yieldTo (k clk : Nat) (o : Option Firing) : Option Firing :=
  match o with
  | none => none
  | some f =>
    match f.wait with
    | .yield ks all u =>
      let ks := ks.filter (· != k)
      if ks.isEmpty then some { f with wait := .none, ready := none, nextIssue := max f.nextIssue (clk + 1) } else some { f with wait := .yield ks all u }
    | _ => some f

/-- The clock has no instruction of this firing, which waits: it is no candidate, and tries again in the next (R21, R25, R98). -/
def State.retry (s : State) (c k : Nat) : State :=
  match s.firing c k with
  | none => s
  | some f => s.setFiring c k { f with tried := some s.clk, ready := none }

/-- Split the results into register writes and words pushed to links, by direction (R21). -/
def splitPush (xs : List RegWrite) : List RegWrite × List (Nat × Entry) :=
  match xs with
  | [] => ([], [])
  | x :: t =>
    let (a, b) := splitPush t
    match x with
    | .v r y m => if 32 ≤ r then (a, (r - 32, (y &&& m).truncate 1024) :: b) else (x :: a, b)
    | _ => (x :: a, b)

/-- Drop the writes that R20 discards. -/
def realWrites (xs : List RegWrite) : List RegWrite :=
  xs.filter fun x => match x with
    | .g r _ => r != 0
    | .p r _ => r != 0
    | .k r _ => r != 0
    | _ => true

/-- The flight with an instruction's results added at its latency (R24, R25). -/
def addResult (fl : List Result) (lat : Latency) (clk : Nat) (ws : List RegWrite) (fs : BitVec 7) (await poison : Bool) (load : Nat := 0) : List Result :=
  if ws.isEmpty && fs = 0 && !await then fl
  else match lat with
    | .fixed n => fl ++ [{ due := some (clk + n), writes := ws, flags := fs, poison }]
    | .sb => fl ++ [{ due := none, writes := ws, flags := fs, await, poison, load }]
    | .none => fl ++ [{ due := some clk, writes := ws, flags := fs, poison }]

/-- Slot `k` of a core has had the clock: no other slot issues in it (R90), and what yielded to it has one slot fewer to wait for (R116). -/
def State.spentBy (s : State) (c k : Nat) : State :=
  let x := s.core c
  s.setCore c { x with issued := some s.clk, slots := x.slots.map (yieldTo k s.clk) }

/-- Complete an instruction that has issued: its results in flight, the PC advanced or moved, the stall counted (R9,
R23, R114), the links pushed (R263; notes/assumptions/154.md). -/
def State.complete (x : Ctx) (e : Eff) (wait : Wait) : State :=
  let s := e.s
  match s.firing x.c x.k with
  | none => s
  | some f =>
    let lat := latency x.op x.w
    let (ws, ps) := splitPush (realWrites e.writes)
    let at_ := match lat with
      | .fixed n => s.clk + n + 2
      | _ => s.clk + 2
    let stall := x.w.stall.toNat
    let pc := match e.jump with
      | some t => t
      | none => seqAddr f.pc x.w.len
    let next := max (s.clk + 1 + (if e.jump.isSome then max stall 2 else stall)) e.hold
    let f := { f with
      flight := addResult f.flight lat s.clk ws e.flags e.await e.poison e.load
      pc := pc
      nextIssue := max f.nextIssue next
      ready := none
      yld := x.w.yld
      tried := none
      wait := wait
      issued := []
      asked := []
      replies := []
      sigCf := if sigPoint x.op then 0xFFFF else x.f.sigCf
      sigDd := if sigPoint x.op then 0xFFFF else x.f.sigDd
      sigBlock := if sigPoint x.op then pc else f.sigBlock }
    let s := (s.setFiring x.c x.k f).spentBy x.c x.k
    ps.foldl (fun s p => s.push x.c p.1 at_ p.2 e.poison) s

/-- Credits that an instruction's pushes and forwarded pops need toward a direction (R263, R264). -/
def creditsNeeded (fwd : BitVec 4) (src dst : List Nat) (dir : Nat) : Nat :=
  (if dst.contains dir then 1 else 0) + (if src.contains (opposite dir) && fwd.getLsbD (opposite dir) then 1 else 0)

/-- Whether every link operand is ready (R21, R263, R264). -/
def State.linksReady (s : State) (c : Nat) (src dst : List Nat) : Bool :=
  src.all (fun d => (s.linkHead c d).isSome) &&
  (List.range 4).all fun d => let n := creditsNeeded (s.core c).fwd src dst d
    n = 0 || n ≤ s.credits c d

/-- The words a body reads from its source links. -/
def linkWords (s : State) (c : Nat) (src : List Nat) : SMap Entry :=
  src.foldl (fun m d => mset m d ((s.linkHead c d).getD 0)) []

/-- Pop the source links of an instruction that issues (R21). -/
def State.popAll (s : State) (c : Nat) (src : List Nat) : State := src.foldl (fun s d => s.pop c d) s

/-- Raise a precise trap of the instruction: it waits for the results in flight that are still to come (R27), and takes the clock (R90); a
suspect result of `VFDOTMX` is counted (R172, R444). -/
def State.raiseAfter (s : State) (c k cause : Nat) (val : Word) (m : Nat) : State :=
  match s.firing c k with
  | none => s
  | some f =>
    if f.flight.any (·.await) then s.retry c k
    else ((if cause = 0x22 then s.countSuspect c else s).raise c k cause val m).spentBy c k

/-- A precise trap for whose `TRAPVAL` R100 has no form: the value is free (notes/assumptions/34.md). -/
def State.raiseOpen (s : State) (c k cause : Nat) : State :=
  let (v, s) := s.free
  s.raiseAfter c k cause (wd v) 0

/-- A register write of any value, for a result that is poison. -/
def poisonWrite (r : Nat × Nat) (v : Nat) : RegWrite :=
  match r.1 with
  | 0 => .g (BitVec.ofNat 6 r.2) (wd v)
  | 1 => .v r.2 (BitVec.ofNat 8192 v) (BitVec.allOnes 8192)
  | 2 => .p r.2 (v % 2 == 1)
  | 3 => .k r.2 (BitVec.ofNat 256 v)
  | _ => .ba r.2 (BitVec.ofNat 40 v)

/-- The first instruction that reads a poisoned register takes `POISON` precisely (R443); no handle form gives its `TRAPVAL`. -/
def State.takePoison (s : State) (c k : Nat) : State :=
  let (v, s) := s.free
  { s.raiseAfter c k 0x16 (wd v) 0 with fenceReq := s.fenceReq }

/-- What an instruction sees of a negative answer (R443): its destinations are poison; `PREF` does nothing, `MON` marks its firing, and
`JTAB` reads the poison itself; any other without a destination ends its task. -/
def State.unanswered (s : State) (x : Ctx) : State :=
  let ds := ((formOf x.op x.w).map fun m => m.regs x.w Role.writes ++ (m.links x.w Role.writes).map fun d => (1, 32 + d)).getD []
  if x.op = 0x44 then State.complete x { s } .none
  else if x.op = 0x4C then State.complete x { s := match s.firing x.c x.k with
    | some f => s.setFiring x.c x.k { f with overflow := true }
    | none => s } .none
  else if x.op = 0x24 then s.takePoison x.c x.k
  else if ds.isEmpty then
    ((match s.firing x.c x.k with
      | some f => s.setFiring x.c x.k { f with issued := [], asked := [], replies := [] }
      | none => s).endRunning (x.res s).task).spentBy x.c x.k
  else
    let (v, s) := s.free
    State.complete x { s, writes := ds.map fun r => poisonWrite r v, poison := true } .none

/-- A negative answer of a die's fenced home, which is counted (R443). -/
def State.nacked (s : State) (x : Ctx) (die : Nat) : State := (s.countNack die).unanswered x

/-- The loads whose results are scoreboarded while their page is absent (R346, R405): those of one place and of lanes that go to registers. -/
def isLoad (op : Nat) (w : Tolog) : Bool :=
  op == 0x40 || op == 0x42 || ((op == 0xA0 || op == 0xA2 || op == 0xA4) && w.d.toNat < 32)

/-- Whether a page that is not present is on its way back to HBM, not away from it (R403, R404). -/
def State.landing (s : State) (m : Mapping) : Bool :=
  s.pkg.parks.any fun p => p.2.sid == s.ownerOf m && (mget p.2.kept m.block).isSome

/-- Whether every page that an access waits for is one that is promoted (R404, R405). -/
def State.awaitsLanding (s : State) (a : Acc) : Bool :=
  (pieces (a.n / 32768 + 2) a.addr a.n 32768).all fun p => match s.resolveBlock 8 a.sid (p.1 / 32768) 0 with
    | some (_, m) => m.present || s.landing m
    | none => true

/-- An access of the instruction waits at its home. A load of pages that are promoted issues, and its result comes once they are present (R405); any
other holds its firing until then (R346), and so does a load of a page that moves away, which may still trap (R403). -/
def State.holdAccess (s : State) (x : Ctx) (src : List Nat) (issued : SMap Acc) : State :=
  match s.firing x.c x.k with
  | none => s
  | some f =>
    if isLoad x.op x.w && f.asked.isEmpty && issued.all fun a => s.awaitsLanding a.2 then
      let n := s.clk + 1
      let ds := ((formOf x.op x.w).map fun m => m.regs x.w Role.writes).getD []
      let k := s.core x.c
      let s := s.setCore x.c { k with loads := k.loads ++ [{ x with f := { x.f with issued }, load := n }] }
      State.complete x { s := s.popAll x.c src, writes := ds.map fun r => poisonWrite r 0, await := true, load := n } .none
    else (s.setFiring x.c x.k { f with issued }).retry x.c x.k

/-- Run the body of an instruction that may issue; its links are popped once it does. -/
def runBody (x : Ctx) (s : State) (src : List Nat) (body : Ctx → State → Body) : State :=
  match body { x with links := linkWords s x.c src } s with
  | .ok e => State.complete x { e with s := e.s.popAll x.c src } .none
  | .block e w => State.complete x { e with s := e.s.popAll x.c src } w
  | .trap cause val m => s.raiseAfter x.c x.k cause val m
  | .wait s => s.retry x.c x.k
  | .held s issued => s.holdAccess x src issued
  | .gone s => s
  | .nack die s => s.nacked x die
  | .lost s => s.unanswered x

/-- Whether an instruction names a link that its firing cannot use (R21, R252, R262). -/
def State.badLink (s : State) (c : Nat) (f : Firing) (dirs : List Nat) : Bool :=
  dirs.any fun d => f.gang != 1 || !s.linkOk c (((s.resident c f.rti).map (·.task)).getD 0) d

/-- The instructions that follow the earlier loads of their firing: `FENCE.ld`, atomics of a scope, counter adds, sends, `BAR`, `TSPAWN` and the
writes of `SAPP` (R121, R138, R144, R328). -/
def ordersLoads (op : Nat) (w : Tolog) : Bool :=
  (op == 0x2C && w.mod.getLsbD 0) || op == 0x49 || (((0x45 ≤ op && op ≤ 0x48) || op == 0xB1) && w.mod.extractLsb' 4 3 != 0) ||
  (0x34 ≤ op && op ≤ 0x36) || op == 0xD2 || op == 0xE0 || op == 0xE9

/-- Whether such an instruction waits for a load that waits at its home (R405). -/
def State.loadsFirst (s : State) (c k op : Nat) (w : Tolog) : Bool := ordersLoads op w && (s.core c).loads.any (·.k == k)

/-- An instruction reads a poisoned link word: it pops its words, which a forward carries on, and takes `POISON` (R276;
notes/assumptions/121.md). -/
def State.linkPoison (s : State) (c k : Nat) (src : List Nat) : State :=
  match s.firing c k with
  | none => s
  | some f => if f.flight.any (·.await) then s.retry c k else (s.popAll c src).raiseOpen c k 0x16

/-- Issue the instruction `w` of opcode `op` from the current slot, in the order of R30. -/
def issueAt (op : Nat) (w : Tolog) (s : State) (body : Ctx → State → Body) : State :=
  let c := s.cur.core
  let k := s.cur.slot
  match s.firing c k, formOf op w with
  | some f0, some m =>
    let f := f0.settle s.clk
    let s := s.setFiring c k f
    let src := m.links w Role.reads
    let dst := m.links w Role.writes
    let bits := w.bits op
    if s.badLink c f (src ++ dst) then s.raiseAfter c k 0x05 bits 0
    else if privOp op && !f.priv then s.raiseAfter c k 0x07 bits 0
    else if f.boarded (w.guards ++ m.regs w fun _ => true) || (usesMul op && s.clk < (s.core c).mulFree) then s.retry c k
    else
      match (if bit f.sbchk 0 then f.early w.guards else none) with
      | some (sp, r, d) => s.raiseAfter c k 0x06 (stallVal sp r (d - s.clk)) 0
      | none =>
        if w.guards.any f.parity.contains then s.raiseOpen c k 0x16
        else if w.guards.any f.poison.contains then s.takePoison c k
        else
        let g := f.sigStep bits (sigCodes m w)
        let x : Ctx := { op, w, f := g, c, k }
        if sigPoint op && s.sigBad c g then s.raiseAfter c k 0x20 (wd f.sigBlock) 0
        else if !w.pass f then State.complete x { s } .none
        else
          match (if bit f.sbchk 0 then f.early (m.regs w Role.reads) else none) with
          | some (sp, r, d) => s.raiseAfter c k 0x06 (stallVal sp r (d - s.clk)) 0
          | none =>
            if (m.regs w Role.reads).any f.parity.contains then s.raiseOpen c k 0x16
            else if (m.regs w Role.reads).any f.poison.contains then s.takePoison c k
            else if !s.linksReady c src dst || s.loadsFirst c k op w then s.retry c k
            else if src.any (s.core c).headBad then s.linkPoison c k src else runBody x s src body
  | _, _ => s

/-- The outcome of issuing an instruction. -/
def issue (op : Nat) (w : Tolog) (s : State) (body : Ctx → State → Body) : Host.Outcome State Fault Refusal :=
  .next (issueAt op w s body)

/-- The body of an instruction that only computes register results. -/
def pureBody (f : Ctx → List RegWrite) (x : Ctx) (s : State) : Body := .ok { s, writes := f x }

/-! ### What an instruction waits for before it issues -/

/-- Messages that a network interface holds (R132). -/
def nicSize : Nat := 8

/-- Whether a core's interface has no room for a message (R132). -/
def Core.nicFull (x : Core) : Bool := nicSize ≤ x.nic.length

/-- A counter add on another package by a firing of a task (R458). -/
def Packet.addOf (p : Packet) (task : Nat) : Bool := p.cls == 3 && p.srcTask == task

/-- Whether counter adds on other packages by a task's firings have still to be performed: a release at system scope follows them (R121,
R138, R144, R328). -/
def State.addsPending (s : State) (task : Nat) : Bool :=
  (s.cores.any fun c => c.2.nic.any fun m => match m with
    | .packet p => Packet.addOf p task
    | _ => false) ||
  s.pkg.fabOut.any fun f => f.p.spkg == s.pkgId && Packet.addOf f.p task

/-- The instructions that order by a scope, with system scope: `FENCE.st`, atomics and counter adds. -/
def releasesSys (op : Nat) (w : Tolog) : Bool :=
  w.mod.extractLsb' 4 3 == 5 && ((op == 0x2C && w.mod.getLsbD 1) || (0x45 ≤ op && op ≤ 0x49) || op == 0xB1)

/-- The first monitor of a slot whose line is not registered. -/
def Core.unregistered (x : Core) (k : Nat) : Option Monitor := x.monitors.find? fun m => m.slot == k && !m.registered

/-- Entries of a chain's ring, and its slots free after the tail (R215). -/
def Chain.size (x : Chain) : Nat := 2 ^ fld x.cfg 35 32
def Chain.room (x : Chain) : Nat :=
  match x.tags.find? (!·.finished) with
  | some t => x.size - (x.tail + 1 - t.seq)
  | none => x.size

/-- Whether an access that has issued still waits at its home, where nothing new can begin for it (R346, R405). -/
def State.waitsHome (s : State) (c task : Nat) (load : Bool) (a : Acc) : Bool :=
  match s.atHome c task a (if load then .load else .store) with
  | .error (.hold t) => t.freeCtr == s.freeCtr
  | .error (.held t _) => t.freeCtr == s.freeCtr
  | _ => false

/-- Whether a firing waits for what its instruction needs: it is no candidate (R90, R98). Its accesses at their homes (R346), its answers (R465), results in flight (R86,
R253), room at the interface (R132) or in the chain (R218), the monitors' registration (R147), and the adds that a release follows. -/
def State.stalled (s : State) (c k : Nat) (f : Firing) (op : Nat) (w : Tolog) : Bool :=
  (f.issued.any fun a => s.waitsHome c (((s.resident c f.rti).map (·.task)).getD 0) (isLoad op w || op == 0x24) a.2) ||
  (f.asked.any fun t => (mget f.replies t).isNone) ||
  ((op == 0x26 || op == 0x27 || op == 0xD1 && f.gang != 1) && !f.flight.isEmpty) ||
  ((op == 0x34 || op == 0x35 || op == 0x36 || op == 0xD5 || (op == 0x49 && w.mod.getLsbD 7)) && (s.core c).nicFull) ||
  (op == 0x4D && ((s.core c).unregistered k).isSome) ||
  (match s.resident c f.rti with
    | none => false
    | some r => (0xC0 ≤ op && op ≤ 0xC5 && r.arr && r.achain.room == 0) || ((op == 0xC6 || op == 0xC7) && r.cchain.room == 0) ||
      (releasesSys op w && s.addsPending r.task))

/-- Whether the instruction of a candidate may issue now under R21 and R25, or trap (R90). -/
def State.ready (s : State) (c k : Nat) (f0 : Firing) (op : Nat) (w : Tolog) : Bool :=
  match formOf op w with
  | none => true
  | some m =>
    let f := f0.settle s.clk
    let src := m.links w Role.reads
    let dst := m.links w Role.writes
    s.badLink c f (src ++ dst) || !(f.boarded (w.guards ++ m.regs w fun _ => true)) && !(usesMul op && s.clk < (s.core c).mulFree) &&
    (!w.pass f || (s.linksReady c src dst && !s.loadsFirst c k op w && !s.stalled c k f op w))

/-- The load that waits at its home under a number (R405). -/
def State.load (s : State) (c n : Nat) : Option Ctx := if n = 0 then none else (s.core c).loads.find? (·.load == n)

/-- The firing of an instruction's accesses: that of its slot, or that of a load that waits at its home. -/
def Ctx.holder (x : Ctx) (s : State) : Option Firing := if x.load = 0 then s.firing x.c x.k else (s.load x.c x.load).map (·.f)

/-- Change it. -/
def State.setHolder (s : State) (x : Ctx) (f : Firing) : State :=
  if x.load = 0 then s.setFiring x.c x.k f
  else
    let k := s.core x.c
    s.setCore x.c { k with loads := k.loads.map fun y => if y.load == x.load then { y with f } else y }

/-- The number under which access `tag` of an instruction is replayed. -/
def Ctx.reqTag (x : Ctx) (tag : Nat) : Nat := x.load * 1024 + tag

/-- What an answer makes of the instruction, where it is no result: a negative answer, or a trap with value `tv` of member `m`. -/
def Reply.bar (r : Reply) (s : State) (tv : Word) (m : Nat) : Option Body :=
  if r.lost then some (.lost s)
  else match r.nack with
    | some die => some (.nack die s)
    | none => if r.cause = 0 then none else some (.trap r.cause tv m)

/-- What an access replayed to another package returned: a trap with value `tv` of member `m`, or bytes; the instruction waits until then (R465). -/
def Ctx.answer (x : Ctx) (s : State) (tag : Nat) (tv : Word) (m : Nat) (done : State → List Byte → Body) : Body :=
  match mget x.f.replies (x.reqTag tag) with
  | some r => (r.bar s tv m).getD (done s r.bytes)
  | none => .wait s

/-- Whether an access has been replayed. -/
def Ctx.sent (x : Ctx) (tag : Nat) : Bool := x.f.asked.contains (x.reqTag tag)

/-- Send an access to another package's stream, for an answer under number `tag`. -/
def State.sendThere (s : State) (x : Ctx) (tag pkg sid op key addr : Nat) (val : Word) (data : List Byte) : State :=
  match x.holder s with
  | none => s
  | some f =>
    let n := x.reqTag tag
    let p : Packet := { cls := 6, op := op % 16, dpkg := pkg, spkg := s.pkgId, part := fld s.pkg.fabcfg 47 32, key, sid,
                        addr, val := val.toNat, data, srcTask := (x.res s).task, srcCore := x.c, srcSlot := x.k, block := n }
    (s.setHolder x { f with asked := n :: f.asked }).fabSend p

/-- Replay an access that was answered `MOVED` to another package's stream (R465). -/
def State.sendRemote (s : State) (x : Ctx) (tag pkg sid op key addr : Nat) (val : Word) (data : List Byte) : State :=
  (s.sendThere x tag pkg sid op key addr val data).fabCount 31 16

/-- Answer a bar met by the checks of handle `hi` at offset `off`, for access `tag` of the instruction: the trap's value is in the handle
form (R100). -/
def barBody (s : State) (hi off m : Nat) (b : Bar) (tag : Nat := 0) : Body :=
  match b with
  | .trap cause => .trap cause (handleVal hi off) m
  | .hold s => .wait s
  | .held s a => .held s [(tag, a)]
  | .moved _ _ => .wait s
  | .nack die => .nack die s

/-- A taken transfer to a target formed as a 64-bit value; a bad one is `IL.ALIGN` of the instruction itself (R113). -/
def transfer (e : Eff) (target : Word) : Body :=
  if badTarget target.toNat then .trap 0x01 target 0 else .ok { e with jump := some target.toNat }

/-- End a wait of a firing with results: it is a candidate again from the next clock (R98). -/
def State.endWait (s : State) (c k : Nat) (ws : List RegWrite) : State :=
  match s.firing c k with
  | none => s
  | some f =>
    let f := (f.settle s.clk).answer ws s.clk 0
    s.setFiring c k { f with wait := .none, ready := none, nextIssue := max f.nextIssue (s.clk + 1) }

end Sys2Proof.Machine
end

