-- ==== Sys2Proof/Machine/Fetch.lean ====
section
/-! DEFINITION. Fetching an instruction from its store (R9, R10, R30), the choice of the slot that issues (R89, R90) and the
advance of the clock. -/

namespace Sys2Proof.Machine

/-- The base word at an address of the instruction store, and the immediate that its `LEN` gives it (R8, R12). -/
def State.fetchWord (s : State) (c pc : Nat) : BitVec 64 × BitVec 64 :=
  let x := wordOf (memRead s.mem (Loc.istore c pc) 8)
  let n := match (x.extractLsb' 0 2).toNat with
    | 1 => 4
    | 2 => 8
    | _ => 0
  (x, wordOf (memRead s.mem (Loc.istore c (pc + 8)) n))

/-- Whether a fetch at `pc` breaks R10; the length code 11 names no length. -/
def fetchBad (pc : Nat) (x : BitVec 64) : Bool :=
  pc % 4 != 0 || 262144 ≤ pc || (x.extractLsb' 0 2 != 3 && 32 < pc % 32 + lenBytes (x.extractLsb' 0 2))

/-- What a fetch at `pc` answers: an instruction, or a cause with its `TRAPVAL` (R29, R30). A word in error is consumed
(R208), after `IL.ALIGN` and before every cause that its bits would raise (notes/assumptions/147.md); no handle form gives its `TRAPVAL`, which is a free
value. -/
def State.fetch (s : State) (c pc : Nat) : Except (Nat × Word) Instr × State :=
  let (x, imm) := s.fetchWord c pc
  if fetchBad pc x then (.error (0x01, wd pc), s)
  else if s.isBad (Loc.istore c pc) (lenBytes (x.extractLsb' 0 2)) then
    let (v, s) := s.free
    (.error (0x16, wd v), s)
  else match decodeTolog x imm with
    | .ok i => (.ok i, s)
    | .error e => (.error (e.code, x), s)

/-! ### The choice of R90 -/

/-- Whether the task of a firing issues: its task is not being saved, and its core is in service (R308, R439, R441). -/
def Core.issues (x : Core) : Bool := !x.disabled && !x.fenced

/-- Whether a firing stands between two instructions: none of its accesses is under way. -/
def Firing.atBoundary (f : Firing) : Bool := f.wait == .none && f.asked.isEmpty && f.issued.isEmpty

/-- Whether an `MXSUS` is delivered now: at an instruction boundary, once the results in flight have come (R27, R101). -/
def Firing.mxsusDue (f : Firing) : Bool := !f.mxsus.isEmpty && f.atBoundary && !f.flight.any (·.await)

/-- Whether the firing in a slot is a candidate in clock `clk`; one that has an `MXSUS` to take issues nothing first. -/
def Firing.candidate (f : Firing) (clk : Nat) : Bool :=
  f.wait == .none && (f.mxsus.isEmpty || !f.atBoundary) && !f.stopped && f.nextIssue ≤ clk && f.tried != some clk

/-- Whether the next instruction of a firing may issue, or trap, in this clock. -/
def State.mayIssue (s : State) (c k : Nat) (f : Firing) : Bool :=
  match s.fetch c f.pc with
  | (.ok i, _) => match i.tolog with
    | some (op, w) => s.ready c k f op w
    | none => true
  | (.error _, _) => true

/-- The slots of a core that are candidates (R90); one that follows a gang's leader only ends the instructions under way (R251). -/
def State.candidates (s : State) (c : Nat) : List (Nat × Firing) :=
  (List.range 8).filterMap fun k =>
    match s.firing c k with
    | some f => if f.candidate s.clk && ((s.core c).follows.isNone || f.midway) && s.mayIssue c k f then some (k, { f with ready := some (f.ready.getD s.clk) }) else none
    | none => none

/-- Whether candidate `a` goes before candidate `b` (R90). -/
def slotBefore (a b : Nat × Firing) : Bool :=
  a.2.cls < b.2.cls || (a.2.cls == b.2.cls && (a.2.ready.getD 0 < b.2.ready.getD 0 || (a.2.ready == b.2.ready && a.1 < b.1)))

/-- The best candidate of R90. -/
def bestSlot (xs : List (Nat × Firing)) : Option (Nat × Firing) :=
  xs.foldl (fun m x => match m with
    | none => some x
    | some y => if slotBefore x y then some x else some y) none

/-- Whether the next instruction of a slot writes a `VDOM` register: such a write is judged last in its clock, after what the clock still brings
to the domain's monitor (R447). -/
def State.postponed (s : State) (c k : Nat) : Bool :=
  match s.firing c k with
  | none => false
  | some f => match s.fetch c f.pc with
    | (.ok (.vdomWrite _), _) => true
    | _ => false

/-- Whether a slot issues in this part of the clock: first every instruction but the writes of `VDOM`, and at its end those. -/
def State.inTurn (s : State) (c k : Nat) : Bool := s.phase == (if s.postponed c k then 2 else 0)

/-- The slot that a core issues from in this clock, one of two while its die throttles (R448); the winner's `YLD` is spent once another is offered the clock (R90). -/
def State.pick (s : State) (c : Nat) : Option (Nat × State) :=
  let x := s.core c
  if !x.issues || x.issued == some s.clk || (bit (s.die (dieOf c)).therm 16 && x.issued == some (s.clk - 1)) then none
  else
    let cs := s.candidates c
    match bestSlot cs with
    | none => none
    | some (k, f) =>
      let j := if f.yld then ((bestSlot (cs.filter fun y => y.1 != k)).map (·.1)).getD k else k
      if !s.inTurn c j then none
      else if !f.yld then some (j, s)
      else match s.firing c k with
        | some g => some (j, s.setFiring c k { g with yld := false })
        | none => some (j, s)

/-! ### Readiness (R79) -/

/-- Entries that an input channel can still take. -/
def InChan.room (i : InChan) : Nat := i.depth - (i.fifo.length + i.back.length + i.lent.length + i.reserved)

/-- Committed entries that lie in no window (R312). -/
def InChan.waiting (i : InChan) : Nat := i.back.length + i.fifo.length

/-- The input channel that an output channel is bound to. -/
def State.target (s : State) (o : OutChan) : Option InChan :=
  match s.actor o.tcore o.tactor with
  | none => none
  | some a => (s.inputsOf a true).find? (·.ch == o.tch)

/-- Whether the task's firings may start: it runs, its entry edge complete, and it is neither ended nor faulted (R79, R103). -/
def Task.starts (t : Task) : Bool := t.state == .running && !t.tdone && !t.killed && !t.faulted

/-- Whether an actor is ready but for its task's state (R76, R79, R84, R312). -/
def State.actorCould (s : State) (a : Actor) : Bool :=
  !a.busy && !a.held && !a.faulted &&
  (if a.ins.isEmpty then !a.started else (s.sourceOf a).all fun i => i.rate ≤ i.waiting) &&
  a.outs.all fun o => match s.target o with
    | some i => o.rate ≤ i.room
    | none => false

/-- Whether an actor is ready (R79). -/
def State.actorReady (s : State) (a : Actor) : Bool :=
  (match s.task a.task with
    | some t => t.starts
    | none => false) && s.actorCould a

/-- Note the clock in which the slots of a core became candidates (R90). -/
def State.noteReady (s : State) (c : Nat) (x : Core) : Core :=
  { x with slots := Vector.ofFn fun k => x.slots[k].map fun f =>
      if f.ready.isNone && f.candidate s.clk && s.mayIssue c k f then { f with ready := some s.clk } else f }

/-- Renew the clocks in which the actors of a core became ready (R89). -/
def State.renew (s : State) (c : Nat) (x : Core) : Core :=
  { s.noteReady c x with
    actors := x.actors.map fun a =>
      (a.1, { a.2 with readyAt := if s.actorReady a.2 then some (a.2.readyAt.getD s.clk) else none }) }

/-- Change every core, by its number. -/
def State.mapCores (s : State) (f : CoreId → Core → Core) : State :=
  { s with cores := s.cores.map fun (c : CoreId × Core) => (c.1, f c.1 c.2) }

/-- The next clock: the reliability events of this one are added, and every core judges its firing conditions on the state at the new clock's start
(R79, R436). -/
def State.tick (s : State) : State :=
  let s := s.relSettle
  let s := s.mapCores s.noteReady
  let s := { s with clk := s.clk + 1, phase := 0 }
  s.mapCores s.renew

/-- The end of a clock: the writes that are judged last, else the next clock. -/
def State.endClock (s : State) : State :=
  let t := { s with phase := 2 }
  if s.phase < 2 && s.cores.any fun c => (t.pick c.1).isSome then t else s.tick

/-- A Tolog word at address 0 of the instruction store of core 0, and a firing of a resident task at it, in slot 0. -/
def State.placeFiring (s : State) (w : Nat) : State :=
  let s := { s with mem := memWrite s.mem (Loc.istore 0 0) (leBytes 16 w), inputs := [], turn := .firings, phase := 0, cur := {} }
  let t : Task := { state := .running, places := [{ band := 0, member := 0, core := 0, rti := 0 }] }
  let s := (s.setTask 1 t).setResident 0 0 { task := 1 }
  s.setFiring 0 0 { priv := true }

end Sys2Proof.Machine
end

