-- ==== Sys2Proof/Machine/Net.lean ====
section
/-! DEFINITION. The network interface: targets of sends (R129, R269, R454), owning cores (R316), and packets to other
packages (R450 to R455). -/

namespace Sys2Proof.Machine

/-! ### Partitions and owners -/

/-- Whether a core lies in its die's partition (R296). -/
def State.inPartition (s : State) (c : Nat) : Bool := !(s.core c).disabled && !s.inColumn c

/-- The first core of a slice's quad in the partition, from `q` on (R316). -/
def State.quadOwner (s : State) (die sl q n : Nat) : Option Nat :=
  match n with
  | 0 => none
  | k + 1 =>
    let c := coreAt die (sl / 8 * 2 + q / 2 % 2) (sl % 8 * 2 + q % 2)
    if s.inPartition c then some c else s.quadOwner die sl ((q + 1) % 4) k

/-- The owner search over the slices from `sl` on (R316). -/
def State.ownerFrom (s : State) (die sl q n : Nat) : Option Nat :=
  match n with
  | 0 => none
  | k + 1 =>
    match s.quadOwner die sl q 4 with
    | some c => some c
    | none => s.ownerFrom die ((sl + 1) % 48) q k

/-- Owning core of a `DEV` address, and of a `CHIP` address, on a die (R316). -/
def State.ownerDev (s : State) (die addr : Nat) : Option Nat := s.ownerFrom die (homeSlice addr).2 (addr / 256 % 4) 48
def State.ownerChip (s : State) (die a : Nat) : Option Nat := s.ownerFrom die (a / 4096 % 48) (a / 256 % 4) 48

/-! ### Targets -/

/-- The actor table entry of actor `idx` of a task on a core. -/
def State.actorOf (s : State) (c task idx : Nat) : Option (Nat × Actor) :=
  (s.core c).actors.find? fun a => a.2.task == task && a.2.idx == idx

/-- The entry that a task's message to (core, actor, channel) goes to (R129); none once the task's running phase has ended (R302). -/
def State.actorTarget (s : State) (task c idx ch : Nat) : Option (Nat × Nat) :=
  match s.task task with
  | none => none
  | some t =>
    if t.state == .draining || !t.places.any (fun p => p.core == c) then none
    else match s.actorOf c task idx with
      | none => none
      | some (e, a) => if a.ins.any (fun i => i.ch == ch) then some (c, e) else none

/-- The message that an on-die target word names (R129). -/
def State.dieTarget (s : State) (die task : Nat) (w : Word) (data : Entry) : Option OutMsg :=
  if fld w 63 20 != 0 || fld w 5 2 != 0 || 12 ≤ fld w 19 16 then none
  else
    let c := coreAt die (fld w 19 16) (fld w 15 12)
    let ch := fld w 1 0
    (s.actorTarget task c (fld w 11 6) ch).map fun t => .actor task t.1 t.2 ch data

/-- The bytes of an entry from `n` on are dropped. -/
def entryHead (n : Nat) (e : Entry) : List Byte := (entryBytes e).take n

/-- The packet that a fabric target word names, for a firing of `task` in slot `k` of core `c` (R454). -/
def State.fabTarget (s : State) (c k task : Nat) (r : Resident) (w : Word) (data : Entry) : Option OutMsg :=
  let pkg := fld w 60 48
  let base : Packet := { dpkg := pkg, spkg := s.pkgId, part := fld s.pkg.fabcfg 47 32, srcTask := task, srcCore := c, srcSlot := k }
  if !torusOk s.pkg.fabid pkg then none
  else if fld w 62 61 = 0 then
    if 12 ≤ fld w 44 41 then none
    else some (.packet { base with cls := 1, die := fld w 47 45, y := fld w 44 41, x := fld w 40 37, actor := fld w 36 31,
                                   chan := fld w 30 29, task := fld w 47 45 * 2 ^ 29 + fld w 28 0, data := entryBytes data })
  else if fld w 62 61 = 1 then
    let key := fld w 39 30
    if fld w 47 40 != 0 || fld w 29 20 != 0 || !r.valids.any (·.key == key) then none
    else some (.packet { base with cls := 4, key, pidx := fld w 19 0, data := entryHead 64 data })
  else none

/-- The message of a target word in either form (R129, R454). -/
def State.sendTarget (s : State) (c k task : Nat) (r : Resident) (w : Word) (data : Entry) : Option OutMsg :=
  if bit w 63 then s.fabTarget c k task r w data else s.dieTarget (dieOf c) task w data

/-- The word that `RSEND` sends (R271, R459). -/
def State.redTarget (s : State) (c k task : Nat) (w : Word) (data : Entry) : Option OutMsg :=
  if bit w 63 then
    if fld w 62 61 != 0 || fld w 36 0 != 0 || 12 ≤ fld w 44 41 || !torusOk s.pkg.fabid (fld w 60 48) then none
    else some (.packet { cls := 2, dpkg := fld w 60 48, spkg := s.pkgId, part := fld s.pkg.fabcfg 47 32, die := fld w 47 45,
                         y := fld w 44 41, x := fld w 40 37, data := entryBytes data, srcTask := task, srcCore := c, srcSlot := k })
  else if fld w 62 24 != 0 || fld w 11 0 != 0 || 12 ≤ fld w 19 16 then none
  else some (.partialSum (coreAt (if bit w 23 then fld w 22 20 else dieOf c) (fld w 19 16) (fld w 15 12)) data false)

/-- The core that an on-die message goes to. -/
def OutMsg.core (m : OutMsg) : Option CoreId :=
  match m with
  | .actor _ c _ _ _ => some c
  | .partialSum c _ _ => some c
  | .packet _ => none

/-- Put a message at a core's network interface. -/
def State.nicPut (s : State) (c : Nat) (m : OutMsg) : State :=
  let k := s.core c
  s.setCore c { k with nic := k.nic ++ [m] }

/-- Where a message goes, for the order of R82. -/
def OutMsg.lane (m : OutMsg) : List Nat :=
  match m with
  | .actor _ c e ch _ => [0, c, e, ch]
  | .partialSum c _ _ => [1, c]
  | .packet p => 2 :: p.flow

/-- The messages of a list that no earlier message to the same place stands before. -/
def heads (seen : List (List Nat)) (i : Nat) (ms : List OutMsg) : List (Nat × OutMsg) :=
  match ms with
  | [] => []
  | m :: t => if seen.contains m.lane then heads seen (i + 1) t else (i, m) :: heads (m.lane :: seen) (i + 1) t

end Sys2Proof.Machine
end

