-- ==== Sys2Proof/Machine/Channel.lean ====
section
/-! DEFINITION. Channel access and messages: opcodes 0x31 to 0x36 (R125 to R132), and the arrival of a message (R81 to R83). -/

namespace Sys2Proof.Machine

/-- The channel number of `MOD[1:0]`, and `MOD[7]`. -/
def Ctx.ch (x : Ctx) : Nat := (x.w.mod.extractLsb' 0 2).toNat
def Ctx.vf (x : Ctx) : Bool := x.w.mod.getLsbD 7

/-- `CHAN` (R100). -/
def chanTrap (ch : Nat) (out : Bool) (idx : Nat) : Body :=
  .trap 0x18 (wd (ch + (if out then 16 else 0) + idx % 2 ^ 16 * 256)) 0

/-- The channels of a firing's actor. -/
def Ctx.inChan (x : Ctx) (s : State) : Option InChan := (s.actor x.c x.f.actor).bind fun a => (s.sourceOf a).find? (·.ch == x.ch)
def Ctx.outChan (x : Ctx) (s : State) : Option OutChan := (s.actor x.c x.f.actor).bind fun a => a.outs.find? (·.ch == x.ch)

/-- Whether the firing's entry of the actor table is in uncorrectable error (R181): an instruction that reads its declarations consumes it (R208). -/
def Ctx.actorBad (x : Ctx) (s : State) : Bool := (s.actor x.c x.f.actor).any (·.bad)

/-- Take `POISON` for a word of the core's tables: no form gives its `TRAPVAL`. -/
def Ctx.poisoned (x : Ctx) (s : State) : Body := .gone (s.raiseOpen x.c x.k 0x16)

/-- Whether `n` words from word `w` on of entry `a` of the firing's window are in error (R208); `i` is the channel that it takes from. -/
def Ctx.entryBad (x : Ctx) (i : InChan) (a w n : Nat) : Bool :=
  let mine := i.lent.filter fun e => e.2.1 == x.c * 8 + x.k
  let o := ((mine[a]?).map (·.1)).getD (i.ord + a)
  i.err.any fun e => e / 16 == o && w ≤ e % 16 && e % 16 < w + n

/-- `CHAVL` (R126). -/
def chavlBody (x : Ctx) (s : State) : Body :=
  if x.actorBad s then x.poisoned s
  else if x.w.mod.getLsbD 2 then
    match x.outChan s with
    | none => chanTrap x.ch true 0
    | some o => .ok { s, writes := [.g x.w.d (wd (o.rate - (mgetD x.f.closed x.ch []).length))] }
  else
    match x.inChan s with
    | none => chanTrap x.ch false 0
    | some i => .ok { s, writes := [.g x.w.d (wd (i.fifo.length + i.back.length + i.lent.length))] }

/-- A whole vector register: lanes 32 and above of a gang become zero (R252). -/
def vAll (r : BitVec 6) (e : Entry) : RegWrite := .v r.toNat (e.zeroExtend 8192) (BitVec.allOnes 8192)

/-- `CHRD` (R127). -/
def chrdBody (x : Ctx) (s : State) : Body :=
  if x.actorBad s then x.poisoned s
  else match x.inChan s with
  | none => chanTrap x.ch false 0
  | some i =>
    let win := mgetD x.f.window x.ch []
    let a := (x.g x.w.a).toNat
    if x.vf then
      if i.rate ≤ a then chanTrap x.ch false a
      else if x.entryBad i a 0 16 then x.poisoned s
      else .ok { s, writes := [vAll x.w.d (win.getD a 0)] }
    else if a % 8 != 0 || i.rate * 128 ≤ a then chanTrap x.ch false (a / 128)
    else if x.entryBad i (a / 128) (a % 128 / 8) 1 then x.poisoned s
    else .ok { s, writes := [.g x.w.d ((win.getD (a / 128) 0).extractLsb' (a % 128 * 8) 64)] }

/-- An entry with eight bytes written at an offset. -/
def entrySet (e : Entry) (off : Nat) (x : Word) : Entry :=
  (e &&& ~~~((BitVec.allOnes 64).zeroExtend 1024 <<< (8 * off))) ||| (x.zeroExtend 1024 <<< (8 * off))

/-- Close the entry of an output channel (R128). -/
def closeEntry (f : Firing) (ch : Nat) (e : Entry) : Firing :=
  { f with closed := mset f.closed ch (mgetD f.closed ch [] ++ [e]), filling := mdel f.filling ch }

/-- `CHWR` (R128). -/
def chwrBody (x : Ctx) (s : State) : Body :=
  if x.actorBad s then x.poisoned s
  else match x.outChan s, s.firing x.c x.k with
  | some o, some f =>
    let a := (x.g x.w.a).toNat
    let n := (mgetD f.closed x.ch []).length
    if o.rate ≤ n then chanTrap x.ch true n
    else if x.vf then .ok { s := s.setFiring x.c x.k (closeEntry f x.ch ((x.v x.w.b).truncate 1024)) }
    else if a % 8 != 0 || 128 ≤ a then chanTrap x.ch true n
    else
      let e := entrySet (mgetD f.filling x.ch 0) a (x.g x.w.b)
      if x.w.mod.getLsbD 3 then .ok { s := s.setFiring x.c x.k (closeEntry f x.ch e) }
      else .ok { s := s.setFiring x.c x.k { f with filling := mset f.filling x.ch e } }
  | _, _ => chanTrap x.ch true 0

/-! ### Sends -/

/-- Whether a message is a release at system scope: to a channel, or a wake line, of another package (R460). -/
def OutMsg.fabric (m : OutMsg) : Bool := match m with
  | .packet p => p.cls == 1 || p.cls == 4
  | _ => false

/-- Whether the column's boundary routers drop a message from a core outside it (R431): a firing that sends one sees `PERM`. -/
def State.walled (s : State) (c : Nat) (m : OutMsg) : Bool :=
  !s.inColumn c && match m with
  | .actor _ t _ _ _ => s.inColumn t && !bit (s.die 0).fwin 1
  | .partialSum t _ _ => s.inColumn t
  | .packet _ => false

/-- Accept a send at the interface, or wait for room (R132). -/
def sendBody (x : Ctx) (s : State) (m : Option OutMsg) (val : Word) : Body :=
  match m with
  | none => .trap 0x1A val 0
  | some m => if s.walled x.c m then .gone (s.raiseOpen x.c x.k 0x12) else if (s.core x.c).nicFull || (m.fabric && s.addsPending (x.res s).task) then .wait s else .ok { s := s.nicPut x.c m }

/-- The payload of `SEND` (R130). -/
def sendData (b c : Word) (i : Nat) : Entry := BitVec.ofNat 1024 (b.toNat + c.toNat * 2 ^ 64 + i * 2 ^ 128)

def Ctx.task (x : Ctx) (s : State) : Nat := (x.res s).task

/-- The target of a send by the firing (R129, R454). -/
def Ctx.target (x : Ctx) (s : State) (w : Word) (data : Entry) : Option OutMsg :=
  s.sendTarget x.c x.k (x.task s) (x.res s) w data

/-- `SENDV` (R130). -/
def sendvBody (x : Ctx) (s : State) : Body :=
  let w := if x.w.mod.getLsbD 0 then x.w.imm &&& 0xFFFFFFFF else x.g x.w.a
  sendBody x s (x.target s w ((x.v x.w.b).truncate 1024)) w

/-- `SENDH` (R131). -/
def sendhBody (x : Ctx) (s : State) : Body :=
  let r := x.res s
  let hi := hidx x.w.imm
  let off := x.off
  match r.handle hi with
  | none => .trap 0x11 (handleVal hi off) 0
  | some h =>
    if h.space != spChip && h.space != spDev then .trap 0x12 (handleVal hi off) 0
    else if h.len ≤ off then .trap 0x10 (handleVal hi off) 0
    else
      let b := x.g x.w.b
      let a := h.base + off
      let die := dieOf x.c
      let own := if h.space == spChip then s.ownerChip die a else s.ownerDev die a
      let m := if fld b 63 12 != 0 || fld b 5 2 != 0 then none
        else own.bind fun c => (s.actorTarget r.task c (fld b 11 6) (fld b 1 0)).map fun t =>
          OutMsg.actor r.task t.1 t.2 (fld b 1 0) (sendData (wd a) (x.g x.w.c) 0)
      sendBody x s m b

def execChavl (w : Tolog) (s : State) := issue 0x31 w s chavlBody
def execChrd (w : Tolog) (s : State) := issue 0x32 w s chrdBody
def execChwr (w : Tolog) (s : State) := issue 0x33 w s chwrBody
def execSend (w : Tolog) (s : State) := issue 0x34 w s fun x s =>
  sendBody x s (x.target s (x.g w.a) (sendData (x.g w.b) (x.g w.c) (fld w.imm 31 0))) (x.g w.a)
def execSendh (w : Tolog) (s : State) := issue 0x35 w s sendhBody
def execSendv (w : Tolog) (s : State) := issue 0x36 w s sendvBody

/-! ### Arrival -/

/-- Whether the place a message goes to can take it now (R81, R272). -/
def State.accepts (s : State) (m : OutMsg) : Bool :=
  match m with
  | .actor _ c e ch _ =>
    match s.actor c e with
    | some a => match (s.inputsOf a).find? (·.ch == ch) with
      | some i => 1 ≤ i.room
      | none => true
    | none => true
  | .partialSum c _ _ => (s.core c).server.waiting.length < 4
  | .packet _ => true

/-- Deliver a message: into its channel, to the server's interface, or to the fabric. A message to a task that has left
the core goes nowhere. -/
def State.deliverMsg (s : State) (m : OutMsg) : State :=
  match m with
  | .actor task c e ch data =>
    match s.actor c e with
    | some a => if a.task == task then s.commit c e ch [data] else s
    | none => s
  | .partialSum c data psn =>
    let k := s.core c
    s.setCore c { k with server := { k.server with waiting := k.server.waiting ++ [(data, psn)] } }
  | .packet p => s.fabSend p

/-- Whether a message's core is fenced: it is answered negatively (R443). -/
def State.toFenced (s : State) (m : OutMsg) : Bool := match m.core with
  | some c => (s.core c).fenced
  | none => false

/-- The messages of a core's interface that may leave it in this clock (R82). -/
def State.sendable (s : State) (c : Nat) : List (Nat × OutMsg) :=
  (heads [] 0 (s.core c).nic).filter fun m => s.accepts m.2 || s.walled c m.2 || s.toFenced m.2

/-- `MESSAGE_ARRIVAL`: message `n` of the core's interface enters whole, once there is room for it (R81). -/
def execMessageArrival (s : State) : Host.Outcome State Fault Refusal :=
  let c := s.cur.core
  .next (match (s.sendable c).find? fun m => m.1 == s.cur.n with
    | none => s
    | some (i, m) =>
      let k := s.core c
      let s := s.setCore c { k with nic := k.nic.eraseIdx i }
      if s.walled c m then s else if s.toFenced m then s.countNack (dieOf (m.core.getD 0)) else s.deliverMsg m)

end Sys2Proof.Machine
end

