-- ==== Sys2Proof/Machine/Flags.lean ====
section
/-! DEFINITION. Conditions and flags: the condition codes of R22, the flags of `FSTAT` (R67), and clamping (R54). -/

namespace Sys2Proof.Machine

/-! The flags of `FSTAT` (R67). -/
namespace Fl
def nx : BitVec 7 := 0x01
def uf : BitVec 7 := 0x02
def of : BitVec 7 := 0x04
def dz : BitVec 7 := 0x08
def nv : BitVec 7 := 0x10
def trsv : BitVec 7 := 0x20
def sus : BitVec 7 := 0x40
end Fl

/-- A value of `n` bits read unsigned (`u`) or as two's complement (R54). -/
def readInt (u : Bool) (n x : Nat) : Int :=
  if u then x else if 2 ^ (n - 1) ≤ x then (x : Int) - 2 ^ n else x

/-- The least and the greatest value of an integer type (R54). -/
def intMin (u : Bool) (n : Nat) : Int := if u then 0 else -(2 ^ (n - 1))
def intMax (u : Bool) (n : Nat) : Int := if u then 2 ^ n - 1 else 2 ^ (n - 1) - 1

/-- Clamp to a type's range (R54). -/
def clampInt (u : Bool) (n : Nat) (x : Int) : Int := max (intMin u n) (min (intMax u n) x)

/-- The `n` low bits of an integer. -/
def wrapInt (n : Nat) (x : Int) : Nat := (x % 2 ^ n).toNat

/-- Whether condition `cc` of R22 holds between two values of `n` bits. -/
def ccHolds (cc : Nat) (u : Bool) (n a b : Nat) : Bool :=
  let x := readInt u n a
  let y := readInt u n b
  match cc with
  | 0 => x == y
  | 1 => x != y
  | 2 => x < y
  | 3 => x ≤ y
  | 4 => x > y
  | 5 => x ≥ y
  | _ => a &&& b != 0

/-- Leading zero bits of a value of `n` bits. -/
def clz (n x : Nat) : Nat :=
  match n with
  | 0 => 0
  | k + 1 => if x.testBit k then 0 else 1 + clz k x

/-- Set bits of the low `n` bits. -/
def popc (n x : Nat) : Nat :=
  match n with
  | 0 => 0
  | k + 1 => (if x.testBit k then 1 else 0) + popc k x

end Sys2Proof.Machine
end

