-- ==== Sys2Proof/Machine/Num.lean ====
section
/-! DEFINITION. Number formats, exact values and rounding (R47 to R66). -/

namespace Sys2Proof.Machine

/-- A floating format (R47). -/
structure Fmt where
  width : Nat
  mant  : Nat
  bias  : Nat
  /-- Magnitude code of the maximum finite value. -/
  maxCode : Nat
  hasInf : Bool
  /-- The canonical NaN, where the format has one (R50). -/
  nan   : Option Nat
deriving DecidableEq, Repr

/-- The format of a code of R22: 0 FP32, 1 BF16, 2 FP16, 3 E4M3, 4 E5M2, 5 E3M2, 6 E2M3, 7 E2M1. -/
def fmtOf (c : Nat) : Fmt :=
  match c with
  | 0 => { width := 32, mant := 23, bias := 127, maxCode := 0x7F7FFFFF, hasInf := true, nan := some 0x7FC00000 }
  | 1 => { width := 16, mant := 7, bias := 127, maxCode := 0x7F7F, hasInf := true, nan := some 0x7FC0 }
  | 2 => { width := 16, mant := 10, bias := 15, maxCode := 0x7BFF, hasInf := true, nan := some 0x7E00 }
  | 3 => { width := 8, mant := 3, bias := 7, maxCode := 0x7E, hasInf := false, nan := some 0x7F }
  | 4 => { width := 8, mant := 2, bias := 15, maxCode := 0x7B, hasInf := true, nan := some 0x7E }
  | 5 => { width := 6, mant := 2, bias := 3, maxCode := 0x1F, hasInf := false, nan := none }
  | 6 => { width := 6, mant := 3, bias := 1, maxCode := 0x1F, hasInf := false, nan := none }
  | _ => { width := 4, mant := 1, bias := 1, maxCode := 0x7, hasInf := false, nan := none }

/-- Whether flushing applies to the format (R57). -/
def flushes (c : Nat) : Bool := c ≤ 2

/-- An exact value: a signed rational p / q, an infinity, or NaN (R66). -/
inductive Ex where
  | nan
  | inf (neg : Bool)
  | fin (neg : Bool) (p q : Nat)
deriving DecidableEq, Repr

def Ex.isNan : Ex → Bool
  | .nan => true
  | _ => false
def Ex.isInf : Ex → Bool
  | .inf _ => true
  | _ => false
def Ex.isZero : Ex → Bool
  | .fin _ p _ => p == 0
  | _ => false
def Ex.neg : Ex → Bool
  | .nan => false
  | .inf n => n
  | .fin n _ _ => n

/-- p × 2^e as a rational. -/
def dyad (neg : Bool) (p : Nat) (e : Int) : Ex :=
  if 0 ≤ e then .fin neg (p * 2 ^ e.toNat) 1 else .fin neg p (2 ^ (-e).toNat)

/-- An exact integer. -/
def exInt (i : Int) : Ex := .fin (i < 0) i.natAbs 1

/-- `decode` (R66) of a code of format `c`, with subnormals flushed where `ftz` (R57). -/
def decodeF (c : Nat) (ftz : Bool) (x : Nat) : Ex :=
  let f := fmtOf c
  let neg := x.testBit (f.width - 1)
  let mag := x % 2 ^ (f.width - 1)
  let e := mag / 2 ^ f.mant
  let m := mag % 2 ^ f.mant
  if f.maxCode < mag then (if f.hasInf && m == 0 then .inf neg else if f.nan.isNone then .fin neg 0 1 else .nan)
  else if e = 0 then (if ftz && flushes c then .fin neg 0 1 else dyad neg m (1 - (f.bias : Int) - f.mant))
  else dyad neg (2 ^ f.mant + m) ((e : Int) - f.bias - f.mant)

/-- The scale formats (R51, R52): 0 E8M0, 1 E5M2, 2 E4M3. -/
def decodeScale (sf x : Nat) : Ex :=
  match sf with
  | 0 => if x = 0xFF then .nan else dyad false 1 ((x : Int) - 127)
  | 1 => decodeF 4 false x
  | _ => decodeF 3 false x

/-- ⌊log2 (p / q)⌋ of a positive rational. -/
def log2Q (p q : Nat) : Int :=
  let e : Int := (Nat.log2 p : Int) - Nat.log2 q
  let below : Bool := if 0 ≤ e then p < q * 2 ^ e.toNat else p * 2 ^ (-e).toNat < q
  if below then e - 1 else e

/-- Whether a magnitude between two neighbours rounds away from zero: `odd` of the lower neighbour, and the remainder
`r` of the spacing `q` (R58, R60). -/
def roundsUp (mode : Nat) (neg odd : Bool) (r q draw : Nat) : Bool :=
  match mode with
  | 0 => q < 2 * r || (2 * r == q && odd)
  | 1 => false
  | 2 => neg && r != 0
  | 3 => !neg && r != 0
  | 4 => q ≤ 2 * r && r != 0
  | _ => 2 ^ 32 ≤ r * 2 ^ 32 / q + draw

/-- The magnitude code of a positive rational in a format with an unbounded exponent, and whether it is exact (R58). -/
def roundMag (f : Fmt) (mode : Nat) (neg : Bool) (p q draw : Nat) : Nat × Bool :=
  let emin : Int := 1 - (f.bias : Int)
  let e := max (log2Q p q) emin
  let k := e - f.mant
  let (a, b) : Nat × Nat := if 0 ≤ k then (p, q * 2 ^ k.toNat) else (p * 2 ^ (-k).toNat, q)
  let n := a / b
  let r := a % b
  let n' := if roundsUp mode neg (n % 2 == 1) r b draw then n + 1 else n
  ((e - emin).toNat * 2 ^ f.mant + n', r == 0)

/-- A code with its sign. -/
def signed (f : Fmt) (neg : Bool) (mag : Nat) : Nat := if neg then 2 ^ (f.width - 1) + mag else mag

/-- The code of an infinity where the format has one. -/
def infCode (f : Fmt) : Nat := f.maxCode + 1

/-- `special_fate` (R64). -/
def specialFate (c : Nat) (sat : Bool) (x : Ex) : Nat × BitVec 7 :=
  let f := fmtOf c
  match x with
  | .inf neg =>
    if f.hasInf then (signed f neg (if sat then f.maxCode else infCode f), 0)
    else match f.nan with
      | some n => (if sat then signed f neg f.maxCode else n, Fl.nv)
      | none => (signed f neg f.maxCode, Fl.nv)
  | _ => match f.nan with
    | some n => (n, 0)
    | none => (0, Fl.nv)

/-- `overflow_fate` (R63). -/
def overflowFate (c mode : Nat) (sat neg : Bool) : Nat :=
  let f := fmtOf c
  let toInf := (mode == 0 || mode == 4 || 5 ≤ mode || (mode == 3 && !neg) || (mode == 2 && neg)) && !sat
  if toInf && f.hasInf then signed f neg (infCode f)
  else match f.nan with
    | some n => if toInf && !f.hasInf then n else signed f neg f.maxCode
    | none => signed f neg f.maxCode

/-- `convert` (R66): the code and the flags; `mode` is 0 to 5, and `draw` the value that a stochastic mode draws. -/
def convertF (c mode : Nat) (sat ftz : Bool) (draw : Nat) (x : Ex) : Nat × BitVec 7 :=
  match x with
  | .fin neg p q =>
    let f := fmtOf c
    if p = 0 then (signed f neg 0, 0)
    else
      let (m, exact) := roundMag f mode neg p q draw
      if f.maxCode < m then (overflowFate c mode sat neg, Fl.of ||| Fl.nx)
      else
        let tiny := m != 0 && m < 2 ^ f.mant
        let fl := if exact then 0 else Fl.nx ||| (if tiny then Fl.uf else 0)
        if ftz && flushes c && tiny then (signed f neg 0, Fl.uf ||| Fl.nx) else (signed f neg m, fl)
  | x => specialFate c sat x

/-- `to_int` (R66) at width `n`. -/
def toIntF (n : Nat) (u : Bool) (mode draw : Nat) (x : Ex) : Nat × BitVec 7 :=
  match x with
  | .nan => (0, Fl.nv)
  | .inf neg => (wrapInt n (if neg then intMin u n else intMax u n), Fl.nv)
  | .fin neg p q =>
    let a := p / q
    let r := p % q
    let m := if roundsUp mode neg (a % 2 == 1) r q draw then a + 1 else a
    let y : Int := if neg then -(m : Int) else m
    if intMax u n < y then (wrapInt n (intMax u n), Fl.nv)
    else if y < intMin u n then (wrapInt n (intMin u n), Fl.nv)
    else (wrapInt n y, if r = 0 then 0 else Fl.nx)

/-! ### Exact arithmetic -/

/-- A product (R56, R65). -/
def Ex.mul (x y : Ex) : Ex × BitVec 7 :=
  match x, y with
  | .nan, _ => (.nan, 0)
  | _, .nan => (.nan, 0)
  | .fin a p q, .fin b r t => (.fin (a != b) (p * r) (q * t), 0)
  | .inf a, .inf b => (.inf (a != b), 0)
  | .inf a, .fin b p _ => if p = 0 then (.nan, Fl.nv) else (.inf (a != b), 0)
  | .fin b p _, .inf a => if p = 0 then (.nan, Fl.nv) else (.inf (a != b), 0)

/-- A quotient (R56, R65). -/
def Ex.div (x y : Ex) : Ex × BitVec 7 :=
  match x, y with
  | .nan, _ => (.nan, 0)
  | _, .nan => (.nan, 0)
  | .inf _, .inf _ => (.nan, Fl.nv)
  | .inf a, .fin b _ _ => (.inf (a != b), 0)
  | .fin a _ _, .inf b => (.fin (a != b) 0 1, 0)
  | .fin a p q, .fin b r t =>
    if r = 0 then (if p = 0 then (.nan, Fl.nv) else (.inf (a != b), Fl.dz))
    else (.fin (a != b) (p * t) (q * r), 0)

/-- Numerator and denominator of a finite value, with its sign. -/
def Ex.rat : Ex → Int × Nat
  | .fin n p q => (if n then -(p : Int) else p, q)
  | _ => (0, 1)

/-- A sum of two rationals, over the larger denominator where one divides the other. -/
def ratAdd (x y : Int × Nat) : Int × Nat :=
  if x.2 = y.2 then (x.1 + y.1, x.2)
  else if y.2 % x.2 = 0 then (x.1 * (y.2 / x.2 : Nat) + y.1, y.2)
  else if x.2 % y.2 = 0 then (x.1 + y.1 * (x.2 / y.2 : Nat), x.2)
  else (x.1 * y.2 + y.1 * x.2, x.2 * y.2)

/-- An exact sum of terms, rounded later by `mode`: NaN, infinities and the sign of zero as R56 and R72 give. -/
def exSum (mode : Nat) (xs : List Ex) : Ex × BitVec 7 :=
  let plus := xs.any fun x => x == .inf false
  let minus := xs.any fun x => x == .inf true
  if plus && minus then (.nan, Fl.nv)
  else if xs.any (·.isNan) then (.nan, 0)
  else if plus then (.inf false, 0)
  else if minus then (.inf true, 0)
  else
    let r := xs.foldl (fun a x => ratAdd a x.rat) (0, 1)
    if r.1 = 0 then
      let neg := !xs.isEmpty && xs.all (·.neg)
      let pos := xs.all fun x => !x.neg
      (.fin (if neg then true else if pos then false else mode == 2) 0 1, 0)
    else (.fin (r.1 < 0) r.1.natAbs r.2, 0)

/-- The exact value negated. -/
def Ex.flip : Ex → Ex
  | .nan => .nan
  | .inf n => .inf !n
  | .fin n p q => .fin (!n) p q

/-- Whether x < y, neither NaN; −0 is below +0 where `zeros` says so. -/
def Ex.lt (zeros : Bool) (x y : Ex) : Bool :=
  match x, y with
  | .inf a, .inf b => a && !b
  | .inf a, _ => a
  | _, .inf b => !b
  | x, y =>
    let a := x.rat
    let b := y.rat
    if a.1 * b.2 = b.1 * a.2 then zeros && x.isZero && x.neg && !y.neg else a.1 * b.2 < b.1 * a.2

/-- Whether the values are equal as numbers. -/
def Ex.same (x y : Ex) : Bool :=
  match x, y with
  | .nan, _ => false
  | _, .nan => false
  | .inf a, .inf b => a == b
  | .inf _, _ => false
  | _, .inf _ => false
  | x, y => x.rat.1 * y.rat.2 == y.rat.1 * x.rat.2

/-- x × 2^b, the exponent held within a range that every format's rounding already leaves (notes/assumptions/13.md). -/
def Ex.scale (x : Ex) (b : Int) : Ex :=
  match x with
  | .fin n p q =>
    let e := max (-4000) (min 4000 b)
    if p = 0 then .fin n 0 1 else if 0 ≤ e then .fin n (p * 2 ^ e.toNat) q else .fin n p (q * 2 ^ (-e).toNat)
  | x => x

/-! ### Random draws (R61, R62) -/

/-- One draw: xorshift32. -/
def xorshift (s : Nat) : Nat :=
  let a := s ^^^ (s * 2 ^ 13 % 2 ^ 32)
  let b := a ^^^ (a / 2 ^ 17)
  b ^^^ (b * 2 ^ 5 % 2 ^ 32)

/-- The state of lane `i` after a write of `seed` to `FSEED` (R61), and of element `i` of an operation (R62). -/
def laneSeed (seed i : Nat) : Nat :=
  let x := (seed % 2 ^ 32) ^^^ (i * 0x9E3779B9 % 2 ^ 32)
  if x = 0 then 1 else x

/-- The generators of `n` lanes as a write of `seed` sets them. -/
def seedLanes (seed n : Nat) : Nat :=
  match n with
  | 0 => 0
  | k + 1 => seedLanes seed k + laneSeed seed k * 2 ^ (32 * k)

/-! ### FMODE (R67) -/

def ftzOf (m : Word) : Bool := bit m 3
def rmOf (m : Word) : Nat := fld m 2 0

/-- The mode of an arithmetic instruction: DYN takes `FMODE.RM`, and SR there rounds by RNE (R59). -/
def arithMode (m : Word) (code : Nat) : Nat :=
  let r := if code = 6 then rmOf m else code
  if r = 5 then 0 else r

/-- The mode of a conversion (R59). -/
def convMode (m : Word) (code : Nat) : Nat := if code = 6 then rmOf m else code

end Sys2Proof.Machine
end

