-- ==== Sys2Proof/Machine/Real.lean ====
section
/-! DEFINITION. The special functions (R168) and the exponential of the triples (R173): approximations to 640 binary
places, from which the correctly rounded result is taken (notes/assumptions/14.md). -/

namespace Sys2Proof.Machine

/-- Binary places of the approximations. -/
def prec : Nat := 640
def one : Nat := 2 ^ 640

/-- Sum of x^(2k+1) / (2k+1), with alternating signs where `alt`, over `n` terms; `t` is the current power, `k` its place. -/
def oddSeries (alt : Bool) (x2 : Nat) (n k t : Nat) (acc : Int) : Int :=
  match n with
  | 0 => acc
  | m + 1 =>
    let term : Int := (t / (2 * k + 1) : Nat)
    oddSeries alt x2 m (k + 1) (t * x2 / one) (if alt && k % 2 == 1 then acc - term else acc + term)

/-- artanh(p / q) for p / q ≤ 1/3, scaled. -/
def artanhQ (p q : Nat) : Int :=
  let x := p * one / q
  oddSeries false (x * x / one) 210 0 x 0

/-- arctan(1 / n), scaled. -/
def arctanInv (n : Nat) : Int := oddSeries true (one / (n * n)) 140 0 (one / n) 0

/-- ln 2 and π, scaled. -/
def ln2 : Int := 2 * artanhQ 1 3
def piS : Int := 16 * arctanInv 5 - 4 * arctanInv 239

/-- Taylor series of e^t for a scaled 0 ≤ t < 1. -/
def expSeries (t : Nat) (n k : Nat) (term acc : Nat) : Nat :=
  match n with
  | 0 => acc
  | m + 1 =>
    let term := term * t / one / k
    expSeries t m (k + 1) term (acc + term)

def expFix (t : Nat) : Nat := expSeries t 160 1 one one

/-- e^x for a scaled integer x: mantissa in [1, 2) scaled, and exponent. -/
def expScaled (x : Int) : Nat × Int :=
  let k := x / ln2
  let r := x - k * ln2
  (expFix r.toNat, k)

/-- Taylor series of sine (`k` starts at 1) or cosine (`k` starts at 0) for a scaled t. -/
def trigSeries (t2 : Nat) (n k : Nat) (term : Nat) (neg : Bool) (acc : Int) : Int :=
  match n with
  | 0 => acc
  | m + 1 =>
    let acc := if neg then acc - (term : Int) else acc + term
    trigSeries t2 m (k + 2) (term * t2 / one / ((k + 1) * (k + 2))) (!neg) acc

/-- sin(π r) and cos(π r) for a rational 0 ≤ r ≤ 1/2, scaled. -/
def sinPiQ (p q : Nat) : Nat := let t := piS.toNat * p / q; (trigSeries (t * t / one) 120 1 t false 0).toNat
def cosPiQ (p q : Nat) : Nat := let t := piS.toNat * p / q; (trigSeries (t * t / one) 120 0 one false 0).toNat

/-- A positive value m × 2^k with m scaled; a zero approximation stands for a value below every format. -/
def approx (neg : Bool) (m : Nat) (k : Int) : Ex :=
  let m := if m = 0 then 1 else m
  dyad neg m (max (-4000) (min 4000 k) - prec)

/-- e^x for a rational x. -/
def expEx (x : Int × Nat) : Ex :=
  if x.1 = 0 then .fin false 1 1
  else
    let fl := x.1 / x.2
    if 3000 < fl then dyad false 3 3500
    else if fl < -3000 then dyad false 3 (-3500)
    else let (m, k) := expScaled (x.1 * one / x.2); approx false m k

/-- 2^x for a rational x. -/
def exp2Ex (x : Int × Nat) : Ex :=
  let fl := x.1 / x.2
  if 3000 < fl then dyad false 3 3500
  else if fl < -3000 then dyad false 3 (-3500)
  else
    let r := (x.1 - fl * x.2).toNat
    if r = 0 then dyad false 1 fl
    else approx false (expFix (ln2.toNat * r / x.2)) fl

/-- log2 of a positive rational. -/
def log2Ex (p q : Nat) : Ex :=
  let e := log2Q p q
  let (a, b) : Nat × Nat := if 0 ≤ e then (p, q * 2 ^ e.toNat) else (p * 2 ^ (-e).toNat, q)
  if a = b then exInt e
  else
    let m := 2 * artanhQ (a - b) (a + b) * one / ln2
    let v : Int := e * one + m
    .fin (v < 0) v.natAbs one

/-- The integer square root, by digits. -/
def isqrtGo (n : Nat) (bits : Nat) (r : Nat) : Nat :=
  match bits with
  | 0 => r
  | k + 1 => let c := r + 2 ^ k; isqrtGo n k (if c * c ≤ n then c else r)
def isqrt (n : Nat) : Nat := isqrtGo n (Nat.log2 n / 2 + 1) 0

/-- √(p / q): exact where it is rational with the scaled denominator, else a value strictly inside the same gap of 2^-400
of its scale. -/
def sqrtEx (p q : Nat) : Ex :=
  let e := log2Q p q / 2
  let k : Int := 400 - e
  let (a, b) : Nat × Nat := if 0 ≤ k then (p * 2 ^ (2 * k.toNat), q) else (p, q * 2 ^ (2 * (-k).toNat))
  let n := isqrt (a / b)
  if n * n * b = a then dyad false n (-k) else dyad false (2 * n + 1) (-k - 1)

/-- The reciprocal of a positive value. -/
def Ex.recip : Ex → Ex
  | .fin n p q => .fin n q p
  | x => x

/-- 1/√(p / q): exact where √ is, else inside the same gap. -/
def rsqrtEx (p q : Nat) : Ex := sqrtEx q p

/-- tanh of a positive rational. -/
def tanhPos (p q : Nat) : Ex :=
  if 300 * q < p then .fin false (one - 1) one
  else if p * 2 ^ 40 < q then
    -- x − x³/3 + 2x⁵/15: the next term is below 2^-280 of the result
    let x3 := p * p * p
    .fin false (15 * p * q * q * q * q - 5 * x3 * q * q + 2 * x3 * p * p) (15 * q * q * q * q * q)
  else
    let (m, k) := expScaled (2 * (p * one / q : Nat))
    let t : Nat := m * 2 ^ k.toNat
    .fin false (t - one) (t + one)

/-- 1 / (1 + e^−x) of a rational. -/
def sigEx (x : Int × Nat) : Ex :=
  if 300 < x.1 / x.2 then .fin false (one - 1) one
  else if x.1 / x.2 < -300 then expEx x
  else
    let (m, k) := expScaled (x.1 * one / x.2)
    if 0 ≤ k then let t := m * 2 ^ k.toNat; .fin false t (t + one)
    else .fin false m (m + one * 2 ^ (-k).toNat)

/-- sin(πa) of a rational. -/
def sinPi (neg : Bool) (p q : Nat) : Ex :=
  let r := p % (2 * q)
  if r % q = 0 then .fin neg 0 1
  else
    let (r, n) := if q < r then (r - q, !neg) else (r, neg)
    let r := if q < 2 * r then q - r else r
    if 2 * r = q then .fin n 1 1 else .fin n (sinPiQ r q) one

/-- cos(πa) of a rational. -/
def cosPi (p q : Nat) : Ex :=
  let r := p % (2 * q)
  let r := if q < r then 2 * q - r else r
  if 2 * r = q then .fin false 0 1
  else if r = 0 then .fin false 1 1
  else if r = q then .fin true 1 1
  else if 2 * r < q then .fin false (cosPiQ r q) one
  else .fin true (cosPiQ (q - r) q) one

/-- The special functions: the exact value of each operand, with its flags (R168). -/
inductive Special where
  | rcp | rsq | sqrt | exp2 | log2 | sinpi | cospi | tanh | sig
deriving DecidableEq, Repr

/-- `VFRCP` … `VFSIG` on an exact operand (R168). -/
def Special.eval (f : Special) (x : Ex) : Ex × BitVec 7 :=
  match x with
  | .nan => (.nan, 0)
  | .inf neg =>
    match f with
    | .rcp => (.fin neg 0 1, 0)
    | .rsq => if neg then (.nan, Fl.nv) else (.fin false 0 1, 0)
    | .sqrt => if neg then (.nan, Fl.nv) else (.inf false, 0)
    | .exp2 => if neg then (.fin false 0 1, 0) else (.inf false, 0)
    | .log2 => if neg then (.nan, Fl.nv) else (.inf false, 0)
    | .sinpi => (.nan, Fl.nv)
    | .cospi => (.nan, Fl.nv)
    | .tanh => (.fin neg 1 1, 0)
    | .sig => if neg then (.fin false 0 1, 0) else (.fin false 1 1, 0)
  | .fin neg p q =>
    if p = 0 then
      match f with
      | .rcp => (.inf neg, Fl.dz)
      | .rsq => (.inf neg, Fl.dz)
      | .sqrt => (.fin neg 0 1, 0)
      | .exp2 => (.fin false 1 1, 0)
      | .log2 => (.inf true, Fl.dz)
      | .sinpi => (.fin neg 0 1, 0)
      | .cospi => (.fin false 1 1, 0)
      | .tanh => (.fin neg 0 1, 0)
      | .sig => (.fin false 1 2, 0)
    else
      match f with
      | .rcp => (.fin neg q p, 0)
      | .rsq => if neg then (.nan, Fl.nv) else (rsqrtEx p q, 0)
      | .sqrt => if neg then (.nan, Fl.nv) else (sqrtEx p q, 0)
      | .exp2 => (exp2Ex (if neg then -(p : Int) else p, q), 0)
      | .log2 => if neg then (.nan, Fl.nv) else (log2Ex p q, 0)
      | .sinpi => (sinPi neg p q, 0)
      | .cospi => (cosPi p q, 0)
      | .tanh => (match tanhPos p q with
        | .fin _ a b => .fin neg a b
        | y => y, 0)
      | .sig => (sigEx (if neg then -(p : Int) else p, q), 0)

end Sys2Proof.Machine
end

