-- ==== Sys2Proof/Machine/Cluster.lean ====
section
/-! DEFINITION. Gangs, barriers, neighbour links and reduction servers: opcodes 0xD0 to 0xD6 and their steps (R249 to R273). -/

namespace Sys2Proof.Machine

/-! ### Gangs (R250 to R253) -/

/-- Size of `GANG`. -/
def Ctx.gangSize (x : Ctx) : Nat := 2 ^ (x.w.mod.extractLsb' 0 2).toNat

/-- Whether a core is the origin of a group of size `n` inside its cluster (R249). -/
def gangOrigin (c n : Nat) : Bool :=
  if n = 2 then xOf c % 2 == 0 else if n = 4 then xOf c % 2 == 0 && yOf c % 2 == 0 else xOf c % 4 == 0 && yOf c % 2 == 0

/-- The cores of the band of a resident task's core (R257). -/
def State.bandCores (s : State) (r : Resident) : List CoreId :=
  match s.task r.task with
  | some t => (t.places.filter fun p => p.band == r.band).map (·.core)
  | none => []

/-- Whether a core belongs to a gang: it follows one, or a firing on it leads one. -/
def Core.inGang (x : Core) : Bool := x.follows.isSome || x.slots.any fun f => match f with
  | some f => f.span != 1
  | none => false

/-- Stop a follower's issue (R251). -/
def Core.follow (x : Core) (leader : Nat) : Core := { x with follows := some leader }

/-- Deliver the results in flight of a core's firings (R27). -/
def Core.deliverAll (x : Core) (clk : Nat) : Core := { x with slots := x.slots.map fun f => f.map fun g => g.drain clk }

/-- Whether a result of a core's firings is still to come from its unit, or an access of an instruction is under way. -/
def Core.awaits (x : Core) : Bool := x.slots.any fun f => match f with
  | some f => f.midway || f.flight.any (·.await)
  | none => false

/-- The last clock in which a result of a core's firings is delivered. -/
def Core.lastDue (x : Core) (clk : Nat) : Nat := x.slots.foldl (fun m f => match f with
  | some f => max m (f.lastDue clk)
  | none => m) clk

/-- The followers of a granted gang stop; once no result of theirs is still to come, the clock it forms in is fixed: 4 clk after the last delivery. -/
def State.stopGang (s : State) (c k n : Nat) (f : Firing) : State :=
  let fs := (gangCores c n).drop 1
  if fs.any fun m => (s.core m).awaits then s.setFiring c k { f with wait := .ganging n }
  else
    let late := fs.foldl (fun m y => max m ((s.core y).lastDue s.clk)) s.clk
    let s := fs.foldl (fun s m => s.setCore m ((s.core m).deliverAll s.clk)) s
    s.setFiring c k { f with wait := .gang n (some (late + 4)) }

/-- Grant a waiting `GANG` whose group is free. -/
def State.grantGang (s : State) (c k : Nat) : State :=
  match s.firing c k with
  | none => s
  | some f => match f.wait with
    | .gang n none =>
      let fs := (gangCores c n).drop 1
      if (s.core c).inGang || fs.any fun m => (s.core m).inGang then s
      else (fs.foldl (fun s m => s.setCore m ((s.core m).follow c)) s).stopGang c k n f
    | _ => s

/-- `GANG`. -/
def gangBody (x : Ctx) (s : State) : Body :=
  let n := x.gangSize
  let r := x.res s
  let band := s.bandCores r
  let excl := match s.task r.task with
    | some t => bit (t.tw.getD 0 0) 48
    | none => false
  if !gangOrigin x.c n || !(gangCores x.c n).all band.contains || !excl || x.f.gang != 1 then .trap 0x12 0 0
  else .block { s } (.gang n none)

/-- The generators of lanes 32 to 32n − 1 as a write of the leader's `FSEED` seeds them (R252). -/
def gangGens (gens : VReg) (seed : Word) (n : Nat) : VReg :=
  let all := BitVec.ofNat 8192 (seedLanes (fld seed 31 0) (32 * n))
  lowLanes gens ||| (all &&& ~~~(BitVec.ofNat 8192 (2 ^ 1024 - 1)))

/-- The firing as the leader of a gang of `n` formed at clock `clk`. -/
def Firing.form (f : Firing) (n clk : Nat) : Firing :=
  let g := f.narrow
  { g with gang := n, gens := gangGens f.gens f.fseed n, wait := .none, nextIssue := max f.nextIssue (clk + 1), ready := none }

/-- `GANG_FORMED`: a waiting request is granted; a granted one is formed 4 clk after the followers' last delivery. -/
def execGangFormed (s : State) : Host.Outcome State Fault Refusal :=
  let c := s.cur.core
  let k := s.cur.slot
  .next (match s.firing c k with
    | none => s
    | some f => match f.wait with
      | .gang _ none => s.grantGang c k
      | .ganging n => s.stopGang c k n f
      | .gang n (some at_) => if at_ ≤ s.clk then s.setFiring c k (f.form n s.clk) else s
      | _ => s)

/-- `DISBAND`. -/
def disbandBody (x : Ctx) (s : State) : Body :=
  if x.f.gang = 1 then .ok { s }
  else if !x.f.flight.isEmpty then .wait s
  else .ok { s := s.disband x.c x.k, hold := s.clk + 4 }

/-! ### Barriers (R258, R259) -/

/-- The key of barrier `b` of a resident task's band. -/
def Resident.barKey (r : Resident) (b : Nat) : Nat := r.task * 64 + r.band * 4 + b

/-- Release the firings of a band that wait at barrier `b`: candidates from 6 clk on. -/
def State.releaseBar (s : State) (r : Resident) (b : Nat) : State :=
  match s.task r.task with
  | none => s
  | some t =>
    (t.places.filter fun p => p.band == r.band).foldl (fun s p =>
      (List.range 8).foldl (fun s k =>
        match s.firing p.core k with
        | none => s
        | some f =>
          if f.rti == p.rti && f.wait == .bar b then
            s.setFiring p.core k { f with wait := .none, nextIssue := max f.nextIssue (s.clk + 6), ready := none }
          else s) s) s

/-- `BAR`. -/
def barrierBody (x : Ctx) (s : State) : Body :=
  let b := x.w.b.toNat
  let p := fld (x.g x.w.a) 7 0
  let r := x.res s
  if p = 0 then .ok { s }
  else
    let d := s.die (dieOf x.c)
    let ph := mgetD d.barriers (r.barKey b) { count := p, arrived := 0 }
    if ph.count ≤ ph.arrived + 1 then
      .ok { s := (s.setDie (dieOf x.c) { d with barriers := mdel d.barriers (r.barKey b) }).releaseBar r b, hold := s.clk + 6 }
    else
      .block { s := s.setDie (dieOf x.c) { d with barriers := mset d.barriers (r.barKey b) { ph with arrived := ph.arrived + 1 } } } (.bar b)

/-! ### Links (R263 to R266) -/

/-- `LNKCFG`: a forward bit needs the opposite link (R265); the bits of a task that holds no links change nothing (notes/assumptions/31.md). -/
def lnkcfgBody (x : Ctx) (s : State) : Body :=
  let r := x.res s
  let fwd := fld x.w.imm 3 0
  let clr := fld x.w.imm 11 8
  let bad := (List.range 4).any fun d => fwd.testBit d && !s.linkOk x.c r.task (opposite d)
  if bad then .trap 0x05 (x.w.bits x.op) 0
  else if !(s.core x.c).linkTask r.task then .ok { s }
  else
    let k := s.core x.c
    let k : Core := { k with fwd := BitVec.ofNat 4 fwd }
    .ok { s := s.setCore x.c ((List.range 4).foldl (fun k d => if clr.testBit d then k.clearFifo d else k) k) }

/-- `LNKST`. -/
def lnkst (x : Ctx) (s : State) : Word :=
  let k := s.core x.c
  let four (f : Nat → Nat) : Nat := f 0 % 16 + f 1 % 16 * 16 + f 2 % 16 * 256 + f 3 % 16 * 4096
  let present := (List.range 4).foldl (fun n d => if (neighbour x.c d).isSome then n + 2 ^ d else n) 0
  if k.linkTask (x.res s).task then
    wd (2 ^ 40 + present * 2 ^ 36 + k.fwd.toNat * 2 ^ 32 + four (s.credits x.c) * 65536 + four fun d => (k.fifo d).length)
  else wd (present * 2 ^ 36)

/-- The first direction in which a word of core `c` arrives by clock `clk`. -/
def Core.landing (x : Core) (clk : Nat) : Option Nat := (List.range 4).find? fun d => match x.coming d with
  | (t, _) :: _ => t ≤ clk
  | [] => false

/-- `LINK_WORD_ARRIVAL`: the word enters the FIFO of direction `n`, and crossbar source 4 + n pulses (R206). -/
def execLinkWordArrival (s : State) : Host.Outcome State Fault Refusal :=
  let c := s.cur.core
  let d := s.cur.n
  let x := s.core c
  .next (match x.coming d with
    | (t, e) :: r => if t ≤ s.clk then (s.setCore c ((x.setComing d r).setFifo d (x.fifo d ++ [(t, e)]))).pulse c (4 + d) else s
    | [] => s)

/-! ### Reduction servers (R268 to R273) -/

/-- Whether a parent word breaks R269, one that names no core of the 16 by 12 among them (notes/assumptions/156.md). -/
def parentBad (p root : Word) : Bool :=
  let k := fld p 63 62
  fld p 61 56 != 0 || fld p 39 35 != 0 || fld p 31 30 != 0 || fld p 11 0 != 0 || (k != 2 && fld p 55 40 != 0) ||
  (k != 1 && k != 2 && fld p 34 32 != 0) || (k != 3 && fld p 29 20 != 0) || (if k = 3 then fld p 19 12 != 0 else 12 ≤ fld p 19 16) ||
  (k == 3 && (fld root 63 52 != 0 || fld root 7 0 != 0))

/-- `RTREE`: `CLR` clears what was, and `LOST` tells of the sum that this write discards (R268; notes/assumptions/155.md). -/
def rtreeBody (x : Ctx) (s : State) : Body :=
  let p := x.g x.w.a
  let root := x.g x.w.b
  if parentBad p root then .trap 0x08 0x169 0
  else
    let k := s.core x.c
    let v := k.server
    let st := if bit x.w.imm 12 then 0 else v.stat
    let st := if v.count = 0 then st else st ||| 0x100
    .ok { s := s.setCore x.c { k with server := { v with cfg := wd (fld x.w.imm 11 0), parent := p, root, stat := st, acc := 0, count := 0, psn := false } } }

/-- `RSEND`. -/
def rsendBody (x : Ctx) (s : State) : Body :=
  let t := x.g x.w.a
  let m := s.redTarget x.c x.k (x.task s) t ((x.v x.w.b).truncate 1024)
  match m.bind OutMsg.core with
  | some c => if (s.core c).fenced then .nack (dieOf c) s else sendBody x s m t
  | none => sendBody x s m t


/-- Whether slot 7 is to take no firing, and whether the server is pinned there (R88, R268). -/
def Core.pins (x : Core) : Bool := bit x.server.cfg 0
def Core.pinned (x : Core) : Bool := x.pins && x.slots[7].isNone

/-- One element of a round (R270): `first` takes it, else it is added to the old one. -/
def rtAdd (fmt rm : Nat) (first : Bool) (a x : Nat) : Nat × BitVec 7 :=
  if fmt = 2 then ((if first then x else a + x) % 2 ^ 32, 0)
  else if first then
    match decodeF fmt false x with
    | .nan => (((fmtOf fmt).nan).getD 0, 0)
    | _ => (x, 0)
  else
    let (t, f1) := exSum rm [decodeF fmt false a, decodeF fmt false x]
    let (c, f2) := convertF fmt rm false false 0 t
    (c, f1 ||| f2)

/-- A word added to the accumulator. -/
def Server.add (v : Server) (x : Entry) : Server :=
  let fmt := fld v.cfg 3 2
  let rm := fld v.cfg 11 9
  let w := if fmt = 1 then 16 else 32
  let ys := (List.range (1024 / w)).map fun e => rtAdd fmt rm (v.count == 0) (v.acc.toNat / 2 ^ (w * e) % 2 ^ w) (x.toNat / 2 ^ (w * e) % 2 ^ w)
  let fl := ys.foldl (fun a y => a ||| y.2) 0
  { v with acc := BitVec.ofNat 1024 (ys.foldr (fun y n => y.1 % 2 ^ w + 2 ^ w * n) 0), count := v.count + 1, stat := v.stat ||| (fl &&& 0x1F).zeroExtend 64 }

/-- The bytes of a poisoned sum at the root are in error until they are written again (R276). -/
def State.poisonAt (s : State) (a n : Nat) : State := { s with bad := s.bad ++ (List.range n).map (a + ·) }

/-- Send a completed sum to the parent, or write it at the root (R269); a root add that saturates posts its record at the server's core
(R195). -/
def State.sendSum (s : State) (c : Nat) (v : Server) : State :=
  let p := v.parent
  let at_ (die : Nat) : Nat := coreAt die (fld p 19 16) (fld p 15 12)
  match fld p 63 62 with
  | 0 => s.nicPut c (.partialSum (at_ (dieOf c)) v.acc v.psn)
  | 1 => s.nicPut c (.partialSum (at_ (fld p 34 32)) v.acc v.psn)
  | 2 => s.nicPut c (.packet { cls := 2, dpkg := fld p 55 40, spkg := s.pkgId, part := fld s.pkg.fabcfg 47 32, die := fld p 34 32,
                               y := fld p 19 16, x := fld p 15 12, data := entryBytes v.acc, psn := v.psn })
  | _ =>
    let a := fld v.root 51 0
    let key := fld p 29 20
    if s.keyLoaded key && s.paOk a 136 then
      let s := s.homeWrite key (Loc.phys a) (entryBytes v.acc)
      let s := if v.psn then s.poisonAt (Loc.phys a) 128 else s
      let (s, sat) := s.counterAdd key (Loc.phys (a + 128)) 1
      if sat then s.post c (overflowRecord 0 (a + 128) 1) else s
    else s

/-- Whether a server holds the sum of a whole round. -/
def Server.full (v : Server) : Bool := v.count != 0 && fld v.cfg 8 4 ≤ v.count

/-- Whether a core's server does something now: it takes a word, or sends the sum in the clock after the last addition (R270). -/
def Core.sums (x : Core) (clk : Nat) : Bool := x.pinned && x.server.free ≤ clk && (x.server.full || !x.server.waiting.isEmpty)

/-- `PARTIAL_SUM_ARRIVAL`: the enabled and pinned server of the core sends the sum of a whole round, or takes its oldest waiting word. -/
def execPartialSumArrival (s : State) : Host.Outcome State Fault Refusal :=
  let c := s.cur.core
  let k := s.core c
  let v := k.server
  .next (if !k.sums s.clk then s
    else if v.full then
      let st := setFld v.stat 63 32 (satAdd (fld v.stat 63 32) 1 (2 ^ 32 - 1))
      (s.setCore c { k with server := { v with count := 0, acc := 0, psn := false, stat := st } }).sendSum c v
    else match v.waiting with
      | [] => s
      | (x, psn) :: t =>
        let v := ({ v with waiting := t, free := s.clk + 2 } : Server).add x
        s.setCore c { k with server := if psn then { v with psn := true, stat := setFld v.stat 9 9 1 } else v })

def execGang (w : Tolog) (s : State) := issue 0xD0 w s gangBody
def execDisband (w : Tolog) (s : State) := issue 0xD1 w s disbandBody
def execBar (w : Tolog) (s : State) := issue 0xD2 w s barrierBody
def execLnkcfg (w : Tolog) (s : State) := issue 0xD3 w s lnkcfgBody
def execLnkst (w : Tolog) (s : State) := issue 0xD4 w s fun x s => .ok { s, writes := [.g x.w.d (lnkst x s)] }
def execRsend (w : Tolog) (s : State) := issue 0xD5 w s rsendBody
def execRtree (w : Tolog) (s : State) := issue 0xD6 w s rtreeBody

end Sys2Proof.Machine
end

