-- ==== Sys2Proof/Machine/Router.lean ====
section
/-! DEFINITION. Atomics in the routers of the mesh: merge records, the request they send and the response they split (R274,
R275). -/

namespace Sys2Proof.Machine

/-- `AMO` (R139). -/
def amoOp (op : Nat) (u : Bool) (n old b : Nat) : Nat :=
  match op with
  | 0 => (old + b) % 2 ^ n
  | 1 => old &&& b
  | 2 => old ||| b
  | 3 => old ^^^ b
  | 4 => if readInt u n b < readInt u n old then b else old
  | 5 => if readInt u n old < readInt u n b then b else old
  | _ => b

/-- Whether the home of an access lies at another router than the core's: not its own scratchpad (R274). -/
def Acc.far (a : Acc) : Bool := a.space != spCore && !(a.space == spClus && Loc.sp a.core 0 ≤ a.place && a.place < Loc.sp a.core (2 ^ 20))

/-- Whether a request may join a merge record: every field alike, the record neither sent nor full, and not held for 4 clk. -/
def Merge.takes (m q : Merge) : Bool :=
  q.born < m.born + 4 &&
  m.home == q.home && m.sid == q.sid && m.key == q.key && m.n == q.n && m.op == q.op && m.signed == q.signed && m.scope == q.scope && m.old.isNone && !m.away &&
  m.routers.head? == q.routers.head? && m.parts.length + q.parts.length ≤ 16

/-- Put a request into the routers of its die: into a record that it meets, or into one of its own. -/
def joinMerge (ms : List Merge) (q : Merge) (meets : Bool) : List Merge :=
  if meets && ms.any (·.takes q) then
    match ms with
    | [] => [q]
    | m :: t => if m.takes q then { m with parts := m.parts ++ q.parts, routers := m.routers ++ q.routers.drop 1 } :: t else m :: joinMerge t q meets
  else ms ++ [q]

/-- Whether a router's buffer takes a request: it has room for a record, or one that the request joins (R274). -/
def routerRoom (ms : List Merge) (q : Merge) (r : Nat) : Bool := (ms.filter (·.routers.contains r)).length < 16 || ms.any (·.takes q)

/-- The number of the request in the routers of lane `i` of an instruction that issues in clock `clk`; a scalar one is lane 0. -/
def routeTag (clk i : Nat) : Nat := 2 ^ 20 + clk * 1024 + i

/-- The number of the request of the instruction's lane `i` in the routers. -/
def Ctx.routedLane (x : Ctx) (i : Nat) : Option Nat := x.f.asked.find? fun t => 2 ^ 20 ≤ t && t % 1024 == i
def Ctx.routed (x : Ctx) : Option Nat := x.routedLane 0

/-- One constituent's operation on a value (R275). -/
def Merge.apply (m : Merge) (old v : Nat) : Nat := if m.op = 6 then min (old + v) (2 ^ 64 - 1) else amoOp m.op (!m.signed) (8 * m.n) old v

/-- What each constituent receives, in the order they entered: the value before its own place. -/
def Merge.split (m : Merge) (old : Nat) (ps : List Part) : List (Part × Nat) :=
  match ps with
  | [] => []
  | p :: t => (p, old) :: m.split (m.apply old p.val.toNat) t

/-- Change one record of a die. -/
def State.setMerge (s : State) (die i : Nat) (m : Option Merge) : State :=
  let d := s.die die
  s.setDie die { d with merges := match m with
    | some m => d.merges.set i m
    | none => d.merges.eraseIdx i }

/-- Answer the constituents of a record: the causes or bytes that `r` gives each (R275). -/
def State.answerParts (s : State) (ps : List (Part × Reply)) : State :=
  ps.foldl (fun s p =>
    match s.firing p.1.core p.1.slot with
    | some f => if f.asked.contains p.1.tag then s.setFiring p.1.core p.1.slot { f with replies := mset f.replies p.1.tag p.2 } else s
    | none => s) s

/-- A record whose request is refused: its constituents trap. -/
def State.failMerge (s : State) (die i : Nat) (m : Merge) (cause : Nat) : State :=
  (s.answerParts (m.parts.map fun p => (p, { cause }))).setMerge die i none

/-- A record whose home is fenced: its constituents are answered negatively (R443). -/
def State.nackMerge (s : State) (die i : Nat) (m : Merge) (at_ : Nat) : State :=
  (s.answerParts (m.parts.map fun p => (p, { nack := some at_ }))).setMerge die i none

/-- Apply a record's request at a place; a saturating constituent posts its overflow record (R144, R195). -/
def State.applyMerge (s : State) (die i : Nat) (m : Merge) (home : Nat) : State :=
  let h := homeOf m.space ((m.parts.map (·.core)).headD 0) m.addr (some home)
  if 3 ≤ m.space && s.sliceFenced h.1 h.2 then s.nackMerge die i m h.1
  else if s.isBad home m.n then s.failMerge die i m 0x16
  else
    let old := ofLe (s.homeRead m.key home m.n)
    let new := m.parts.foldl (fun o p => m.apply o p.val.toNat) old
    let s := s.homeWrite m.key home (leBytes m.n new)
    let s := if m.op != 6 then s else (m.split old m.parts).foldl (fun s p =>
      if 2 ^ 64 ≤ p.2 + p.1.val.toNat then s.post p.1.core (overflowRecord p.1.task m.addr p.1.val) else s) s
    s.setMerge die i (some { m with old := some old })

/-- The combined operand of a record: its operations are associative. -/
def Merge.combined (m : Merge) : Nat :=
  match m.parts with
  | [] => 0
  | p :: t => t.foldl (fun v q => m.apply v q.val.toNat) p.val.toNat

/-- What tells a record of a die from the others: its first constituent. -/
def Merge.number (m : Merge) : Nat := match m.parts with
  | [] => 0
  | p :: _ => p.tag * 2 ^ 16 + p.core * 8 + p.slot

/-- The combined request of a record, reissued to the package that a stream has moved to (R465). -/
def State.mergePacket (s : State) (die : Nat) (m : Merge) (pkg sid : Nat) : Packet :=
  let p : Part := m.parts.headD { core := 0, slot := 0, tag := 0, task := 0, val := 0 }
  { cls := 6, op := 5, dpkg := pkg, spkg := s.pkgId, part := fld s.pkg.fabcfg 47 32, key := m.key % 1024, sid, addr := m.addr, val := m.combined,
    data := leBytes 8 0 ++ [BitVec.ofNat 8 m.n, BitVec.ofNat 8 m.op, if m.signed then 1 else 0], srcTask := p.task, srcCore := die, srcSlot := 16, block := m.number }

/-- Record `i` of a die reaches its home, where it is applied in one step; a `STRM` request is held there while its stream moves, and goes
on to another package once it has moved. -/
def State.sendMerge (s : State) (die i : Nat) : State :=
  match (s.die die).merges[i]? with
    | none => s
    | some m =>
      if m.old.isSome || m.away then s
      else if m.sid = 0 then s.applyMerge die i m m.home
      else match s.bucketNack 8 m.sid (m.addr / 32768) with
        | some home => s.nackMerge die i m home
        | none => match s.updateBlock m.sid (m.addr / 32768) with
        | .refuse c => s.failMerge die i m c
        | .hold s => s
        | .moved p g => ((s.setMerge die i (some { m with away := true })).fabSend (s.mergePacket die m p g)).fabCount 31 16
        | .at_ pl s => s.applyMerge die i m (pl.getD 0 + m.addr % 32768)

/-- Record `i` of a die enters the buffer of a later router, where it may meet others; `false` where that buffer has no room or has held it
(R274). -/
def State.moveMerge (s : State) (die i r : Nat) : State × Bool :=
  let d := s.die die
  match d.merges[i]? with
  | none => (s, false)
  | some m =>
    let q := { m with routers := r :: m.routers, born := s.clk }
    let ms := d.merges.eraseIdx i
    if m.old.isSome || m.away || m.routers.contains r || !routerRoom ms q r then (s, false)
    else (s.setDie die { d with merges := joinMerge ms q true }, true)

/-- The request of lane `i` of the instruction for an access (R274). -/
def Ctx.request (x : Ctx) (s : State) (a : Acc) (i op : Nat) (v : Word) : Merge :=
  { home := a.place, space := a.space, key := a.key, addr := a.addr, n := a.n, op, signed := x.w.mod.getLsbD 3,
    scope := fld (x.w.mod.zeroExtend 64) 6 4, born := s.clk, sid := a.sid,
    routers := [x.c], parts := [{ core := x.c, slot := x.k, tag := routeTag s.clk i, task := (x.res s).task, val := v }] }

/-- Put a request into the buffer of its core's router; `meets`: it is there together with the others (R274). An atomic takes its core's own copy
of the line home first (R138). -/
def State.route (s : State) (x : Ctx) (a : Acc) (q : Merge) (meets : Bool) : State :=
  match s.firing x.c x.k with
  | none => s
  | some f =>
    let s := (if q.op = 6 then s else s.dropOwn a).setFiring x.c x.k { f with asked := q.parts.map (·.tag) ++ f.asked }
    let d := s.die (dieOf x.c)
    s.setDie (dieOf x.c) { d with merges := joinMerge d.merges q meets }

/-- Send an atomic by the routers, where it passes any: whether a buffer holds it, and whether it meets another request there,
are free choices. The instruction then waits for its response; `now` performs it at the home at once. -/
def viaRouter (x : Ctx) (s : State) (a : Acc) (merges : Bool) (op : Nat) (v : Word) (now : State → Body) : Body :=
  if !merges || !a.far then now s
  else
    let (fv, s) := s.free
    let q := x.request s a 0 op v
    if fv % 2 = 0 || !routerRoom (s.die (dieOf x.c)).merges q x.c then now s else .wait (s.route x a q (fv / 2 % 2 == 1))

/-- The record that reaches the home before record `m`: one of the same address with an earlier lane of one of its instructions (R179, R274). -/
def Die.laneBefore (d : Die) (m : Merge) : Option Nat :=
  let first (p : Part) : Nat := d.merges.foldl (fun t o => if o.old.isSome || o.away || o.home != m.home || o.addr != m.addr || o.sid != m.sid then t
    else o.parts.foldl (fun t q => if q.core == p.core && q.slot == p.slot then min t q.tag else t) t) p.tag
  m.parts.findSome? fun p =>
    let t := first p
    if t < p.tag then d.merges.findIdx? fun o => o.old.isNone && !o.away && o.parts.any fun q => q.core == p.core && q.slot == p.slot && q.tag == t else none

/-- Record `i` of a die reaches its home, after any of its instructions' earlier lanes at that address. -/
def State.sendInTurn (s : State) (die i : Nat) : State :=
  let d := s.die die
  s.sendMerge die ((d.merges[i]?.bind d.laneBefore).getD i)

/-- `ROUTER_MERGE_SEND`: record `k` of die `n` leaves its router: it enters a later one or reaches its home, a free choice, since the spec
gives no path. -/
def execRouterMergeSend (s : State) : Host.Outcome State Fault Refusal :=
  let die := s.cur.n
  let i := s.cur.k
  let (fv, s) := s.free
  .next (if fv % 2 = 0 then s.sendInTurn die i
    else
      let (t, moved) := s.moveMerge die i (die * 256 + fv / 2 % 192)
      if moved then t else s.sendInTurn die i)

/-- `ROUTER_RESPONSE_SPLIT`: the response of record `k` of die `n` goes back to its constituents. -/
def execRouterResponseSplit (s : State) : Host.Outcome State Fault Refusal :=
  .next (match (s.die s.cur.n).merges[s.cur.k]? with
    | none => s
    | some m => match m.old with
      | none => s
      | some old =>
        let s := s.answerParts ((m.split old m.parts).map fun p => (p.1, { bytes := leBytes 8 p.2 }))
        s.setMerge s.cur.n s.cur.k none)

/-- Whether a record can go on: its home does not hold it while nothing new begins there (R346, R462). -/
def State.mergeGoes (s : State) (m : Merge) : Bool :=
  m.sid == 0 || (s.bucketNack 8 m.sid (m.addr / 32768)).isSome || match s.updateBlock m.sid (m.addr / 32768) with
    | .hold t => t.freeCtr != s.freeCtr
    | _ => true

/-- The merge records that must be sent: full, or held for 4 clk; and those that may be (R274). -/
def Merge.due (m : Merge) (clk : Nat) : Bool := m.old.isNone && !m.away && (16 ≤ m.parts.length || m.born + 4 ≤ clk)

end Sys2Proof.Machine
end

