-- ==== Sys2Proof/Machine/ScalarMem.lean ====
section
/-! DEFINITION. Scalar memory through handles, atomics, handles and regions, and bit access: opcodes 0x40 to 0x48 and 0x4E to
0x54 (R133 to R142, R151 to R154). -/

namespace Sys2Proof.Machine

/-! ### Shared parts -/

/-- Bytes of the width field of `MOD[2:0]` (R22). -/
def Ctx.width (x : Ctx) : Nat := 2 ^ (x.w.mod.extractLsb' 0 3).toNat

/-- `MOD[3]`. -/
def Ctx.sgn (x : Ctx) : Bool := x.w.mod.getLsbD 3

/-- Whether the firing in a slot has a monitor on one of the lines that its home has not registered (R147). -/
def Core.monPending (x : Core) (k : Nat) (lines : List Nat) : Bool :=
  x.monitors.any fun m => m.slot == k && !m.registered && lines.contains m.home

/-- The lines of an access's places. -/
def Acc.lines (a : Acc) : List Nat := a.segs.flatMap fun p => match p.1 with
  | some q => linesOf q p.2
  | none => []

/-- Whether a load waits for a `MON` of its line (R147). -/
def Ctx.held (x : Ctx) (s : State) (a : Acc) : Bool := (s.core x.c).monPending x.k a.lines

/-- Whether an earlier load of the firing that waits at its home reads bytes of an access (R137). -/
def Ctx.behind (x : Ctx) (s : State) (a : Acc) : Bool :=
  (s.core x.c).loads.any fun y => y.k == x.k && (x.load == 0 || y.load < x.load) &&
    y.f.issued.any fun b => b.2.space == a.space && b.2.sid == a.sid && b.2.addr < a.addr + a.n && a.addr < b.2.addr + b.2.n

/-- The checks of access `tag` of the instruction; an access that has been issued has them behind it (R151, R186, R392). It follows the earlier
loads of its bytes (R137, R328). -/
def Ctx.access (x : Ctx) (s : State) (r : Resident) (c hi off n align : Nat) (k : Kind) (spaces : List Nat) (atHome : Bool) (ch tag : Nat) :
    Except Bar (State × Acc) :=
  match (match mget x.f.issued tag with
    | some a => s.atHome c r.task a k
    | none => s.check c r x.sid hi off n align k spaces atHome ch) with
  | .ok (t, a) => if x.behind s a then .error (.hold s) else .ok (t, a)
  | e => e

/-- The key and the address of an access that was answered `MOVED` (R465). -/
def Ctx.movedAt (x : Ctx) (r : Resident) (hi off tag : Nat) : Nat × Nat :=
  match mget x.f.issued tag, r.handle hi with
  | some a, _ => (a.key % 1024, a.addr)
  | none, some h => (h.key, h.base + off)
  | none, none => (0, 0)

/-- Replay an access through handle `hi` at offset `off` at another package, and wait for its answer (R465). -/
def remoteH (x : Ctx) (s : State) (hi off pkg sid op : Nat) (val : Word) (data : List Byte) (tag : Nat := 0) : Body :=
  let a := x.movedAt (x.res s) hi off tag
  .wait (s.sendRemote x tag pkg sid op a.1 a.2 val data)

/-- Load `n` bytes at an offset of a handle and go on with them; `tag` numbers the accesses of one instruction. -/
def loadVia (x : Ctx) (s : State) (hi off n align : Nat) (spaces : List Nat) (go : State → List Byte → Body) (tag : Nat := 0) : Body :=
  if x.sent tag then x.answer s tag (handleVal hi off) 0 go
  else match x.access s (x.res s) x.c hi off n align .load spaces false x.w.ch.toNat tag with
    | .error (.moved p g) => remoteH x s hi off p g 0x40 (wd n) [] tag
    | .error e => barBody s hi off 0 e tag
    | .ok (s, a) =>
      if x.held s a then .wait s
      else match s.read a with
        | none => .trap 0x16 (handleVal hi off) 0
        | some (s, bs) => go s bs

/-- Store bytes at an offset of a handle. -/
def storeVia (x : Ctx) (s : State) (hi off align : Nat) (spaces : List Nat) (bs : List Byte) : Body :=
  if x.sent 0 then x.answer s 0 (handleVal hi off) 0 fun s _ => .ok { s }
  else match x.access s (x.res s) x.c hi off bs.length align .store spaces false x.w.ch.toNat 0 with
    | .error (.moved p g) => remoteH x s hi off p g 0x41 0 bs
    | .error e => barBody s hi off 0 e
    | .ok (s, a) => .ok { s := s.write a bs }

/-- The spaces of R135: all but `LANE`. -/
def spAll : List Nat := [1, 2, 3, 4, 5]

/-! ### Loads and stores (R135, R136) -/

/-- A loaded value, extended (R135). -/
def extend (sg : Bool) (n : Nat) (bs : List Byte) : Word := wi (readInt (!sg) (8 * n) (ofLe bs))

def ldBody (x : Ctx) (s : State) : Body :=
  let n := x.width
  loadVia x s (hidx x.w.imm) x.off n n spAll fun s bs => .ok { s, writes := [.g x.w.d (extend x.sgn n bs)] }

def stBody (x : Ctx) (s : State) : Body :=
  let n := x.width
  storeVia x s (hidx x.w.imm) x.off n spAll (leBytes n (x.g x.w.b).toNat)

def ldpBody (x : Ctx) (s : State) : Body :=
  loadVia x s (hidx x.w.imm) x.off 16 16 spAll fun s bs =>
    .ok { s, writes := [.g x.w.d (wordAt bs 0), .g x.w.b (wordAt bs 1)] }

def stpBody (x : Ctx) (s : State) : Body :=
  storeVia x s (hidx x.w.imm) x.off 16 spAll (leBytes 8 (x.g x.w.b).toNat ++ leBytes 8 (x.g x.w.c).toNat)

/-- `PREF` never traps: it fills the line in the L1 where the access would be performed there (R136). -/
def prefBody (x : Ctx) (s : State) : Body :=
  if x.w.mod.getLsbD 7 then .ok { s }
  else match s.check x.c (x.res s) x.sid (hidx x.w.imm) x.off 1 1 .load [0, 1, 2, 3, 4, 5] false x.w.ch.toNat with
    | .ok (t, a) =>
      if a.cached then match t.read a with
        | some (t, _) => .ok { s := t }
        | none => .ok { s }
      else .ok { s }
    | .error _ => .ok { s }

/-! ### Atomics (R138 to R142) -/

/-- What an atomic does to an old value of `n` bits: the new value, where it writes, and the predicate it delivers. -/
structure Rmw where
  new  : Option Nat
  pred : Bool := false

/-- `INCW` (R141) and `FADDB` (R142). -/
def incw (old b : Nat) : Nat := if b ≤ old then 0 else old + 1
def faddb (old v b : Nat) : Rmw :=
  if old ≤ b then { new := some (min (old + v) b), pred := b < old + v } else { new := none, pred := true }

/-- The operation of an atomic opcode, on values of `n` bits; `sub` is the `C` field of `AMO`. -/
def rmwOp (op sub : Nat) (u : Bool) (n b c old : Nat) : Rmw :=
  match op with
  | 0x46 => { new := if old = b then some c else none }
  | 0x47 => { new := some (incw old b) }
  | 0x48 => faddb old b c
  | _ => { new := some (amoOp sub u n old b) }

/-- Perform an atomic at the place of an access (R138): the state and the old value; `none` where it consumes an error. -/
def State.rmw (s : State) (a : Acc) (f : Nat → Rmw) : Option (State × Nat × Bool) :=
  let s := s.dropOwn a
  if s.segsBad a.segs then none
  else
    let old := ofLe (s.homeRead a.key a.place a.n)
    let r := f old
    some (match r.new with
      | some y => s.homeWrite a.key a.place (leBytes a.n y)
      | none => s, old, r.pred)

/-- The results of an atomic: the old value, and the predicate of `FADDB`. -/
def rmwWrites (x : Ctx) (old : Nat) (p : Bool) : List RegWrite :=
  if x.op = 0x48 then [.g x.w.d (wd old), .p x.w.e.toNat p] else [.g x.w.d (wd old)]

/-- `AMO`, `CAS`, `INCW` and `FADDB` (R138 to R142). -/
def rmwBody (x : Ctx) (s : State) : Body :=
  let n := x.width
  let hi := hidx x.w.imm
  let val := handleVal hi x.off
  let b := (x.g x.w.b).toNat % 2 ^ (8 * n)
  let c := (x.g x.w.c).toNat % 2 ^ (8 * n)
  let f := rmwOp x.op x.w.c.toNat (!x.sgn) (8 * n) b c
  let k : Kind := if x.op = 0x45 && x.w.c.toNat != 6 then .accum else .rmw
  if x.sent 0 then x.answer s 0 val 0 fun s bs => .ok { s, writes := rmwWrites x (ofLe (bs.take 8)) (ofLe (bs.drop 8) != 0) }
  else match x.routed with
    | some tag => x.answer s tag val 0 fun s bs => .ok { s, writes := rmwWrites x (ofLe bs) false }
    | none =>
      if releasesSys x.op x.w && s.addsPending (x.res s).task then .wait s
      else match x.access s (x.res s) x.c hi x.off n n k spAll true 0 0 with
        | .error (.moved p g) =>
          remoteH x s hi x.off p g x.op (x.g x.w.b) (leBytes 8 c ++ [BitVec.ofNat 8 n, BitVec.ofNat 8 x.w.c.toNat, if x.sgn then 1 else 0])
        | .error e => barBody s hi x.off 0 e
        | .ok (s, a) =>
          if x.held s a then .wait s
          else if s.segsBad a.segs then .trap 0x16 val 0
          else viaRouter x s a (k == .accum) x.w.c.toNat (wd b) fun s =>
            match s.rmw a f with
            | none => .trap 0x16 val 0
            | some (s, old, p) => .ok { s, writes := rmwWrites x old p }

/-! ### Handles, regions and the L1 (R151 to R153) -/

def Handle.word (h : Handle) (i : Nat) : Word :=
  match i with
  | 0 => h.w0
  | 1 => h.w1
  | 2 => h.w2
  | _ => h.w3

def Handle.setWord (h : Handle) (i : Nat) (v : Word) : Handle :=
  match i with
  | 0 => { h with w0 := v }
  | 1 => { h with w1 := v }
  | 2 => { h with w2 := v }
  | _ => { h with w3 := v }

def hldBody (x : Ctx) (s : State) : Body :=
  let v := match (x.res s).handle (fld x.w.imm 7 0) with
    | some h => h.word (fld x.w.imm 9 8)
    | none => 0
  .ok { s, writes := [.g x.w.d v] }

def hstBody (x : Ctx) (s : State) : Body :=
  let r := x.res s
  let i := fld x.w.imm 7 0
  let h := (mgetD r.handles i {}).setWord (fld x.w.imm 9 8) (x.g x.w.b)
  .ok { s := s.setResident x.c x.f.rti (s.judgeHandle x.c { r with handles := mset r.handles i h } i) }

/-- The index of the first record that covers a byte (R152). -/
def firstCover (rs : List Region) (i space a : Nat) : Option Nat :=
  match rs with
  | [] => none
  | r :: t => if r.space == space && r.lo ≤ a && a < r.hi && r.now.isSome then some i else firstCover t (i + 1) space a

/-- `RGCHK` (R152). -/
def rgchk (x : Ctx) (s : State) : Word :=
  let r := x.res s
  match r.handle (hidx x.w.imm) with
  | none => 0
  | some h =>
    let n := max (x.g x.w.b).toNat 1
    let a := h.base + x.off
    let g := if h.sid = 0 then x.sid else h.sid
    let t := (s.task r.task).getD {}
    let rs := if h.space = spStrm && !(t.sid == g || t.batch.contains g) then [] else t.regions
    let within (p : Mode → Bool) : Bool := 3 ≤ h.space && covered (rs.filter fun q => q.space == h.space && match q.now with
      | some m => p m
      | none => false) 17 a n
    let first := if 3 ≤ h.space then firstCover rs 0 h.space a else none
    wd (1 + (if x.off + n ≤ h.len then 2 else 0) + (if h.rd then 4 else 0) + (if h.wr then 8 else 0) +
      (if within fun m => m == .r || m == .rw then 16 else 0) + (if within fun m => m == .w || m == .rw then 32 else 0) +
      (if within fun m => m == .acc then 64 else 0) +
      match first with
      | some i => 4096 + i % 16 * 256
      | none => 0)

/-- The L1 lines of a space and context that overlap a range (R153). -/
def Core.l1Over (x : Core) (a : Acc) : List Line :=
  x.l1.filter fun l => l.space == a.space && l.ctx == a.ctx && l.line * 64 < a.addr + a.n && a.addr < l.line * 64 + 64

/-- `FLUSHR` of a checked range. -/
def State.flushRange (s : State) (a : Acc) : State := ((s.core a.core).l1Over a).foldl (fun s l => s.cleanLine a.core l) s

/-- `INVR` of a checked range: a line partly outside it is written back first. -/
def State.invRange (s : State) (a : Acc) : State :=
  ((s.core a.core).l1Over a).foldl (fun s l =>
    let whole := a.addr ≤ l.line * 64 && l.line * 64 + 64 ≤ a.addr + a.n
    (if whole then s else s.writeBack a.core l).dropLine a.core l) s

/-- `FLUSHR` and `INVR` (R153). -/
def rangeBody (f : State → Acc → State) (x : Ctx) (s : State) : Body :=
  let n := (x.g x.w.b).toNat
  let hi := hidx x.w.imm
  if n = 0 then .ok { s }
  else match s.check x.c (x.res s) x.sid hi x.off n 1 .any [0, 1, 2, 3, 4, 5] true 0 with
    | .error (.moved _ _) => .ok { s }
    | .error e => barBody s hi x.off 0 e
    | .ok (s, a) => .ok { s := if a.space == spChip || a.space == spDev then f s a else s }

/-! ### Bit access (R154) -/

/-- `w` bits of a number at bit `o`. -/
def bitsAt (x o w : Nat) : Nat := x / 2 ^ o % 2 ^ w

/-- A number with `w` bits at bit `o` replaced. -/
def bitsSet (x o w v : Nat) : Nat := x - bitsAt x o w * 2 ^ o + v % 2 ^ w * 2 ^ o

/-- Check a bit element of a handle: its bytes, as an access, and the bit in the first of them. -/
def bitCheck (x : Ctx) (s : State) (k : Kind) : Except Body (State × Acc × Nat) :=
  let hi := hidx x.w.imm
  let off := x.off
  let w := x.w.b.toNat + 1
  let val := handleVal hi off
  match (x.res s).handle hi with
  | none => .error (.trap 0x11 val 0)
  | some h =>
    if (h.space != spCore && h.space != spClus) || (k.reads && !h.rd) || (k.writes && !h.wr) then .error (.trap 0x12 val 0)
    else if 8 * h.len < off + w then .error (.trap 0x10 val 0)
    else
      let b := off / 8
      let n := (off % 8 + w + 7) / 8
      match s.check x.c (x.res s) x.sid hi b n 1 k [1, 2] false 0 with
      | .error e => .error (barBody s hi off 0 e)
      | .ok (s, a) => .ok (s, a, off % 8)

def ldbitBody (x : Ctx) (s : State) : Body :=
  match bitCheck x s .load with
  | .error b => b
  | .ok (s, a, o) =>
    if x.held s a then .wait s
    else match s.read a with
      | none => .trap 0x16 (handleVal (hidx x.w.imm) x.off) 0
      | some (s, bs) =>
        let w := x.w.b.toNat + 1
        .ok { s, writes := [.g x.w.d (wi (readInt (!x.sgn) w (bitsAt (ofLe bs) o w)))] }

/-- `STBIT`: a word of which it changes a part must be sound (R154, R208; notes/assumptions/148.md). -/
def stbitBody (x : Ctx) (s : State) : Body :=
  match bitCheck x s .store with
  | .error b => b
  | .ok (s, a, o) =>
    match s.read a with
    | none => .trap 0x16 (handleVal (hidx x.w.imm) x.off) 0
    | some (s, bs) => .ok { s := s.write a (leBytes a.n (bitsSet (ofLe bs) o (x.w.b.toNat + 1) (x.g x.w.c).toNat)) }

/-! ### The instructions -/

def execLd (w : Tolog) (s : State) := issue 0x40 w s ldBody
def execSt (w : Tolog) (s : State) := issue 0x41 w s stBody
def execLdp (w : Tolog) (s : State) := issue 0x42 w s ldpBody
def execStp (w : Tolog) (s : State) := issue 0x43 w s stpBody
def execPref (w : Tolog) (s : State) := issue 0x44 w s prefBody
def execAmo (w : Tolog) (s : State) := issue 0x45 w s rmwBody
def execCas (w : Tolog) (s : State) := issue 0x46 w s rmwBody
def execIncw (w : Tolog) (s : State) := issue 0x47 w s rmwBody
def execFaddb (w : Tolog) (s : State) := issue 0x48 w s rmwBody
def execHld (w : Tolog) (s : State) := issue 0x4E w s hldBody
def execHst (w : Tolog) (s : State) := issue 0x4F w s hstBody
def execRgchk (w : Tolog) (s : State) := issue 0x50 w s fun x s => .ok { s, writes := [.g x.w.d (rgchk x s)] }
def execFlushr (w : Tolog) (s : State) := issue 0x51 w s (rangeBody State.flushRange)
def execInvr (w : Tolog) (s : State) := issue 0x52 w s (rangeBody State.invRange)
def execLdbit (w : Tolog) (s : State) := issue 0x53 w s ldbitBody
def execStbit (w : Tolog) (s : State) := issue 0x54 w s stbitBody

end Sys2Proof.Machine
end

