-- ==== Sys2Proof/Machine/ControlFlow.lean ====
section
/-! DEFINITION. Control transfer, traps and identity: opcodes 0x20 to 0x29, 0x2C to 0x2F (R112 to R123). -/

namespace Sys2Proof.Machine

/-- PC + sext(`IMM32`). -/
def Ctx.rel (x : Ctx) : Word := wd x.f.pc + sext32 x.w.imm

/-- The spaces of `LD` (R135). -/
def ldSpaces : List Nat := [1, 2, 3, 4, 5]

/-! ### Transfers -/

/-- `CALL`: the link is the address of the sequential successor (R112). -/
def callBody (x : Ctx) (s : State) : Body :=
  transfer { s, writes := [.g x.w.d (wd (seqAddr x.f.pc x.w.len))] } x.rel

/-- `LOOP` (R112). -/
def loopBody (x : Ctx) (s : State) : Body :=
  let n := x.g x.w.d - 1
  let e : Eff := { s, writes := [.g x.w.d n] }
  if n = 0 then .ok e else transfer e x.rel

/-- `JTAB` (R115). -/
def jtabBody (x : Ctx) (s : State) : Body :=
  let pc := wd x.f.pc
  let i := x.w.imm
  if fld i 47 32 ≤ (x.g x.w.b).toNat then
    transfer { s } (pc + (i.extractLsb' 48 16).signExtend 64 * 4)
  else
    let off := (x.g x.w.a + (i.extractLsb' 8 24).signExtend 64 + 4 * x.g x.w.b).toNat
    loadVia x s (hidx i) off 4 4 ldSpaces fun s bs => transfer { s } (pc + ((wordOf bs).extractLsb' 0 32).signExtend 64)

/-- `TRET` (R119). -/
def tretBody (x : Ctx) (s : State) : Body :=
  let t := x.f.trapPc
  let len := ((s.fetchWord x.c t.toNat).1).extractLsb' 0 2
  let target := if x.w.mod.getLsbD 0 then wd (seqAddr t.toNat (if len = 3 then 0 else len)) else t
  match s.firing x.c x.k with
  | none => .gone s
  | some f => transfer { s := s.setFiring x.c x.k { f with trapVec := f.trapVec ||| 1 } } target

/-! ### Ending -/

/-- The first output channel with fewer entries closed than its rate, and how many it has (R85, R117). -/
def firstShort (f : Firing) (outs : List OutChan) : Option (Nat × Nat) :=
  outs.findSome? fun o =>
    let n := (mgetD f.closed o.ch []).length
    if n < o.rate then some (o.ch, n) else none

/-- `FINI` (R84 to R86, R117). -/
def finiBody (x : Ctx) (s : State) : Body :=
  if !x.f.flight.isEmpty then .wait s
  else match (s.actor x.c x.f.actor).bind fun a => firstShort x.f a.outs with
    | some (ch, n) => .trap 0x19 (wd (n % 256 * 256 + ch)) 0
    | none => .gone ((s.finish x.c x.k).spentBy x.c x.k)

/-- `ABORT` (R84, R86). -/
def abortBody (x : Ctx) (s : State) : Body :=
  if !x.f.flight.isEmpty then .wait s else .gone ((s.abort x.c x.k).spentBy x.c x.k)

/-- `YIELD` (R116). -/
def yieldBody (x : Ctx) (s : State) : Body :=
  let ks := ((s.candidates x.c).map (·.1)).filter (· != x.k)
  if ks.isEmpty then .ok { s } else .block { s } (.yield ks ks (s.clk + 64))

/-! ### Identity -/

/-- The place of a firing's task on its core. -/
def State.placeOf (s : State) (c rti : Nat) : Option (Task × Place) :=
  match s.resident c rti with
  | none => none
  | some r => match s.task r.task with
    | none => none
    | some t => (t.places.find? fun p => p.core == c && p.rti == rti).map fun p => (t, p)

/-- The code of a gang's size. -/
def gangCode (n : Nat) : Nat := if n = 2 then 1 else if n = 4 then 2 else if n = 8 then 3 else 0

/-- `GETID.clus` (R123, R257). -/
def clusId (s : State) (c rti : Nat) : Word :=
  match s.placeOf c rti with
  | none => wd (clusterOf c)
  | some (t, p) =>
    let ms := t.places.filter fun q => q.band == p.band
    wd (clusterOf c + (ms.filter fun q => localK q.core < localK c).length * 256 + (ms.length - 1) % 16 * 4096 + 65536)

/-- `GETID` (R123). -/
def getid (x : Ctx) (s : State) : Word :=
  match fld (x.w.mod.zeroExtend 64) 2 0 with
  | 0 => wd (dieOf x.c * 65536 + yOf x.c * 256 + xOf x.c)
  | 1 => wd (fld s.pkg.fabid 31 16)
  | 2 => clusId s x.c x.f.rti
  | 3 => wd (gangCode x.f.gang * 16)
  | _ => wd (yOf x.c / 2 * 8 + xOf x.c / 2)

/-! ### The instructions -/

def execBr (w : Tolog) (s : State) := issue 0x20 w s fun x s => transfer { s } (x.g w.a)
def execBri (w : Tolog) (s : State) := issue 0x21 w s fun x s => transfer { s } x.rel
def execCall (w : Tolog) (s : State) := issue 0x22 w s callBody
def execRet (w : Tolog) (s : State) := issue 0x23 w s fun x s => transfer { s } (x.g w.a)
def execJtab (w : Tolog) (s : State) := issue 0x24 w s jtabBody
def execLoop (w : Tolog) (s : State) := issue 0x25 w s loopBody
def execFini (w : Tolog) (s : State) := issue 0x26 w s finiBody
def execAbort (w : Tolog) (s : State) := issue 0x27 w s abortBody
def execYield (w : Tolog) (s : State) := issue 0x28 w s yieldBody
def execTrap (w : Tolog) (s : State) := issue 0x29 w s fun x _ => .trap 0x28 (x.w.imm &&& 0xFFFFFFFF) 0
/-- `FENCE` (R121): every other access of a firing is performed when it issues (notes/assumptions/15.md); counter adds on other packages are
waited for. -/
def fenceBody (x : Ctx) (s : State) : Body :=
  if releasesSys x.op x.w && s.addsPending (x.res s).task then .wait s else .ok { s }

def execFence (w : Tolog) (s : State) := issue 0x2C w s fenceBody
def execClock (w : Tolog) (s : State) := issue 0x2D w s fun x s => .ok { s, writes := [.g x.w.d (wd (nsOf s.clk))] }
def execGetid (w : Tolog) (s : State) := issue 0x2E w s fun x s => .ok { s, writes := [.g x.w.d (getid x s)] }
def execTret (w : Tolog) (s : State) := issue 0x2F w s tretBody

end Sys2Proof.Machine
end

