-- ==== Sys2Proof/Machine/Counters.lean ====
section
/-! DEFINITION. Counters and monitors: opcodes 0x49 to 0x4D (R143 to R150, R196, R198, R458), and the ends of their waits. -/

namespace Sys2Proof.Machine

/-- The spaces of counters and monitors (R143, R147). -/
def ctrSpaces : List Nat := [1, 2, 3, 4]

/-! ### Counters -/

/-- `CADD` (R144). -/
def caddBody (x : Ctx) (s : State) : Body :=
  let hi := hidx x.w.imm
  let val := handleVal hi x.off
  match x.routed with
  | some tag => x.answer s tag val 0 fun s _ => .ok { s }
  | none =>
    if releasesSys x.op x.w && s.addsPending (x.res s).task then .wait s
    else match s.check x.c (x.res s) x.sid hi x.off 8 8 .cadd ctrSpaces true 0 with
      | .error e => barBody s hi x.off 0 e
      | .ok (s, a) =>
        if s.segsBad a.segs then .trap 0x16 val 0
        else viaRouter x s a true 6 (x.g x.w.b) fun s =>
          let (s, sat) := s.counterAdd a.key a.place (x.g x.w.b)
          .ok { s := if sat then s.post x.c (overflowRecord (x.res s).task a.device (x.g x.w.b)) else s }

/-- `CADD.fab` (R458): checks 1 to 5 of R133 here, the rest at the destination. -/
def caddFabBody (x : Ctx) (s : State) : Body :=
  let r := x.res s
  let hi := hidx x.w.imm
  let off := x.off
  let val := handleVal hi off
  match r.handle hi with
  | none => .trap 0x11 val 0
  | some h =>
    if h.space != spDev || !h.wr || !s.keyLoaded h.key then .trap 0x12 val 0
    else if h.len < off + 8 then .trap 0x10 val 0
    else if off % 8 != 0 then .trap 0x15 val 0
    else if !covered (((s.task r.task).getD {}).admitting .cadd spDev 0) 17 (h.base + off) 8 then .trap 0x13 val 0
    else
      let d := x.g x.w.c
      if fld d 63 16 != 0 || !torusOk s.pkg.fabid (fld d 15 0) then .trap 0x1A d 0
      else sendBody' x s { cls := 3, dpkg := fld d 15 0, spkg := s.pkgId, part := fld s.pkg.fabcfg 47 32, key := h.key,
                           addr := h.base + off, val := (x.g x.w.b).toNat, srcTask := r.task, srcCore := x.c, srcSlot := x.k }
where
  /-- A packet takes room at the interface like any message (R132). -/
  sendBody' (x : Ctx) (s : State) (p : Packet) : Body :=
    if (s.core x.c).nicFull || s.addsPending (x.res s).task then .wait s else .ok { s := s.nicPut x.c (.packet p) }

/-- The value of a counter, read at its home. -/
def State.counterAt (s : State) (key a : Nat) : Word := wordOf (s.homeRead key a 8)

/-- Read a counter at an offset of a handle and go on with its place, key and value. -/
def counterVia (x : Ctx) (s : State) (go : State → Acc → Word → Body) : Body :=
  let hi := hidx x.w.imm
  match s.check x.c (x.res s) x.sid hi x.off 8 8 .watch ctrSpaces true 0 with
  | .error e => barBody s hi x.off 0 e
  | .ok (s, a) =>
    if x.held s a then .wait s
    else if s.segsBad a.segs then .trap 0x16 (handleVal hi x.off) 0
    else go s a (s.counterAt a.key a.place)

/-- `CREAD` (R146). -/
def creadBody (x : Ctx) (s : State) : Body := counterVia x s fun s _ v => .ok { s, writes := [.g x.w.d v] }

/-- The clock a wait ends in: all ones for none (R145, R149). -/
def deadlineOf (clk : Nat) (v : Word) : Option Nat := if v = BitVec.allOnes 64 then none else some (clk + v.toNat)

/-- Note what a new walk of a `CWAIT`'s counter needs (R324). -/
def Ctx.watching (x : Ctx) (s : State) (a : Acc) : State :=
  match s.firing x.c x.k, (x.res s).handle (hidx x.w.imm) with
  | some f, some h =>
    let w : Watched := { addr := a.addr, ilv := h.ilv, pc := f.pc, val := handleVal (hidx x.w.imm) x.off }
    s.setFiring x.c x.k { f with watched := if a.space = spDev then some w else none }
  | _, _ => s

/-- `CWAIT` (R145). -/
def cwaitBody (x : Ctx) (s : State) : Body :=
  counterVia x s fun s a v =>
    if x.g x.w.b ≤ v then .ok { s, writes := [.g x.w.d v, .p x.w.e.toNat true] }
    else if x.g x.w.c = 0 then .ok { s, writes := [.g x.w.d v, .p x.w.e.toNat false] }
    else .block { s := x.watching s a } (.cwait a.place a.key (x.g x.w.b) (deadlineOf s.clk (x.g x.w.c)) x.w.d x.w.e)

/-- Whether a `CWAIT` ends by its counter, and whether its time ran out in an earlier clock. -/
def State.cwaitHolds (s : State) (f : Firing) : Bool :=
  match f.wait with
  | .cwait a key t _ _ _ => t ≤ s.counterAt key a
  | _ => false
def State.cwaitExpired (s : State) (f : Firing) : Bool :=
  match f.wait with
  | .cwait _ _ _ (some d) _ _ => d < s.clk
  | _ => false

/-- `CWAIT_END`. -/
def execCwaitEnd (s : State) : Host.Outcome State Fault Refusal :=
  let c := s.cur.core
  let k := s.cur.slot
  .next (match s.firing c k with
    | none => s
    | some f => match f.wait with
      | .cwait a key _ _ d e =>
        if s.cwaitHolds f then s.endWait c k [.g d (s.counterAt key a), .p e.toNat true] else s
      | _ => s)

/-- `CWAIT_TIMEOUT`: the condition did not hold in the clock the time ran out in. -/
def execCwaitTimeout (s : State) : Host.Outcome State Fault Refusal :=
  let c := s.cur.core
  let k := s.cur.slot
  .next (match s.firing c k with
    | none => s
    | some f => match f.wait with
      | .cwait a key _ _ d e =>
        if s.cwaitExpired f && !s.cwaitHolds f then s.endWait c k [.g d (s.counterAt key a), .p e.toNat false] else s
      | _ => s)

/-! ### Monitors -/

/-- The firing of a monitor whose entry is evicted is marked overflowed (R147); one that the monitor had triggered for keeps that (R150). -/
def Core.evicted (x : Core) (m : Monitor) : Core :=
  if h : m.slot < 8 then
    { x with slots := x.slots.set m.slot (x.slots[m.slot].map fun f => { f with overflow := true, woken := f.woken || m.fired }) }
  else x

/-- The directory of a line's home: that of a slice, or that of a scratchpad (R196). -/
def Acc.dir (a : Acc) : Nat :=
  if a.space = spChip then dieOf a.core * 48 + a.addr / 4096 % 48
  else if a.space = spDev then let h := homeSlice a.addr; h.1 * 48 + h.2
  else 1000 + (a.place - 2 ^ 60) / 2 ^ 20

/-- `MON` (R147). -/
def monBody (x : Ctx) (s : State) : Body :=
  let hi := hidx x.w.imm
  match s.check x.c (x.res s) x.sid hi x.off 1 1 .watch ctrSpaces true 0 with
  | .error e => barBody s hi x.off 0 e
  | .ok (s, a) =>
    let line := a.place / 64
    let k := s.core x.c
    if k.monitors.any (fun m => m.slot == x.k && m.bad) then .gone (s.raiseOpen x.c x.k 0x16)
    else if k.monitors.any (fun m => m.slot == x.k && m.home == line) then .ok { s }
    else
      let k := match k.monitors with
        | m :: t => if 64 ≤ k.monitors.length then ({ k with monitors := t } : Core).evicted m else k
        | [] => k
      .ok { s := s.setCore x.c { k with monitors := k.monitors ++ [{ home := line, slot := x.k, dir := a.dir }] } }

/-- Lines that a directory holds. -/
def dirSize (d : Nat) : Nat := if d < 1000 then 1024 else 256

/-- The lines of a directory, oldest first. -/
def State.dirLines (s : State) (d : Nat) : List Nat := if d < 1000 then mgetD (s.die (d / 48)).dirs (d % 48) [] else (s.core (d - 1000)).dir
def State.setDirLines (s : State) (d : Nat) (xs : List Nat) : State :=
  if d < 1000 then
    let e := s.die (d / 48)
    s.setDie (d / 48) { e with dirs := mset e.dirs (d % 48) xs }
  else s.setCore (d - 1000) { s.core (d - 1000) with dir := xs }

/-- Whether any core monitors a line. -/
def State.monitored (s : State) (line : Nat) : Bool := s.cores.any fun c => c.2.monitors.any fun m => m.registered && m.home == line

/-- Evict a line: every firing registered on it is marked overflowed, its monitor gone (R196). -/
def Core.evictLine (x : Core) (line : Nat) : Core :=
  let ms := x.monitors.filter fun m => m.registered && m.home == line
  if ms.isEmpty then x
  else ms.foldl Core.evicted { x with monitors := x.monitors.filter fun m => !(m.registered && m.home == line) }

def State.evictAll (s : State) (line : Nat) : State := { s with cores := s.cores.map fun c => (c.1, c.2.evictLine line) }

/-- Register a line in a directory; a full one evicts its earliest line. -/
def State.dirPut (s : State) (d line : Nat) : State :=
  let xs := (s.dirLines d).filter fun l => l == line || s.monitored l
  if xs.contains line then s.setDirLines d xs
  else
    match xs with
    | l :: t =>
      if dirSize d ≤ xs.length then
        (s.evictAll l).setDirLines d (t ++ [line])
      else s.setDirLines d (xs ++ [line])
    | [] => s.setDirLines d [line]

/-- `MON_REGISTERED`: the home registers the oldest such line of the slot, and the `MON` completes. -/
def execMonRegistered (s : State) : Host.Outcome State Fault Refusal :=
  let c := s.cur.core
  let k := s.cur.slot
  .next (match (s.core c).unregistered k with
    | none => s
    | some m =>
      let s := s.dirPut m.dir m.home
      let x := s.core c
      s.setCore c { x with monitors := x.monitors.map fun q => if q.slot == k && q.home == m.home then { q with registered := true } else q })

/-- The least wake code that holds for a slot (R149); `expired` counts as code 3. -/
def Core.wakeCode (x : Core) (k : Nat) (f : Firing) (expired : Bool) : Option Nat :=
  if f.woken || x.monitors.any (fun m => m.slot == k && m.fired) then some 0
  else if f.overflow then some 1
  else if f.restored then some 2
  else if expired || !x.monitors.any (fun m => m.slot == k) then some 3
  else none

/-- A counter that stays at its greatest value. -/
def bump (x : Word) : Word := if x = BitVec.allOnes 64 then x else x + 1

/-- Return a wake code: the spurious ones counted (R198), the monitors disarmed. -/
def State.mwaitReturn (s : State) (c k code : Nat) : State :=
  let x := s.core c
  let x : Core := match code with
    | 1 => { x with monspo := bump x.monspo }
    | 2 => { x with monspr := bump x.monspr }
    | 3 => { x with monspt := bump x.monspt }
    | _ => x
  let s := s.setCore c (x.disarm k)
  match s.firing c k with
  | none => s
  | some f => s.setFiring c k { f with overflow := false, restored := false, woken := false }

/-- `MWAIT` (R149). -/
def mwaitBody (x : Ctx) (s : State) : Body :=
  let k := s.core x.c
  if k.monitors.any (fun m => m.slot == x.k && m.bad) then .gone (s.raiseOpen x.c x.k 0x16)
  else if (k.unregistered x.k).isSome then .wait s
  else match k.wakeCode x.k x.f (x.g x.w.a == 0) with
    | some code => .ok { s := s.mwaitReturn x.c x.k code, writes := [.g x.w.d (wd code)] }
    | none => .block { s } (.mwait (deadlineOf s.clk (x.g x.w.a)) x.w.d)

/-- Whether an `MWAIT`'s time ran out in an earlier clock. -/
def Firing.mwaitExpired (f : Firing) (clk : Nat) : Bool :=
  match f.wait with
  | .mwait (some d) _ => d < clk
  | _ => false

/-- End an `MWAIT` with the code that holds. -/
def State.mwaitEnd (s : State) (c k : Nat) (expired : Bool) : State :=
  match s.firing c k with
  | none => s
  | some f => match f.wait with
    | .mwait _ d => match (s.core c).wakeCode k f expired with
      | some code => (s.mwaitReturn c k code).endWait c k [.g d (wd code)]
      | none => s
    | _ => s

/-- `MWAIT_WAKE`. -/
def execMwaitWake (s : State) : Host.Outcome State Fault Refusal := .next (s.mwaitEnd s.cur.core s.cur.slot false)

/-- `MWAIT_TIMEOUT`. -/
def execMwaitTimeout (s : State) : Host.Outcome State Fault Refusal :=
  let c := s.cur.core
  let k := s.cur.slot
  .next (match s.firing c k with
    | none => s
    | some f => if f.mwaitExpired s.clk then s.mwaitEnd c k true else s)

def execCadd (w : Tolog) (s : State) := issue 0x49 w s caddBody
def execCaddFab (w : Tolog) (s : State) := issue 0x49 w s caddFabBody
def execCwait (w : Tolog) (s : State) := issue 0x4A w s cwaitBody
def execCread (w : Tolog) (s : State) := issue 0x4B w s creadBody
def execMon (w : Tolog) (s : State) := issue 0x4C w s monBody
def execMwait (w : Tolog) (s : State) := issue 0x4D w s mwaitBody

end Sys2Proof.Machine
end

