-- ==== Sys2Proof/Machine/Engines.lean ====
section
/-! DEFINITION. Chains of the matrix array and the copy engine, and the instructions that append to them and control them:
opcodes 0xC0 to 0xCF (R187 to R189, R206, R214 to R226, R231, R232, R238 to R240). -/

namespace Sys2Proof.Machine

/-! ### Chains (R215, R216) -/

/-- The array's chain or the copy engine's of a resident task. -/
def Resident.chain (r : Resident) (arr : Bool) : Chain := if arr then r.achain else r.cchain
def Resident.setChain (r : Resident) (arr : Bool) (c : Chain) : Resident := if arr then { r with achain := c } else { r with cchain := c }

def State.chain (s : State) (c rti : Nat) (arr : Bool) : Chain := ((s.resident c rti).map (·.chain arr)).getD {}
def State.setChain (s : State) (c rti : Nat) (arr : Bool) (x : Chain) : State :=
  match s.resident c rti with
  | some r => s.setResident c rti (r.setChain arr x)
  | none => s

/-- Scratchpad address of the slot of entry `n`. -/
def Chain.slotAt (x : Chain) (n : Nat) : Nat := fld x.cfg 13 0 * 64 + (n - 1) % x.size * 64

/-- The tag of entry `n`. -/
def Chain.tag (x : Chain) (n : Nat) : Option EntryTag := x.tags.find? (·.seq == n)

/-- Whether entry `n` has been appended and has not completed. -/
def Chain.pending (x : Chain) (n : Nat) : Bool := x.tags.any fun t => t.seq == n && !t.finished

/-- Whether entry `n` has completed. -/
def Chain.completed (x : Chain) (n : Nat) : Bool := n ≤ x.done || x.tags.any fun t => t.seq == n && t.finished

/-- Replace the tag of an entry. -/
def Chain.put (x : Chain) (t : EntryTag) : Chain := { x with tags := x.tags.map fun y => if y.seq == t.seq then t else y }

/-- Take the finished entries at the head off: the completed sequence and what is left (R216). -/
def publishTags (done : Nat) (ts : List EntryTag) : Nat × List EntryTag :=
  match ts with
  | [] => (done, [])
  | t :: r => if t.finished && t.seq == done + 1 then publishTags t.seq r else (done, t :: r)

def Chain.publish (x : Chain) : Chain :=
  let (d, ts) := publishTags x.done x.tags
  { x with done := d, tags := ts }

/-- End the `CHWAIT`s of a chain that now hold (R226). -/
def State.wakeChain (s : State) (c rti : Nat) (arr : Bool) : State :=
  let ch := s.chain c rti arr
  (List.range 8).foldl (fun s k =>
    match s.firing c k with
    | none => s
    | some f => match f.wait with
      | .chwait e t => if f.rti == rti && (e == 0) == arr && (t.toNat ≤ ch.done || ch.halted.isSome) then s.endWait c k [] else s
      | _ => s) s

/-! ### Appending (R217 to R219, R231) -/

/-- The formats of all banks, as a command captures them (R189). -/
def Core.formats (x : Core) : Formats := (List.range 16).zip x.bfmt.toList

/-- The captured format word of a bank. -/
def EntryTag.fmtWord (t : EntryTag) (b : Nat) : Word := mgetD t.formats b 0

/-- The tag of an entry that the chain takes now: an array entry with `FOL` is held until the copy that word 5 names has completed, be it appended
later (R231). -/
def State.newTag (s : State) (c : Nat) (r : Resident) (arr : Bool) (n : Nat) (w0 w5 : Word) : EntryTag :=
  { seq := n, formats := (s.core c).formats, folDone := !(arr && bit w0 53 && !r.cchain.completed w5.toNat),
    sid := ((s.task r.task).map (·.sid)).getD 0 }

/-- Set `FOL` of copy entry `n`, where one is held on it (R231). -/
def State.markFol (s : State) (c rti n : Nat) : State :=
  let x := s.chain c rti false
  if x.pending n then
    let a := Loc.sp c (x.slotAt n + 6)
    s.homeWrite 0 a [memGet s.mem a ||| 0x20]
  else s

/-- Append the eight words of an entry to a chain with room: the sequence number and the state. -/
def State.appendEntry (s : State) (c rti : Nat) (arr : Bool) (ws : List Word) (f : EntryTag → EntryTag) : Nat × State :=
  match s.resident c rti with
  | none => (0, s)
  | some r =>
    let x := r.chain arr
    let n := x.tail + 1
    let w0 := ws.getD 0 0
    let w5 := ws.getD 5 0
    let t := f (s.newTag c r arr n w0 w5)
    let s := s.homeWrite 0 (Loc.sp c (x.slotAt n)) (ws.flatMap fun w => leBytes 8 w.toNat)
    let s := if arr && bit w0 53 then s.markFol c rti w5.toNat else s
    (n, s.setChain c rti arr { x with tail := n, tags := x.tags ++ [t] })

/-- Word 0 of an entry that a firing appends (R217, R219). -/
def entryWord0 (f : Firing) (op : Nat) (gate rec fol : Bool) (rm : Nat) (sat x : Bool) : Word :=
  wd (op * 2 ^ 56 + (if gate then 2 ^ 55 else 0) + (if rec then 2 ^ 54 else 0) + (if fol then 2 ^ 53 else 0) + rm * 2 ^ 50 +
      (if sat then 2 ^ 49 else 0) + (if x then 2 ^ 48 else 0) + fld f.fmode 7 0 * 2 ^ 40 + fld f.fseed 31 0)

/-- What an appending instruction puts into its entry beside the common fields. -/
structure Entry0 where
  rm  : Nat := 0
  sat : Bool := false
  x   : Bool := false
  w1  : Word := 0
  w2  : Word := 0
  w3  : Word := 0
  w5  : Word := 0
  w6  : Word := 0
  bad : Bool := false
  /-- The sequence number goes to `g[D]`. -/
  ret : Bool := true

/-- An appending instruction (R218, R219): `op` is the entry's, `arr` its engine. -/
def appendBody (arr : Bool) (op : Nat) (e : Ctx → Entry0) (x : Ctx) (s : State) : Body :=
  let r := x.res s
  if arr && !r.arr then .trap 0x12 0 0
  else if (r.chain arr).room = 0 then .wait s
  else match s.firing x.c x.k with
    | none => .gone s
    | some f =>
      let o := e x
      let q := f.lastCopy.getD 0
      let fol := arr && x.w.mod.getLsbD 7 && f.lastCopy.isSome && r.cchain.pending q
      let w0 := entryWord0 f op (x.w.mod.getLsbD 5) (x.w.mod.getLsbD 6) fol o.rm o.sat o.x
      let ws := [w0, o.w1, o.w2, o.w3, x.g x.w.e, if fol then wd q else o.w5, o.w6, 0]
      let (n, s) := s.appendEntry x.c f.rti arr ws fun t => { t with slot := some x.k, actor := f.actor, bad := o.bad, sid := x.sid }
      let s := if arr then s else s.setFiring x.c x.k { f with lastCopy := some n }
      .ok { s, writes := if o.ret then [.g x.w.d (wd n)] else [] }

/-- `[ga + disp]` of the array instructions (R232). -/
def Ctx.spAddr (x : Ctx) : Word := x.g x.w.a + sext32 x.w.imm

/-- The rounding field and `SAT` of `MDRAIN` and the copies. -/
def Ctx.rm4 (x : Ctx) : Nat := (x.w.mod.extractLsb' 2 3).toNat
def Ctx.sat1 (x : Ctx) : Bool := x.w.mod.getLsbD 1

/-- The words of a copy entry (R239, R240); an operand beyond its field is `ENTRY` when the entry executes. -/
def copyEntry (two : Bool) (x : Ctx) : Entry0 :=
  let d := x.g x.w.a
  let t := x.g x.w.b
  let base : Entry0 := { rm := x.rm4, sat := x.sat1, w1 := wd (fld x.w.imm 7 0 * 2 ^ 56 + fld d 55 0),
                         w2 := wd (fld x.w.imm 15 8 * 2 ^ 56 + fld t 55 0), bad := fld d 63 56 != 0 || fld t 63 56 != 0 }
  if two then { base with w5 := wd (fld x.w.imm 35 16 + fld x.w.imm 47 36 * 2 ^ 20), w6 := x.g x.w.c }
  else { base with w3 := x.g x.w.c }

def execMwld (w : Tolog) (s : State) := issue 0xC0 w s (appendBody true 0x01 fun x => { w1 := x.spAddr })
def execMswap (w : Tolog) (s : State) := issue 0xC1 w s (appendBody true 0x02 fun _ => { ret := false })
def execMstrm (w : Tolog) (s : State) := issue 0xC2 w s (appendBody true 0x03 fun x =>
  { x := x.w.mod.getLsbD 0, w1 := x.spAddr, w2 := x.g x.w.b })
def execMdrain (w : Tolog) (s : State) := issue 0xC3 w s (appendBody true 0x04 fun x =>
  { rm := x.rm4, sat := x.sat1, x := x.w.mod.getLsbD 0, w1 := x.spAddr, w2 := x.g x.w.b, w3 := x.g x.w.c })
def execMzero (w : Tolog) (s : State) := issue 0xC4 w s (appendBody true 0x05 fun x => { w2 := wd (x.w.b.toNat * 256) })
def execMspmap (w : Tolog) (s : State) := issue 0xC5 w s (appendBody true 0x06 fun x =>
  { x := x.w.mod.getLsbD 0, w1 := x.g x.w.a, w3 := wd (fld x.w.imm 31 0) })
def execCpy (w : Tolog) (s : State) := issue 0xC6 w s (appendBody false 0x10 (copyEntry false))
def execCpy2d (w : Tolog) (s : State) := issue 0xC7 w s (appendBody false 0x11 (copyEntry true))

/-! ### Chain control (R223, R226) -/

/-- An engine's completion record (R200). -/
def engineRecord (status eng : Nat) (flags : BitVec 7) (fol : Bool) (task seq done : Nat) (val : Word) : EvRecord :=
  { w0 := wd (0x01 * 2 ^ 56 + status % 256 * 2 ^ 48 + eng % 16 * 2 ^ 44 + (if flags.getLsbD 6 then 2 ^ 43 else 0) +
              (if flags.getLsbD 5 then 2 ^ 42 else 0) + (if flags.getLsbD 4 then 2 ^ 41 else 0) + (if flags.getLsbD 3 then 2 ^ 40 else 0) +
              (if flags.getLsbD 2 then 2 ^ 39 else 0) + (if flags.getLsbD 1 then 2 ^ 38 else 0) + (if flags.getLsbD 0 then 2 ^ 37 else 0) +
              (if fol then 2 ^ 36 else 0) + task % 2 ^ 32)
    w1 := wd seq, w2 := wd done, w3 := val }

/-- Complete an entry with status `SKIP`: its record, no counter add (R223). -/
def State.skipEntry (s : State) (c rti : Nat) (arr : Bool) (t : EntryTag) : State :=
  let x := s.chain c rti arr
  let task := ((s.resident c rti).map (·.task)).getD 0
  let s := s.setChain c rti arr ({ x with halted := none } : Chain).publish
  let x := s.chain c rti arr
  let s := s.setChain c rti arr (x.put { t with finished := true, status := 0x0B }).publish
  (s.post c (engineRecord 0x0B (if arr then 0 else 1) t.flags false task t.seq t.done 0)).wakeChain c rti arr

/-- Whether entry `t` of the array chain is held on copy `n`. -/
def State.heldOn (s : State) (c rti : Nat) (t : EntryTag) (n : Nat) : Bool :=
  let a := Loc.sp c ((s.chain c rti true).slotAt t.seq)
  !t.folDone && ofLe (memRead s.mem (a + 0x28) 8) == n

/-- Mark the array entries held on a skipped copy: each completes with `SKIP` at the head of its chain (R223). -/
def State.skipHeld (s : State) (c rti n : Nat) : State :=
  let x := s.chain c rti true
  s.setChain c rti true { x with tags := x.tags.map fun t => if s.heldOn c rti t n then { t with skipped := true, folDone := true } else t }

/-- Clear a chain's halt (R223). -/
def State.unhalt (s : State) (c rti : Nat) (arr skip : Bool) : State :=
  let x := s.chain c rti arr
  match x.halted with
  | none => s
  | some n =>
    match x.tag n with
    | none => s.setChain c rti arr { x with halted := none }
    | some t =>
      if skip then
        let s := s.skipEntry c rti arr t
        if arr then s else s.skipHeld c rti n
      else
        let kept : SMap Reply := t.replies.filter fun (r : Nat × Reply) => r.2.cause == 0
        let again : EntryTag := { t with started := false, held := false, status := 0, issued := [], sides := none, source := none }
        s.setChain c rti arr ({ x with halted := none }.put { again with replies := kept, asked := kept.map fun (r : Nat × Reply) => r.1 })

/-- Publish `n` entries that a firing has written into the slots after the tail (R225, R226). -/
def State.publishEntries (s : State) (c rti : Nat) (arr : Bool) (n : Nat) : State :=
  match n with
  | 0 => s
  | k + 1 =>
    match s.resident c rti with
    | none => s
    | some r =>
      let x := r.chain arr
      let m := x.tail + 1
      let a := Loc.sp c (x.slotAt m)
      let w0 := wordOf (memRead s.mem a 8)
      let w5 := wordOf (memRead s.mem (a + 0x28) 8)
      let t := s.newTag c r arr m w0 w5
      let s := if arr && bit w0 53 then s.markFol c rti w5.toNat else s
      (s.setChain c rti arr { x with tail := m, tags := x.tags ++ [t] }).publishEntries c rti arr k

/-- The engine of `MOD[0]`. -/
def Ctx.arrEng (x : Ctx) : Bool := !x.w.mod.getLsbD 0

/-- `CHTAIL`. -/
def chtailBody (x : Ctx) (s : State) : Body :=
  let arr := x.arrEng
  let r := x.res s
  let n := (x.g x.w.a).toNat
  if arr && !r.arr then .trap 0x12 0 0
  else if (r.chain arr).room < n then .trap 0x08 (if arr then 0x120 else 0x121) 0
  else .ok { s := (s.unhalt x.c x.f.rti arr (x.w.mod.getLsbD 1)).publishEntries x.c x.f.rti arr n }

/-- `CHSEQ`. -/
def chseqBody (x : Ctx) (s : State) : Body :=
  let arr := x.arrEng
  let r := x.res s
  let ch := r.chain arr
  .ok { s, writes := [.g x.w.d (if arr && !r.arr then 0 else if x.w.mod.getLsbD 1 then wd (ch.halted.getD 0) else wd ch.done)] }

/-- `CHWAIT`. -/
def chwaitBody (x : Ctx) (s : State) : Body :=
  let arr := x.arrEng
  let r := x.res s
  let ch := r.chain arr
  let t := x.g x.w.a
  if (arr && !r.arr) || t.toNat ≤ ch.done || ch.halted.isSome then .ok { s }
  else .block { s } (.chwait (if arr then 0 else 1) t)

/-! ### The crossbar's registers (R206, R226) -/

/-- The value of a crossbar register. -/
def Xbar.get (x : Xbar) (i : Nat) : Word :=
  if h : i < 16 then x.counters[i]
  else if h : i - 16 < 8 then x.terms[i - 16]
  else if h : i - 24 < 16 then x.starts[i - 24]
  else if i = 0x28 then x.timer
  else x.overrun.zeroExtend 64

/-- Whether a write of a crossbar register is refused. -/
def State.xbarRefuses (s : State) (c task i : Nat) (v : Word) : Bool :=
  if i < 16 then fld v 63 22 != 0 || fld v 15 8 == 0
  else if i < 24 then false
  else if i < 40 then
    fld v 63 16 != 0 || fld v 5 2 != 0 ||
    (if i < 28 then fld v 11 6 != 0 || fld v 1 0 != 0
     else match s.actorOf c task (fld v 11 6) with
      | some (_, a) => !(a.ins.any fun q => q.ch == fld v 1 0)
      | none => true)
  else if i = 0x28 then fld v 63 32 != 0
  else true

/-- A crossbar register written at clock `clk`. -/
def Xbar.set (x : Xbar) (clk i : Nat) (v : Word) : Xbar :=
  if h : i < 16 then { x with counters := x.counters.set i v }
  else if h : i - 16 < 8 then { x with terms := x.terms.set (i - 16) v }
  else if h : i - 24 < 16 then { x with starts := x.starts.set (i - 24) v }
  else { x with timer := v, timerAt := clk + fld v 31 0 }

/-- The register index of `XBARW` and `XBARR`. -/
def Ctx.xidx (x : Ctx) : Nat := fld x.w.imm 7 0

def xbarwBody (x : Ctx) (s : State) : Body :=
  let r := x.res s
  let i := x.xidx
  let v := x.g x.w.a
  if !r.xbar || s.xbarRefuses x.c r.task i v then .trap 0x08 (wd i) 0
  else
    let k := s.core x.c
    .ok { s := s.setCore x.c { k with xbar := k.xbar.set s.clk i v } }

def xbarrBody (x : Ctx) (s : State) : Body :=
  let r := x.res s
  let i := x.xidx
  if !r.xbar || 0x29 < i then .trap 0x08 (wd i) 0
  else
    let k := s.core x.c
    let s' := if i = 0x29 then s.setCore x.c { k with xbar := { k.xbar with overrun := 0 } } else s
    .ok { s := s', writes := [.g x.w.d (k.xbar.get i)] }

/-! ### Formats, helpers and the event queue -/

/-- Whether a value of `BFMT` is refused (R187). -/
def bfmtRefuses (v : Word) : Bool :=
  let e := fld v 7 4
  let m := fld v 9 8
  fld v 63 44 != 0 || fld v 31 12 != 0 || fld v 3 0 != 0 || 14 ≤ e || fld v 11 10 == 3 || (m == 0 && fld v 43 32 != 0) ||
  (m != 0 && !(4 ≤ e && e ≤ 9))

/-- `BFMT` (R187, R188). -/
def bfmtBody (x : Ctx) (s : State) : Body :=
  let b := x.w.b.toNat
  let r := x.res s
  let v := x.g x.w.a
  if bfmtRefuses v || !(r.spBase ≤ b * 65536 && (b + 1) * 65536 ≤ r.spBase + r.spSize) then .trap 0x08 (wd (0x100 + b)) 0
  else
    let k := s.core x.c
    .ok { s := s.setCore x.c (if h : b < 16 then { k with bfmt := k.bfmt.set b v } else k) }

/-- Set wake cause [2] of a helper (R204). -/
def Core.callHelper (x : Core) (h : Nat) : Core := if q : h < 2 then { x with helpers := x.helpers.set h { x.helpers[h] with wake2 := true } } else x

/-- `HELP`. -/
def helpBody (x : Ctx) (s : State) : Body :=
  let k := s.core x.c
  let k := if x.w.mod.getLsbD 0 then k.callHelper 0 else k
  .ok { s := s.setCore x.c (if x.w.mod.getLsbD 1 then k.callHelper 1 else k) }

/-- The record's 32 bytes. -/
def EvRecord.bytes (r : EvRecord) : List Byte := [r.w0, r.w1, r.w2, r.w3].flatMap fun w => leBytes 8 w.toNat

/-- Whether a record is of a task: a helper halt names none (R199). -/
def EvRecord.ofTask (r : EvRecord) (t : Nat) : Bool := fld r.w0 31 0 == t && fld r.w0 63 56 != 4

/-- `EVQR`. -/
def evqrBody (x : Ctx) (s : State) : Body :=
  match s.popEvent x.c (·.ofTask (x.task s)) with
  | (none, s) => .ok { s, writes := [vAll x.w.d 0] }
  | (some r, u) => if r.psn then .gone (s.raiseOpen x.c x.k 0x16) else .ok { s := u, writes := [vAll x.w.d (entryOf r.bytes)] }

def execChtail (w : Tolog) (s : State) := issue 0xC8 w s chtailBody
def execChseq (w : Tolog) (s : State) := issue 0xC9 w s chseqBody
def execChwait (w : Tolog) (s : State) := issue 0xCA w s chwaitBody
def execXbarw (w : Tolog) (s : State) := issue 0xCB w s xbarwBody
def execXbarr (w : Tolog) (s : State) := issue 0xCC w s xbarrBody
def execBfmt (w : Tolog) (s : State) := issue 0xCD w s bfmtBody
def execHelp (w : Tolog) (s : State) := issue 0xCE w s helpBody
def execEvqr (w : Tolog) (s : State) := issue 0xCF w s evqrBody

end Sys2Proof.Machine
end

