-- ==== Sys2Proof/Machine/Operands.lean ====
section
/-! DEFINITION. Vector operands: elements (R155), active lanes (R156), and results written to the active lanes (R158). -/

namespace Sys2Proof.Machine

/-- Element `e` of width `w` of a bit space (R155). -/
def elem (v : VReg) (w e : Nat) : Nat := (v.extractLsb' (e * w) w).toNat

/-- The number whose elements of width `w` are the list's, the first lowest. -/
def packN (w : Nat) (xs : List Nat) : Nat :=
  match xs with
  | [] => 0
  | x :: t => x % 2 ^ w + 2 ^ w * packN w t

/-- A register from its elements. -/
def packV (w : Nat) (xs : List Nat) : VReg := BitVec.ofNat 8192 (packN w xs)

/-- Lanes and elements of the firing's registers. -/
def Ctx.lanes (x : Ctx) : Nat := x.f.lanes
def Ctx.count (x : Ctx) (w : Nat) : Nat := x.lanes * 32 / w

/-- Whether lane `i`, and the lane of element `e`, is active. -/
def Ctx.on (x : Ctx) (i : Nat) : Bool := x.active.getLsbD i
def Ctx.onE (x : Ctx) (w e : Nat) : Bool := x.on (e * w / 32)

/-- The bits of the active lanes; `bits` are those written in each. -/
def Ctx.mask (x : Ctx) (bits : Nat) : VReg :=
  packV 32 ((List.range x.lanes).map fun i => if x.on i then bits else 0)

/-- All bits of the active lanes. -/
def Ctx.fullMask (x : Ctx) : VReg := x.mask 0xFFFFFFFF

/-- The elements `f` gives, to the active lanes of `v[D]`. -/
def Ctx.vec (x : Ctx) (w : Nat) (f : Nat → Nat) : List RegWrite :=
  [.v x.w.d.toNat (packV w ((List.range (x.count w)).map f)) x.fullMask]

/-- The width of `MOD[1:0]` (R22). -/
def Ctx.ew (x : Ctx) : Nat := 8 * 2 ^ (x.w.mod.extractLsb' 0 2).toNat

/-- `N` of the vector layouts: unsigned; `MOD[3]`; `SAT`. -/
def Ctx.un (x : Ctx) : Bool := x.w.mod.getLsbD 2
def Ctx.m3 (x : Ctx) : Bool := x.w.mod.getLsbD 3
def Ctx.sat (x : Ctx) : Bool := x.w.mod.getLsbD 6

/-- Element `e` of a source, read S/U. -/
def Ctx.ie (x : Ctx) (u : Bool) (r : BitVec 6) (e : Nat) : Int := readInt u x.ew (elem (x.v r) x.ew e)

/-- A result of an integer operation on elements of width `w`. -/
def Ctx.ivec (x : Ctx) (f : Nat → Int) : List RegWrite :=
  let w := x.ew
  x.vec w fun e => if x.onE w e then wrapInt w (f e) else 0

/-- The active elements of width `w`, in ascending order. -/
def Ctx.actives (x : Ctx) (w : Nat) : List Nat := (List.range (x.count w)).filter (x.onE w)

end Sys2Proof.Machine
end

