-- ==== Sys2Proof/Machine/VectorFloat.lean ====
section
/-! DEFINITION. Vector floating instructions, opcodes 0x80 to 0x99 (R167 to R173). -/

namespace Sys2Proof.Machine

/-! ### Fields -/

/-- Format, its width, rounding field and the mode of an arithmetic instruction (R22, R59). -/
def Ctx.fm (x : Ctx) : Nat := (x.w.mod.extractLsb' 0 3).toNat
def Ctx.fw (x : Ctx) : Nat := (fmtOf x.fm).width
def Ctx.rmField (x : Ctx) : Nat := (x.w.mod.extractLsb' 3 3).toNat
def Ctx.mode (x : Ctx) : Nat := arithMode x.f.fmode x.rmField
def Ctx.ftz (x : Ctx) : Bool := ftzOf x.f.fmode

/-- Element `e` of a source, decoded (R66). -/
def Ctx.fe (x : Ctx) (r : BitVec 6) (e : Nat) : Ex := decodeF x.fm x.ftz (elem (x.v r) x.fw e)

/-- An exact result in the instruction's format, with the flags that led to it (R66, R167). -/
def Ctx.round (x : Ctx) (r : Ex × BitVec 7) : Nat × BitVec 7 :=
  let (c, fl) := convertF x.fm x.mode x.sat x.ftz 0 r.1
  (c, fl ||| r.2)

/-- A result without rounding: of an operation that yields one of its operands. -/
def Ctx.exact (x : Ctx) (r : Ex) : Nat × BitVec 7 := convertF x.fm 0 x.sat x.ftz 0 r

/-! ### Bodies -/

/-- OR of the flags of a list. -/
def orFlags (xs : List (Nat × BitVec 7)) : BitVec 7 := xs.foldl (fun a y => a ||| y.2) 0

/-- The elements that `f` gives, with their flags, in the active lanes (R158). -/
def fpBody (f : Ctx → Nat → Nat × BitVec 7) (x : Ctx) (s : State) : Body :=
  let w := x.fw
  let ys := (List.range (x.count w)).map fun e => if x.onE w e then f x e else (0, 0)
  .ok { s, writes := [.v x.w.d.toNat (packV w (ys.map (·.1))) x.fullMask], flags := orFlags ys }

/-- An operation on one or two exact operands, rounded once. -/
def fp1 (f : Ex → Ex × BitVec 7) : Ctx → State → Body := fpBody fun x e => x.round (f (x.fe x.w.a e))
def fp2 (f : Nat → Ex → Ex → Ex × BitVec 7) : Ctx → State → Body :=
  fpBody fun x e => x.round (f x.mode (x.fe x.w.a e) (x.fe x.w.b e))

/-- `VFMA` of one element: one rounding (R71); 0 × ∞ is invalid whatever c is (R167). -/
def fma (mode : Nat) (a b c : Ex) : Ex × BitVec 7 :=
  let (p, fl) := a.mul b
  let (t, fl') := exSum mode [p, c]
  (t, fl ||| fl')

/-- The smaller and the larger of two values; −0 is below +0. -/
def exMin (a b : Ex) : Ex := if a.isNan || b.isNan then .nan else if b.lt true a then b else a
def exMax (a b : Ex) : Ex := if a.isNan || b.isNan then .nan else if a.lt true b then b else a

/-- `VFNEG` (R167). -/
def fneg (op : Nat) (a : Ex) : Ex :=
  match op with
  | 0 => a.flip
  | 1 => if a.neg then a.flip else a
  | _ => if a.neg then a else a.flip

/-- The conditions of `VFCMP` (R167). -/
def fcmp (cc : Nat) (a b : Ex) : Bool :=
  if a.isNan || b.isNan then cc == 1 || cc == 6
  else match cc with
    | 0 => a.same b
    | 1 => !a.same b
    | 2 => a.lt false b
    | 3 => a.lt false b || a.same b
    | 4 => b.lt false a
    | 5 => b.lt false a || a.same b
    | _ => false

/-- `VFCLASS` of a raw code (R167). -/
def fclass (c x : Nat) : Nat :=
  let f := fmtOf c
  let mag := x % 2 ^ (f.width - 1)
  match decodeF c false x with
  | .nan => 256
  | .inf n => if n then 1 else 128
  | .fin n p _ =>
    if p = 0 then (if n then 8 else 16)
    else if mag < 2 ^ f.mant then (if n then 4 else 32)
    else if n then 2 else 64

/-- `VFSCALE` of one element (R167): infinities and zeros are kept. -/
def fscale (x : Ctx) (e : Nat) : Nat × BitVec 7 :=
  let b := readInt false x.fw (elem (x.v x.w.b) x.fw e)
  match x.fe x.w.a e with
  | .fin n p q => x.round ((Ex.fin n p q).scale b, 0)
  | y => (specialFate x.fm false y).1 |> fun c => (c, 0)

/-! ### Reductions (R169, R71) -/

/-- One level of the pairwise tree. -/
def pairUp (f : Ex → Ex → Ex × BitVec 7) (xs : List Ex) : List Ex × BitVec 7 :=
  match xs with
  | a :: b :: t =>
    let (r, fl) := f a b
    let (rs, fl') := pairUp f t
    (r :: rs, fl ||| fl')
  | xs => (xs, 0)

/-- The tree over a list whose length is a power of two. -/
def tree (f : Ex → Ex → Ex × BitVec 7) (levels : Nat) (xs : List Ex) (fl : BitVec 7) : Ex × BitVec 7 :=
  match levels with
  | 0 => (xs.headD .nan, fl)
  | k + 1 => let (ys, fl') := pairUp f xs; tree f k ys (fl ||| fl')

def vfredBody (x : Ctx) (s : State) : Body :=
  let w := x.fw
  let n := x.count w
  let op := x.w.b.toNat
  let idle : Ex := if op = 0 then .fin true 0 1 else if op = 1 then .inf false else .inf true
  let xs := (List.range n).map fun e => if x.onE w e then x.fe x.w.a e else idle
  let node (a b : Ex) : Ex × BitVec 7 :=
    if op = 0 then
      let (c, fl) := x.round (exSum x.mode [a, b])
      (decodeF x.fm x.ftz c, fl)
    else (if op = 1 then exMin a b else exMax a b, 0)
  let (r, fl) := tree node (Nat.log2 n) xs 0
  let (c, fl') := if op = 0 then x.round (r, 0) else x.exact r
  .ok { s, writes := [.g x.w.d (wd c)], flags := fl ||| fl' }

/-! ### Conversions (R170) -/

/-- The generator of a lane, drawn once (R61): the draw and the new state of all. -/
def draw (gens : VReg) (lane : Nat) : Nat × VReg :=
  let d := xorshift (elem gens 32 lane)
  (d, (gens &&& ~~~(BitVec.ofNat 8192 (0xFFFFFFFF * 2 ^ (32 * lane)))) ||| BitVec.ofNat 8192 (d * 2 ^ (32 * lane)))

/-- One conversion: the destination's first bit and width, the lane that decides its activity, and the source value. -/
structure Conv where
  at_  : Nat
  lane : Nat
  src  : Ex

/-- The conversions of the active elements in ascending order, each drawing once under SR: the bits, the flags, the
generators and the bits written. -/
def convert (x : Ctx) (sr : Bool) (w : Nat) (f : Nat → Ex → Nat × BitVec 7) (cs : List Conv) (gens : VReg) :
    Nat × BitVec 7 × VReg × Nat :=
  match cs with
  | [] => (0, 0, gens, 0)
  | c :: t =>
    if x.on c.lane then
      let (d, gens) := if sr then draw gens c.lane else (0, gens)
      let (v, fl) := f d c.src
      let (vs, fl', gens, m) := convert x sr w f t gens
      (vs ||| (v * 2 ^ c.at_), fl ||| fl', gens, m ||| ((2 ^ w - 1) * 2 ^ c.at_))
    else convert x sr w f t gens

/-- Perform conversions into elements of `w` bits of `v[D]`. -/
def convBody (x : Ctx) (s : State) (mode w : Nat) (f : Nat → Ex → Nat × BitVec 7) (cs : List Conv) : Body :=
  match s.firing x.c x.k with
  | none => .gone s
  | some g =>
    let (v, fl, gens, m) := convert x (mode == 5) w f cs g.gens
    .ok { s := s.setFiring x.c x.k { g with gens }
          writes := [.v x.w.d.toNat (BitVec.ofNat 8192 v) (BitVec.ofNat 8192 m)], flags := fl }

/-- The elements of a conversion between widths, placed by the part index (R170). -/
def placed (x : Ctx) (ws wd_ : Nat) (src : Nat → Ex) : List Conv :=
  let ns := x.count ws
  let nd := x.count wd_
  let q := x.w.c.toNat
  if nd ≤ ns then (List.range nd).map fun e => { at_ := e * wd_, lane := e * wd_ / 32, src := src (q * nd + e) }
  else (List.range ns).map fun e => { at_ := (q * ns + e) * wd_, lane := (q * ns + e) * wd_ / 32, src := src e }

def vfcvtBody (x : Ctx) (s : State) : Body :=
  let mode := convMode x.f.fmode x.rmField
  let sf := x.w.b.toNat
  let sw := (fmtOf sf).width
  convBody x s mode x.fw (fun d y => convertF x.fm mode x.sat x.ftz d y)
    (placed x sw x.fw fun e => decodeF sf x.ftz (elem (x.v x.w.a) sw e))

/-- Width and signedness of an integer type code (R170). -/
def intType (t : Nat) : Nat × Bool := (if t ≤ 1 then 32 else if t ≤ 3 then 16 else 8, t % 2 == 1)

def vicvtBody (x : Ctx) (s : State) : Body :=
  let mode := convMode x.f.fmode x.rmField
  let (iw, u) := intType (x.w.b.toNat % 8)
  if x.w.b.getLsbD 3 then
    convBody x s mode iw (fun d y => toIntF iw u mode d y)
      (placed x x.fw iw fun e => x.fe x.w.a e)
  else
    convBody x s mode x.fw (fun d y => convertF x.fm mode x.sat x.ftz d y)
      (placed x iw x.fw fun e => exInt (readInt u iw (elem (x.v x.w.a) iw e)))

def vfpackBody (x : Ctx) (s : State) : Body :=
  let mode := convMode x.f.fmode x.rmField
  let n := x.lanes
  convBody x s mode x.fw (fun d y => convertF x.fm mode x.sat x.ftz d y)
    ((List.range n).map fun e => { at_ := (x.w.c.toNat * n + e) * x.fw, lane := e, src := decodeF 0 x.ftz (elem (x.v x.w.a) 32 e) })

def vfunpkBody (x : Ctx) (s : State) : Body :=
  let n := x.lanes
  convBody x s 0 32 (fun _ y => ((convertF 0 0 x.sat false 0 y).1, 0))
    ((List.range n).map fun e => { at_ := 32 * e, lane := e, src := decodeF x.fm false (narrow x (x.w.c.toNat * n + e)) })
where
  /-- Narrow element `i` of `v[A]`. -/
  narrow (x : Ctx) (i : Nat) : Nat := ((x.v x.w.a).extractLsb' (i * x.fw) x.fw).toNat

/-! ### MX dot product (R171, R172) -/

/-- The exponent of a narrow format's largest finite value (R172). -/
def emax (f : Nat) : Int :=
  match f with
  | 3 => 8
  | 4 => 15
  | 5 => 4
  | _ => 2

/-- ⌊log2 |x|⌋ of a finite non-zero value. -/
def Ex.log2 (x : Ex) : Option Int :=
  match x with
  | .fin _ p q => if p = 0 then none else some (log2Q p q)
  | _ => none

/-- Whether a block's result is larger than any correct one (R172). -/
def suspect (f bs : Nat) (sa sb r : Ex) : Bool :=
  match r.log2, sa.log2, sb.log2 with
  | some l, some a, some b => (Nat.log2 bs : Int) + emax f + emax f + 2 + a + b < l
  | _, _, _ => false

/-- An FP32 rounding under a mode. -/
def roundS (mode : Nat) (ftz : Bool) (r : Ex × BitVec 7) : Nat × BitVec 7 :=
  let (c, fl) := convertF 0 mode false ftz 0 r.1
  (c, fl ||| r.2)

/-- Block `j` where a scale is infinite: each element takes its scale before it is multiplied (R52, R72; notes/assumptions/119.md). -/
def mxScaled (bs mode : Nat) (a b sa sb : Nat → Ex) (j : Nat) : Ex × BitVec 7 :=
  let ts := (List.range bs).map fun i =>
    let (x, f1) := (a (j * bs + i)).mul (sa j)
    let (y, f2) := (b (j * bs + i)).mul (sb j)
    let (z, f3) := x.mul y
    (z, f1 ||| f2 ||| f3)
  let (t, fl) := exSum mode (ts.map (·.1))
  (t, fl ||| ts.foldl (fun y z => y ||| z.2) 0)

/-- The blocks of a dot product from block `b` on: accumulator code, flags, and whether a block was suspect. -/
def mxBlocks (f bs : Nat) (mode : Nat) (ftz : Bool) (a b : Nat → Ex) (sa sb : Nat → Ex) (j n : Nat) (acc : Nat) (fl : BitVec 7)
    (sus : Bool) : Nat × BitVec 7 × Bool :=
  match n with
  | 0 => (acc, fl, sus)
  | k + 1 =>
    let ps := (List.range bs).map fun i => (a (j * bs + i)).mul (b (j * bs + i))
    let (p, f1) := exSum mode (ps.map (·.1))
    let (sc, f2) := (sa j).mul (sb j)
    let (ps', f3) := if (sa j).isInf || (sb j).isInf then mxScaled bs mode a b sa sb j else p.mul sc
    let (r, f4) := roundS mode ftz (ps', f1 ||| f2 ||| f3 ||| ps.foldl (fun y z => y ||| z.2) 0)
    let (acc', f5) := if j = 0 then (r, 0) else roundS mode ftz (exSum mode [decodeF 0 ftz acc, decodeF 0 ftz r])
    mxBlocks f bs mode ftz a b sa sb (j + 1) k acc' (fl ||| f4 ||| f5) (sus || suspect f bs (sa j) (sb j) (decodeF 0 ftz r))

def vfdotmxBody (x : Ctx) (s : State) : Body :=
  let p := x.g x.w.e
  let w := x.fw
  let bsc := fld p 17 16
  let sf := fld p 19 18
  let nb := fld p 27 20
  let bs := 8 * 2 ^ bsc
  if bsc = 3 || sf = 3 || 64 < nb || 32 * x.lanes < nb * bs * w || fld p 63 28 != 0 then
    .ok { s, writes := [.g x.w.d 0x7FC00000], flags := Fl.nv }
  else
    let a (i : Nat) := decodeF x.fm false ((x.v x.w.a).extractLsb' (i * w) w).toNat
    let b (i : Nat) := decodeF x.fm false ((x.v x.w.b).extractLsb' (i * w) w).toNat
    let sc (i : Nat) := decodeScale sf (elem (x.v x.w.c) 8 i)
    let (acc, fl, sus) := mxBlocks x.fm bs x.mode x.ftz a b sc (fun j => sc (64 + j)) 0 nb 0 0 false
    if sus && bit x.f.fmode 6 then .trap 0x22 0 0
    else
      let (m, f1) := (decodeF 0 x.ftz acc).mul (decodeF 1 x.ftz (fld p 15 0))
      let (r, f2) := roundS x.mode x.ftz (m, f1)
      .ok { s := if sus then s.countSuspect x.c else s, writes := [.g x.w.d (wd r)], flags := fl ||| f2 ||| (if sus then Fl.sus else 0) }

/-! ### Attention triples (R173) -/

/-- A triple (m, l, o) of exact values, and one of FP32 codes. -/
structure Triple where
  m : Ex
  l : Ex
  o : Ex

/-- The weight of a term: `none` where it is dropped. -/
def triWeight (mode : Nat) (ftz : Bool) (mk m : Ex) : Option Ex × BitVec 7 :=
  if mk.same m then (some (.fin false 1 1), 0)
  else if m.isInf || mk.isInf then (none, 0)
  else
    let (c, fl) := roundS mode ftz (expEx (ratAdd mk.rat ((-m.rat.1), m.rat.2)), 0)
    if c = 0 then (none, fl) else (some (decodeF 0 ftz c), fl)

/-- The sum of the kept terms' components, rounded once. -/
def triSum (mode : Nat) (ftz : Bool) (ws : List (Option Ex × Ex)) : Nat × BitVec 7 :=
  let ts := ws.filterMap fun y => y.1.map fun w => w.mul y.2
  let (t, fl) := exSum mode (ts.map (·.1))
  roundS mode ftz (t, fl ||| ts.foldl (fun a y => a ||| y.2) 0)

/-- The merge of two triples with several values o each: the FP32 codes of m, l and every o, and the flags. -/
def triMerge (nanpol : Bool) (mode : Nat) (ftz : Bool) (ma la mb lb : Ex) (os : List (Ex × Ex)) : (Nat × Nat × List Nat) × BitVec 7 :=
  if (ma.isNan || mb.isNan) && !nanpol then ((0x7FC00000, 0x7FC00000, os.map fun _ => 0x7FC00000), 0)
  else
    let ma := if ma.isNan then .inf true else ma
    let mb := if mb.isNan then .inf true else mb
    let m := exMax ma mb
    if m == .inf true then ((0xFF800000, 0, os.map fun _ => 0), 0)
    else
      let (wa, f1) := triWeight mode ftz ma m
      let (wb, f2) := triWeight mode ftz mb m
      let (l, f3) := triSum mode ftz [(wa, la), (wb, lb)]
      let rs := os.map fun o => triSum mode ftz [(wa, o.1), (wb, o.2)]
      (((convertF 0 0 false ftz 0 m).1, l, rs.map (·.1)), rs.foldl (fun a r => a ||| r.2) (f1 ||| f2 ||| f3))

/-- A triple in three registers from `n` on. -/
def Ctx.triple (x : Ctx) (r : BitVec 6) (i : Nat) : Triple :=
  let e (k : Nat) := decodeF 0 x.ftz (elem (x.f.rv (r.toNat + k)) 32 i)
  { m := e 0, l := e 1, o := e 2 }

def vftriBody (x : Ctx) (s : State) : Body :=
  let rs := (List.range x.lanes).map fun i =>
    let a := x.triple x.w.a i
    let b := x.triple x.w.b i
    if x.on i then triMerge (bit x.f.fmode 7) x.mode x.ftz a.m a.l b.m b.l [(a.o, b.o)] else ((0, 0, []), 0)
  let reg (k : Nat) (f : Nat × Nat × List Nat → Nat) : RegWrite := .v (x.w.d.toNat + k) (packV 32 (rs.map fun r => f r.1)) x.fullMask
  .ok { s, writes := [reg 0 fun t => t.1, reg 1 fun t => t.2.1, reg 2 fun t => t.2.2.headD 0],
        flags := rs.foldl (fun a r => a ||| r.2) 0 }

/-! ### The instructions -/

def execVfadd (w : Tolog) (s : State) := issue 0x80 w s (fp2 fun m a b => exSum m [a, b])
def execVfsub (w : Tolog) (s : State) := issue 0x81 w s (fp2 fun m a b => exSum m [a, b.flip])
def execVfmul (w : Tolog) (s : State) := issue 0x82 w s (fp2 fun _ a b => a.mul b)
def execVfma (w : Tolog) (s : State) := issue 0x83 w s (fpBody fun x e => x.round (fma x.mode (x.fe w.a e) (x.fe w.b e) (x.fe w.c e)))
def execVfmin (w : Tolog) (s : State) := issue 0x84 w s (fpBody fun x e => x.exact (exMin (x.fe w.a e) (x.fe w.b e)))
def execVfmax (w : Tolog) (s : State) := issue 0x85 w s (fpBody fun x e => x.exact (exMax (x.fe w.a e) (x.fe w.b e)))
def execVfneg (w : Tolog) (s : State) := issue 0x86 w s (fpBody fun x e => x.exact (fneg x.rmField (x.fe w.a e)))
def execVfcmp (w : Tolog) (s : State) := issue 0x87 w s (fpBody fun x e =>
  (if fcmp x.rmField (x.fe w.a e) (x.fe w.b e) then 2 ^ x.fw - 1 else 0, 0))
def execVfdiv (w : Tolog) (s : State) := issue 0x88 w s (fp2 fun _ a b => a.div b)
def execVfsqrt (w : Tolog) (s : State) := issue 0x89 w s (fp1 Special.sqrt.eval)
def execVfrsq (w : Tolog) (s : State) := issue 0x8A w s (fp1 Special.rsq.eval)
def execVfrcp (w : Tolog) (s : State) := issue 0x8B w s (fp1 Special.rcp.eval)
def execVfexp2 (w : Tolog) (s : State) := issue 0x8C w s (fp1 Special.exp2.eval)
def execVflog2 (w : Tolog) (s : State) := issue 0x8D w s (fp1 Special.log2.eval)
def execVftrig (w : Tolog) (s : State) := issue 0x8E w s (fp1 (if w.b = 0 then Special.sinpi else Special.cospi).eval)
def execVftanh (w : Tolog) (s : State) := issue 0x8F w s (fp1 Special.tanh.eval)
def execVfsig (w : Tolog) (s : State) := issue 0x90 w s (fp1 Special.sig.eval)
def execVfcvt (w : Tolog) (s : State) := issue 0x91 w s vfcvtBody
def execVicvt (w : Tolog) (s : State) := issue 0x92 w s vicvtBody
def execVfdotmx (w : Tolog) (s : State) := issue 0x93 w s vfdotmxBody
def execVfscale (w : Tolog) (s : State) := issue 0x94 w s (fpBody fscale)
def execVfred (w : Tolog) (s : State) := issue 0x95 w s vfredBody
def execVfclass (w : Tolog) (s : State) := issue 0x96 w s (fpBody fun x e => (fclass x.fm (elem (x.v w.a) x.fw e), 0))
def execVftri (w : Tolog) (s : State) := issue 0x97 w s vftriBody
def execVfpack (w : Tolog) (s : State) := issue 0x98 w s vfpackBody
def execVfunpk (w : Tolog) (s : State) := issue 0x99 w s vfunpkBody

end Sys2Proof.Machine
end

