-- ==== Sys2Proof/Machine/ArrayEngine.lean ====
section
/-! DEFINITION. What the matrix array does with an entry: tiles and maps, streaming, draining (R227 to R236). -/

namespace Sys2Proof.Machine

/-! ### Element formats of banks (R187, R190) -/

/-- Width of an element of format code `c`; 0 for raw. -/
def efWidth (c : Nat) : Nat :=
  match c with
  | 1 => 32
  | 2 => 16
  | 3 => 16
  | 4 => 8
  | 5 => 8
  | 6 => 6
  | 7 => 6
  | 8 => 4
  | 9 => 8
  | 10 => 8
  | 11 => 4
  | 12 => 4
  | 13 => 2
  | _ => 0

/-- The value of an element, and `TRSV` for the reserved ternary code (R55). -/
def efDecode (c : Nat) (ftz : Bool) (x : Nat) : Ex × BitVec 7 :=
  if 1 ≤ c && c ≤ 8 then (decodeF (c - 1) ftz x, 0)
  else match c with
    | 9 => (exInt (readInt false 8 x), 0)
    | 11 => (exInt (readInt false 4 x), 0)
    | 13 => if x = 2 then (exInt 0, Fl.trsv) else (exInt (readInt false 2 x), 0)
    | _ => (exInt x, 0)

/-- The code of a value in an element format: `round_to`, `round_to_sat` or `to_int` (R190, R235, R241). -/
def efEncode (c mode : Nat) (sat ftz : Bool) (draw : Nat) (x : Ex) : Nat × BitVec 7 :=
  if 1 ≤ c && c ≤ 8 then convertF (c - 1) mode sat ftz draw x
  else if c = 9 || c = 10 then toIntF 8 (c == 10) mode draw x
  else toIntF 4 (c == 12) mode draw x

/-- Exponent of a format's largest finite value (R172, R234). -/
def efMax (c : Nat) : Int := if c = 9 || c = 10 then 7 else emax (c - 1)

/-- The fields of a format word. -/
def bfEfmt (w : Word) : Nat := fld w 7 4
def bfBs (w : Word) : Nat := if fld w 9 8 = 0 then 0 else 4 * 2 ^ fld w 9 8
def bfSf (w : Word) : Nat := fld w 11 10
def bfSofs (w : Word) : Nat := fld w 43 32

/-- Scratchpad address of the scale of the block that holds data address `a` (R228). -/
def scaleAddr (w : Word) (a : Nat) : Nat := a / 65536 * 65536 + bfSofs w * 16 + a % 65536 / (bfBs w * efWidth (bfEfmt w) / 8)

/-- The format that a format word means; block size and scale format count on an MX side alone (R187, R241). -/
def fmtKind (w : Word) : Nat := if bfEfmt w = 0 || bfBs w = 0 then bfEfmt w else fld w 11 4

/-- Element `i` of width `w` of packed bytes (R6). -/
def elemAt (w : Nat) (x : Nat) (i : Nat) : Nat := x / 2 ^ (i * w) % 2 ^ w

/-! ### Runs of an entry -/

/-- What an engine makes of an entry: status 0 with what it did, a fault, or a wait at a home. -/
structure EOut where
  s : State
  status : Nat := 0
  val : Word := 0
  done : Nat := 0
  flags : BitVec 7 := 0
  sus : Bool := false
  /-- Clocks from start to completion. -/
  time : Nat := 0
  hold : Bool := false
  /-- Status 7 is a fenced home's answer: nothing was consumed (R443). -/
  nack : Bool := false

/-- An array entry in execution: its place, tag, and words. -/
structure EIn where
  c : Nat
  rti : Nat
  r : Resident
  t : EntryTag
  ws : List Word

def EIn.w (e : EIn) (i : Nat) : Word := e.ws.getD i 0
def EIn.op (e : EIn) : Nat := fld (e.w 0) 63 56
def EIn.rm (e : EIn) : Nat := let m := fld (e.w 0) 52 50; if m = 6 then fld (e.w 0) 42 40 else m
def EIn.sat (e : EIn) : Bool := bit (e.w 0) 49
def EIn.x (e : EIn) : Bool := bit (e.w 0) 48
def EIn.ftz (e : EIn) : Bool := bit (e.w 0) 43
def EIn.mxtrap (e : EIn) : Bool := bit (e.w 0) 46
def EIn.seed (e : EIn) : Nat := fld (e.w 0) 31 0

/-- The draw of element `n` under a mode (R62). -/
def EIn.draw (e : EIn) (n : Nat) : Nat := if e.rm = 5 then xorshift (laneSeed e.seed n) else 0

/-- Whether a scratchpad range lies in the task's allotment. -/
def EIn.inside (e : EIn) (a n : Nat) : Bool := e.r.spBase ≤ a && a + n ≤ e.r.spBase + e.r.spSize

/-- A fault of the entry at a scratchpad address (R221). -/
def EIn.fault (e : EIn) (s : State) (status a done : Nat) : EOut := { s, status, val := wd (a % 2 ^ 20), done := max done e.t.done }

/-- The bytes of a scratchpad range as a number. -/
def State.spRead (s : State) (c a n : Nat) : Nat := ofLe (memRead s.mem (Loc.sp c a) n)

/-- The first byte in error of a scratchpad range, by offset. -/
def State.spBad (s : State) (c a n : Nat) : Option Nat :=
  if s.isBad (Loc.sp c a) n then (List.range n).find? fun i => s.isBad (Loc.sp c (a + i)) 1 else none

/-- The format word of the bank of an address. -/
def EIn.bank (e : EIn) (a : Nat) : Word := e.t.fmtWord (a / 65536 % 16)

/-- The format word of a range; `none` where it lies in banks of different formats (notes/assumptions/29.md). -/
def EIn.rangeFmt (e : EIn) (a n : Nat) : Option Word :=
  let f := e.bank a
  if n = 0 || (List.range (min 17 ((a + n - 1) / 65536 - a / 65536 + 1))).all fun i => fmtKind (e.bank ((a / 65536 + i) * 65536)) == fmtKind f then some f
  else none

/-- Where the scale of the block at a scratchpad address stands: in its own bank's scale area (R228). -/
def EIn.scaleAt (e : EIn) (a : Nat) : Nat := scaleAddr (e.bank a) a

/-! ### Maps (R229) -/

/-- Stored rows of a dense tile (R227). -/
def storedK (c : Nat) : Nat :=
  if c = 2 || c = 3 then 64
  else if c = 4 || c = 5 || c = 9 || c = 10 then 128
  else if c = 6 || c = 7 || c = 8 || c = 11 || c = 12 || c = 13 then 256
  else 0

def mapS24 (m : Word) : Bool := bit m 32

/-- Slabs of a tile of format `c` under a map. -/
def slabs (c : Nat) (m : Word) : Nat := (if mapS24 m then 2 else 1) * storedK c / 16

/-- Whether the bitmap marks a slab that the tile does not have. -/
def mapBad (c : Nat) (m : Word) : Bool := !bit m 33 && fld m 31 0 / 2 ^ slabs c m != 0

/-- The live slabs. -/
def liveSlabs (c : Nat) (m : Word) : List Nat := (List.range (slabs c m)).filter fun j => bit m 33 || bit m j

/-- The rows of the whole tile that the stored tile holds, in stored order. -/
def liveRows (c : Nat) (m : Word) : List Nat :=
  let n := if mapS24 m then 8 else 16
  (liveSlabs c m).flatMap fun j => (List.range n).map fun i => j * n + i

/-- Whether live slabs split a block of 32. -/
def splits (c : Nat) (m : Word) : Bool :=
  (List.range (slabs c m / 2)).any fun j => (liveSlabs c m).contains (2 * j) != (liveSlabs c m).contains (2 * j + 1)

/-! ### The operations -/

def State.array (s : State) (c : Nat) : Array := (s.core c).array
def State.setArray (s : State) (c : Nat) (a : Array) : State := s.setCore c { s.core c with array := a }

/-- Bytes of the index area (R229). -/
def idxBytes (c : Nat) (m : Word) : Nat := if mapS24 m then storedK c * 16 else 0

/-- `MWLD`. -/
def mwld (e : EIn) (s : State) : EOut :=
  let a := (e.w 1).toNat
  let x := s.array e.c
  let f := e.bank a
  let c := bfEfmt f
  let m := x.nextMap
  let bs := bfBs f
  let w := efWidth c
  let rows := liveRows c m
  let n := rows.length * 64 * w / 8
  let ib := idxBytes c m
  if e.w 2 != 0 || e.w 3 != 0 then e.fault s 9 a 0
  else if 2 ^ 20 ≤ a then e.fault s 3 a 0
  else if storedK c = 0 then e.fault s 8 a 0
  else if mapBad c m then e.fault s 9 a 0
  else if bs != 0 && (mapS24 m || (bs == 32 && splits c m)) then e.fault s 8 a 0
  else if !e.inside a n then e.fault s 3 a 0
  else if ib != 0 && !e.inside x.nextIdx ib then e.fault s 3 x.nextIdx 0
  else
    let blocks := if bs = 0 then [] else (List.range 64).flatMap fun k => (List.range (rows.length / bs)).map fun b => (b, k)
    let sAt (b k : Nat) : Nat := e.scaleAt (a + (k * rows.length + b * bs) * w / 8)
    match blocks.find? fun b => !e.inside (sAt b.1 b.2) 1 with
    | some b => e.fault s 3 (sAt b.1 b.2) 0
    | none =>
      if a % 16 != 0 then e.fault s 4 a 0
      else if (e.rangeFmt a n).isNone then e.fault s 8 a 0
      else
        match blocks.find? fun b => (s.spBad e.c (sAt b.1 b.2) 1).isSome, s.spBad e.c x.nextIdx ib with
        | some b, _ => e.fault s 7 (sAt b.1 b.2) 0
        | none, some i => e.fault s 7 (x.nextIdx + i) 0
        | none, none =>
          let upto := (s.spBad e.c a n).getD n
          let v := s.spRead e.c a n
          let put (p : SMap (BitVec 16)) : SMap (BitVec 16) :=
            (List.range (rows.length * 64)).foldl (fun p q =>
              if e.t.done * 8 < q * w + w && q * w + w ≤ upto * 8 then mset p (rows.getD (q % rows.length) 0 * 64 + q / rows.length) (BitVec.ofNat 16 (elemAt w v q))
              else p) p
          let iv := s.spRead e.c x.nextIdx ib
          let idx : SMap Nat := if ib = 0 then [] else rows.flatMap fun j => (List.range 64).map fun k => (j * 64 + k, elemAt 2 iv (j * 64 + k))
          let sc : SMap Nat := blocks.foldl (fun p b => mset p (b.1 * 64 + b.2) (s.spRead e.c (sAt b.1 b.2) 1)) []
          let x' : Array := { x with shadow := put (if e.t.done = 0 then [] else x.shadow), shadowFmt := f, shadowMap := m, shadowIdx := idx, shadowScale := sc }
          let s' := s.setArray e.c x'
          if upto < n then e.fault s' 7 (a + upto) (upto * 8 / w * w / 8)
          else { s := s', done := n, time := ceilDiv n 128 + 8 + ceilDiv ib 128 }

/-- `MSWAP`. -/
def mswap (e : EIn) (s : State) : EOut :=
  let x := s.array e.c
  if e.w 1 != 0 || e.w 2 != 0 || e.w 3 != 0 then e.fault s 9 0 0
  else
    let y : Array := { x with active := x.shadow, shadow := x.active, activeFmt := x.shadowFmt, shadowFmt := x.activeFmt,
                              activeMap := x.shadowMap, shadowMap := x.activeMap, activeIdx := x.shadowIdx, shadowIdx := x.activeIdx,
                              activeScale := x.shadowScale, shadowScale := x.activeScale }
    { s := s.setArray e.c y, time := 1 }

/-- The fields of a parameter word (R232), and whether it is within its limits. -/
def pStride (p : Word) : Nat := fld p 43 32 * 16
def pRow0 (p : Word) : Nat := fld p 16 10
def pSet (p : Word) : Nat := fld p 9 8
def pRows (p : Word) : Nat := fld p 7 0
def pOk (p : Word) : Bool := fld p 63 44 == 0 && fld p 31 17 == 0 && 1 ≤ pRows p && pRows p ≤ 128 && pRow0 p + pRows p ≤ 128

/-- Whether the array multiplies the formats (R227). -/
def pairOk (w a : Nat) : Bool :=
  (w == 2 && a == 2) || (w == 3 && a == 3) || ((w == 4 || w == 5) && (a == 4 || a == 5)) || ((w == 9 || w == 10) && (a == 9 || a == 10)) ||
  (6 ≤ w && w ≤ 8 && 6 ≤ a && a ≤ 8) || ((w == 11 || w == 12) && (a == 11 || a == 12)) || (w == 13 && a == 9)

/-- One row's streaming: activation and weight formats and block sizes, activations with their block scales, the plane. -/
structure Row where
  ca : Nat
  cw : Nat
  bsa : Nat
  bsw : Nat
  ftz : Bool
  act : Nat → Nat
  actScale : Nat → Ex
  weight : Nat → Nat
  weightScale : Nat → Ex
  /-- Logical row of each stored row. -/
  ks : List (Nat × Nat)

/-- The product of a pair, with its scales (R52, R233). -/
def Row.term (r : Row) (jk : Nat × Nat) : Ex × BitVec 7 :=
  let (a, f1) := efDecode r.ca r.ftz (r.act jk.2)
  let (w, f2) := efDecode r.cw r.ftz (r.weight jk.1)
  let (a, f3) := if r.bsa = 0 then (a, 0) else a.mul (r.actScale (jk.2 / r.bsa))
  let (w, f4) := if r.bsw = 0 then (w, 0) else w.mul (r.weightScale (jk.1 / r.bsw))
  let (p, f5) := a.mul w
  (p, f1 ||| f2 ||| f3 ||| f4 ||| f5)

/-- Whether a block of the row is suspect (R234); between sides of two block sizes a block has the smaller one (notes/assumptions/153.md). -/
def Row.suspect (r : Row) : Bool :=
  if r.bsa = 0 && r.bsw = 0 then false
  else
    let bs := if r.bsa = 0 then r.bsw else if r.bsw = 0 then r.bsa else min r.bsa r.bsw
    ((r.ks.map fun jk => jk.2 / bs).eraseDups).any fun b =>
      let ts := r.ks.filter fun jk => jk.2 / bs == b
      match ts with
      | [] => false
      | jk :: _ =>
        let sa := if r.bsa = 0 then exInt 1 else r.actScale (jk.2 / r.bsa)
        let sw := if r.bsw = 0 then exInt 1 else r.weightScale (jk.1 / r.bsw)
        match (exSum 0 (ts.map fun q => (r.term q).1)).1.log2, sa.log2, sw.log2 with
        | some q, some x, some y => (Nat.log2 bs : Int) + efMax r.ca + efMax r.cw + 2 + x + y < q
        | _, _, _ => false

/-- The accumulator word of a column (R233): the old word, whether `.ov`; `fv` stands where an integer sum is no integer; an infinite sum or
a NaN has the fate that R64 gives it at an integer (R65, R72; notes/assumptions/27.md). -/
def Row.acc (r : Row) (ov : Bool) (old : BitVec 32) (fv : Nat) : BitVec 32 × BitVec 7 :=
  let ts := r.ks.map r.term
  let fl := ts.foldl (fun a t => a ||| t.2) 0
  if 9 ≤ r.cw then
    let (t, f1) := exSum 0 (ts.map (·.1))
    match t with
    | .fin n p q =>
      if p % q = 0 then ((if ov then 0 else old) + BitVec.ofInt 32 (if n then -((p / q : Nat) : Int) else (p / q : Nat)), fl)
      else (BitVec.ofNat 32 fv, fl)
    | .nan => (0, fl ||| f1 ||| Fl.nv)
    | .inf n => (if n then 0x80000000 else 0x7FFFFFFF, fl ||| f1 ||| Fl.nv)
  else
    let xs := ts.map (·.1)
    let (t, f1) := exSum 0 (if ov then xs else decodeF 0 false old.toNat :: xs)
    let (c, f2) := convertF 0 0 false r.ftz 0 t
    (BitVec.ofNat 32 c, fl ||| f1 ||| f2)

/-- Place of an accumulator word. -/
def accKey (set row col : Nat) : Nat := (set * 128 + row) * 64 + col

/-- Whether an accumulator row holds an uncorrectable error; a row written whole holds none (R181, R208). -/
def State.accBad (s : State) (c set row : Nat) : Bool := s.isBad (Loc.acc c (accKey set row 0)) 256
def State.accMend (s : State) (c set row n : Nat) : State :=
  { s with bad := badLeft s.bad (Loc.acc c (accKey set row 0)) (256 * n), clean := soiled s.clean (Loc.acc c (accKey set row 0)) (256 * n) }

/-- What an `MSTRM` takes of activation row `i`: its address, the bytes of its live slabs, its scale bytes, and the row of each column; dead slabs
are not streamed (R233). -/
structure StrmRow where
  a : Nat
  parts : List (Nat × Nat)
  scales : List Nat
  row : State → Nat → Row

/-- Rows of `MSTRM` from `i` on. -/
def mstrmRows (e : EIn) (s : State) (int : Bool) (rows : List StrmRow) (i : Nat) (fl : BitVec 7) (sus : Bool) : EOut :=
  match rows with
  | [] => { s, done := i * 256, flags := fl, sus }
  | y :: t =>
    let p := e.w 2
    let r := pRow0 p + i
    let bad := match y.parts.findSome? fun q => (s.spBad e.c q.1 q.2).map (q.1 + ·) with
      | some b => some b
      | none => (y.scales.find? fun q => (s.spBad e.c q 1).isSome) <|> (if !e.x && s.accBad e.c (pSet p) r then some y.a else none)
    match bad with
    | some b => { e.fault s 7 b (i * 256) with flags := fl, sus }
    | none =>
      let (fv, s) := s.free
      let x := s.array e.c
      let cols := (List.range 64).map fun c => (y.row s c).acc e.x (mgetD x.acc (accKey (pSet p) r c) 0) fv
      let acc := (List.range 64).foldl (fun m c =>
        let v := (cols.getD c (0, 0)).1
        if v = 0 then mdel m (accKey (pSet p) r c) else mset m (accKey (pSet p) r c) v) x.acc
      let key := pSet p * 128 + r
      let ints := x.accInt.filter (· != key)
      let sus' := (List.range 64).any fun c => (y.row s c).suspect
      let s := (s.setArray e.c { x with acc, accInt := if int then ints ++ [key] else ints }).accMend e.c (pSet p) r 1
      mstrmRows e s int t (i + 1) (cols.foldl (fun f q => f ||| q.2) fl) (sus || sus')

/-- `MSTRM`: each row has the format of its own bank (R227). -/
def mstrm (e : EIn) (s : State) : EOut :=
  let a := (e.w 1).toNat
  let p := e.w 2
  let x := s.array e.c
  let fw := if bfEfmt x.activeFmt = 0 then setFld 0 7 4 (bfEfmt (e.bank a)) else x.activeFmt
  let cw := bfEfmt fw
  let m := x.activeMap
  let live := liveRows cw m
  let slabs := liveSlabs cw m
  let k := (if mapS24 m then 2 else 1) * storedK cw
  let bsw := bfBs fw
  let n := pRows p
  let rowAt (i : Nat) : Nat := a + pStride p * i
  let fmtOk (i : Nat) : Bool :=
    let f := e.bank (rowAt i)
    pairOk cw (bfEfmt f) && !((bfBs f != 0 || bsw != 0) && (mapS24 m || cw == 13))
  let strm (i : Nat) : StrmRow :=
    let b := rowAt i
    let f := e.bank b
    let w := efWidth (bfEfmt f)
    let bs := bfBs f
    let scale (q : Nat) : Nat := e.scaleAt (b + q * bs * w / 8)
    { a := b, parts := slabs.map fun j => (b + j * 2 * w, 2 * w)
      scales := if bs = 0 then [] else ((List.range (k / bs)).filter fun q => slabs.any fun j => j * 16 < (q + 1) * bs && q * bs < (j + 1) * 16).map scale
      row := fun s c =>
        let v := s.spRead e.c b (k * w / 8)
        let comp (j : Nat) : Nat := live.idxOf j
        { ca := bfEfmt f, cw, bsa := bs, bsw, ftz := e.ftz, act := elemAt w v,
          actScale := fun q => decodeScale (bfSf f) (s.spRead e.c (scale q) 1)
          weight := fun j => (mgetD x.active (j * 64 + c) 0).toNat
          weightScale := fun q => decodeScale (bfSf fw) (mgetD x.activeScale (comp (q * bsw) / bsw * 64 + c) 0)
          ks := live.map fun j => (j, if mapS24 m then 4 * (j / 2) + mgetD x.activeIdx (j * 64 + c) 0 else j) } }
  if !pOk p || e.w 3 != 0 then e.fault s 9 a 0
  else if 2 ^ 20 ≤ a then e.fault s 3 a 0
  else match (List.range n).find? fun i => !fmtOk i with
    | some i => e.fault s 8 (rowAt i) 0
    | none =>
      let rows := (List.range n).map strm
      match rows.find? fun y => y.parts.any (fun q => !e.inside q.1 q.2) || y.scales.any fun q => !e.inside q 1 with
      | some y => e.fault s 3 y.a 0
      | none =>
        if a % 16 != 0 then e.fault s 4 a 0
        else match rows.find? fun y => y.parts.any fun q => ((e.rangeFmt q.1 q.2).map fmtKind) != some (fmtKind (e.bank y.a)) with
          | some y => e.fault s 8 y.a 0
          | none =>
            let i0 := e.t.done / 256
            let o := mstrmRows e s (9 ≤ cw) (rows.drop i0) i0 e.t.flags e.t.suspect
            { o with time := ceilDiv (n * slabs.length) (Machine.slabs cw m) + 72 }

/-! ### Draining (R235) -/

/-- One MX block: the scale byte and the element codes. -/
def mxEncode (c mode : Nat) (sat ftz : Bool) (draw : Nat → Nat) (xs : List Ex) : Nat × List (Nat × BitVec 7) :=
  if xs.any fun x => x.isNan || x.isInf then (0xFF, xs.map fun _ => (0, Fl.nv))
  else
    let top := xs.filterMap (·.log2)
    let code : Nat := match top with
      | [] => 0
      | l :: t => (max 0 (min 254 (t.foldl max l - efMax c + 127))).toNat
    (code, (List.range xs.length).zipWith (fun i x => efEncode c mode sat ftz (draw i) ((x.div (dyad false 1 ((code : Int) - 127))).1)) xs)

/-- Encode a run of elements, by blocks of `bs` where it is not 0; `draw` gives element i's draw: the codes and the scales. -/
def encodeRun (c bs mode : Nat) (sat ftz : Bool) (draw : Nat → Nat) (n i : Nat) (xs : List Ex) : List (Nat × BitVec 7) × List Nat :=
  match n with
  | 0 => ([], [])
  | k + 1 =>
    if xs.isEmpty then ([], [])
    else
      let b := if bs = 0 then xs.length else bs
      let (codes, sc) : List (Nat × BitVec 7) × List Nat :=
        if bs = 0 then ((List.range b).zipWith (fun j x => efEncode c mode sat ftz (draw (i + j)) x) xs, [])
        else let (q, ys) := mxEncode c mode sat ftz (fun j => draw (i + j)) (xs.take b); (ys, [q])
      let (cs, ss) := encodeRun c bs mode sat ftz draw k (i + b) (xs.drop b)
      (codes ++ cs, sc ++ ss)

/-- The bytes of element codes of width `w`. -/
def codeBytes (w : Nat) (cs : List Nat) : List Byte := leBytes (cs.length * w / 8) (packN w cs)

/-- An accumulator word's value. -/
def accValue (x : Array) (ftz : Bool) (set row col : Nat) : Ex :=
  let v := mgetD x.acc (accKey set row col) 0
  if x.accInt.contains (set * 128 + row) then exInt v.toInt else (decodeF 0 ftz v.toNat)

/-- Rows of `MDRAIN` from `i` on, `done` bytes being drained. -/
def drainRows (e : EIn) (s : State) (scale : Ex) (n i done : Nat) (fl : BitVec 7) : EOut :=
  match n with
  | 0 => { s, done, flags := fl }
  | k + 1 =>
    let p := e.w 2
    let x := s.array e.c
    let a := (e.w 1).toNat + pStride p * i
    let f := e.bank a
    let c := bfEfmt f
    let w := efWidth c
    let r := pRow0 p + i
    if done < e.t.done then drainRows e s scale k (i + 1) (done + 8 * w) fl
    else if s.accBad e.c (pSet p) r then { e.fault s 7 a done with flags := fl }
    else
      let ys := (List.range 64).map fun col => (accValue x e.ftz (pSet p) r col).mul scale
      let (cs, ss) := encodeRun c (bfBs f) e.rm e.sat e.ftz (fun j => e.draw (i * 64 + j)) 65 0 (ys.map (·.1))
      let s := s.homeWrite 0 (Loc.sp e.c a) (codeBytes w (cs.map (·.1)))
      let s := (ss.zip (List.range ss.length)).foldl (fun s q =>
        s.homeWrite 0 (Loc.sp e.c (e.scaleAt (a + q.2 * (bfBs f * w / 8)))) [BitVec.ofNat 8 q.1]) s
      let fl := ys.foldl (fun a y => a ||| y.2) (cs.foldl (fun a y => a ||| y.2) fl)
      let s := if e.x then
        let x := s.array e.c
        (s.setArray e.c { x with acc := (List.range 64).foldl (fun m col => mdel m (accKey (pSet p) r col)) x.acc }).accMend e.c (pSet p) r 1 else s
      drainRows e s scale k (i + 1) (done + 8 * w) fl

/-- `MDRAIN`: each row goes into the format of its own bank (R235). -/
def mdrain (e : EIn) (s : State) : EOut :=
  let a := (e.w 1).toNat
  let p := e.w 2
  let n := pRows p
  let rowAt (i : Nat) : Nat := a + pStride p * i
  let bytes (i : Nat) : Nat := 8 * efWidth (bfEfmt (e.bank (rowAt i)))
  let fmtOk (i : Nat) : Bool :=
    let f := e.bank (rowAt i)
    bfEfmt f != 0 && bfEfmt f != 13 && (bfBs f == 0 || bfSf f == 0)
  let scaleOk (i : Nat) : Bool :=
    let f := e.bank (rowAt i)
    bfBs f == 0 || (List.range (64 / bfBs f)).all fun j => e.inside (e.scaleAt (rowAt i + j * (bfBs f * efWidth (bfEfmt f) / 8))) 1
  if !pOk p || fld (e.w 3) 63 32 != 0 || fld (e.w 0) 52 50 = 7 then e.fault s 9 a 0
  else if 2 ^ 20 ≤ a then e.fault s 3 a 0
  else match (List.range n).find? fun i => !fmtOk i with
    | some i => e.fault s 8 (rowAt i) 0
    | none => match (List.range n).find? fun i => !e.inside (rowAt i) (bytes i) || !scaleOk i with
      | some i => e.fault s 3 (rowAt i) 0
      | none =>
        if a % 16 != 0 then e.fault s 4 a 0
        else match (List.range n).find? fun i => (e.rangeFmt (rowAt i) (bytes i)).isNone with
          | some i => e.fault s 8 (rowAt i) 0
          | none =>
            let o := drainRows e s (decodeF 0 e.ftz (fld (e.w 3) 31 0)) n 0 0 e.t.flags
            { o with time := (List.range n).foldl (fun m i => m + ceilDiv (bytes i) 128) 0 + 12 }

/-- `MZERO`. -/
def mzero (e : EIn) (s : State) : EOut :=
  let w := e.w 2
  let x := s.array e.c
  if e.w 1 != 0 || e.w 3 != 0 || fld w 63 10 != 0 || fld w 7 0 != 0 then e.fault s 9 0 0
  else
    let set := fld w 9 8
    let y : Array := { x with acc := mclear x.acc (set * 8192) 8192, accInt := x.accInt.filter fun r => r / 128 != set }
    { s := (s.setArray e.c y).accMend e.c set 0 128, time := 32 }

/-- `MSPMAP`. -/
def mspmap (e : EIn) (s : State) : EOut :=
  let x := s.array e.c
  if e.w 2 != 0 || fld (e.w 3) 63 32 != 0 then e.fault s 9 0 0
  else
    let m := wd (fld (e.w 3) 31 0 + (if e.x then 2 ^ 32 else 0))
    { s := s.setArray e.c { x with nextMap := m, nextIdx := (e.w 1).toNat }, time := 4 }

end Sys2Proof.Machine
end

