-- ==== Sys2Proof/Machine/CopyEngine.lean ====
section
/-! DEFINITION. What the copy engine does with an entry (R239 to R243). -/

namespace Sys2Proof.Machine

/-- One side of a copy: handle index, and the element format with block size and scale format. -/
structure Side where
  hi : Nat
  h  : Handle
  fmt : Word := 0

/-- All spaces: only engines use `LANE` handles (R185). -/
def spEngine : List Nat := [0, 1, 2, 3, 4, 5]

/-- The status of a cause of R100 (R221). -/
def statusOf (cause : Nat) : Nat :=
  match cause with
  | 0x11 => 1
  | 0x12 => 2
  | 0x10 => 3
  | 0x15 => 4
  | 0x13 => 5
  | 0x14 => 6
  | _ => 7

/-- The places of an access of the engine; a `LANE` access is of lane `lane`, which the spec does not give
(notes/assumptions/16.md). -/
def laneSegs (r : Resident) (lane : Nat) (a : Acc) : Acc :=
  if a.space = spLane then { a with segs := [(some (Loc.slice a.core lane (r.slBase + a.addr)), a.n)] } else a

/-- Ask another package for an access of an entry under the number `tag` (R465). -/
def State.engineAsk (s : State) (e : EIn) (tag pkg sid op key addr : Nat) (val : Word) (data : List Byte) : State :=
  let x := s.chain e.c e.rti false
  match x.tag e.t.seq with
  | none => s
  | some t =>
    if t.asked.contains tag then s
    else
      let p : Packet := { cls := 6, op := op % 16, dpkg := pkg, spkg := s.pkgId, part := fld s.pkg.fabcfg 47 32, key, sid, addr, val := val.toNat,
                          data, srcTask := e.r.task, srcCore := e.c, srcSlot := 8 + e.rti, pidx := e.t.seq, block := tag }
      ((s.setChain e.c e.rti false (x.put { t with asked := tag :: t.asked })).fabSend p).fabCount 31 16

/-- Change what the engine keeps of the entry. -/
def State.keepCopy (s : State) (e : EIn) (f : EntryTag → EntryTag) : State :=
  let x := s.chain e.c e.rti false
  match x.tag e.t.seq with
  | none => s
  | some t => s.setChain e.c e.rti false (x.put (f t))

/-- How a failed check stops a copy at offset `off` of a side; `ask` replays access `tag` to another package, and one that has been issued waits at
its home as it stands (R186, R392). -/
def copyFail (e : EIn) (d : Side) (off tag : Nat) (ask : Nat → Nat → State) : Bar → State → State × Stop
  | .trap c, s => (s, .fault (statusOf c) (handleVal d.hi off))
  | .hold s, _ => (s, .hold)
  | .held s a, _ => (s.keepCopy e fun t => { t with issued := mset t.issued tag a }, .hold)
  | .nack die, s => (s.countNack die, .nack (handleVal d.hi off))
  | .moved p g, _ => (ask p g, .hold)

/-- What the answer of another package makes of a byte. -/
def Reply.stop (r : Reply) (d : Side) (off : Nat) : Stop :=
  if r.lost then .nack (handleVal d.hi off) else if r.cause = 0 then .none else .fault (statusOf r.cause) (handleVal d.hi off)

/-- The access to byte `off` of a side: one that has been issued goes on at its home; any other is checked (R133, R186). -/
def copyAcc (e : EIn) (s : State) (d : Side) (off n tag : Nat) (k : Kind) : Except Bar (State × Acc) :=
  match mget e.t.issued tag with
  | some a => s.atHome e.c e.r.task a k
  | none => s.check e.c e.r e.t.sid d.hi off n 1 k spEngine true 0

/-- Check and read `n` bytes of the source; an answer of another package that is there is taken (R465). -/
def copyGet (e : EIn) (s : State) (d : Side) (lane off n tag : Nat) : State × List Byte × Stop :=
  match mget e.t.replies tag with
  | some r => (s, r.bytes, r.stop d off)
  | none =>
    match copyAcc e s d off n tag .load with
    | .error b =>
      let (s, st) := copyFail e d off tag (fun p g => s.engineAsk e tag p g 0x40 d.h.key (d.h.base + off) (wd n) []) b s
      (s, [], st)
    | .ok (s, a) =>
      match s.read (laneSegs e.r lane a) with
      | some (s, bs) => (s, bs, .none)
      | none => (s, [], .fault 7 (handleVal d.hi off))

/-- Check and write bytes of the destination. -/
def copyPut (e : EIn) (s : State) (d : Side) (lane off tag : Nat) (bs : List Byte) : State × Stop :=
  match mget e.t.replies tag with
  | some r => (s, r.stop d off)
  | none =>
    match copyAcc e s d off bs.length tag .store with
    | .error b => copyFail e d off tag (fun p g => s.engineAsk e tag p g 0x41 d.h.key (d.h.base + off) 0 bs) b s
    | .ok (s, a) => (s.write (laneSegs e.r lane a) bs, .none)

/-- Read `n` source bytes from `off` on, up to the first that fails. -/
def copyRead (e : EIn) (s : State) (d : Side) (lane off tag n : Nat) : State × List Byte × Stop :=
  match n with
  | 0 => (s, [], .none)
  | k + 1 =>
    match copyGet e s d lane (off % 2 ^ 64) 1 tag with
    | (s, bs, .none) =>
      let (s, cs, st) := copyRead e s d lane (off + 1) (tag + 2) k
      (s, bs ++ cs, st)
    | r => r

/-- Write bytes from `off` on, up to the first that fails; the count written. -/
def copyWrite (e : EIn) (s : State) (d : Side) (lane off tag : Nat) (bs : List Byte) : State × Nat × Stop :=
  match bs with
  | [] => (s, 0, .none)
  | b :: t =>
    match copyPut e s d lane (off % 2 ^ 64) tag [b] with
    | (s, .none) =>
      let (s, n, st) := copyWrite e s d lane (off + 1) (tag + 2) t
      (s, n + 1, st)
    | (s, st) => (s, 0, st)

/-! ### Formats -/

/-- The format word of `n` bytes at an offset of a handle; `none` where they lie in banks of different formats (R241). -/
def EIn.sideFmt (e : EIn) (h : Handle) (off n : Nat) : Option Word :=
  if h.space = spCore then e.rangeFmt (e.r.spBase + h.base + off) n
  else if h.space = spDev then some (wd (h.efmt * 16 + h.mxbs * 256 + h.mxsf * 1024))
  else some 0

/-- Where the scale byte of a side's block at offset `off` stands, as an offset of its handle modulo 2^64: in a bank as R228 places it;
in `DEV` memory at a place that the spec does not give, `fv` (notes/assumptions/16.md). -/
def EIn.scaleOff (e : EIn) (d : Side) (fv off : Nat) : Nat :=
  if d.h.space = spCore then
    let a := e.r.spBase + d.h.base + off
    (wd (e.scaleAt a) - wd (e.r.spBase + d.h.base)).toNat
  else (fv + off / (bfBs d.fmt * efWidth (bfEfmt d.fmt) / 8)) % max 1 d.h.len

/-- Read the scale bytes of the blocks of a row. -/
def readScales (e : EIn) (s : State) (d : Side) (lane fv tag : Nat) (offs : List Nat) : State × List Nat × Stop :=
  match offs with
  | [] => (s, [], .none)
  | o :: t =>
    match copyGet e s d lane (e.scaleOff d fv o) 1 tag with
    | (s, bs, .none) =>
      let (s, xs, st) := readScales e s d lane fv (tag + 2) t
      (s, ofLe bs :: xs, st)
    | (s, _, st) => (s, [], st)

/-- Write the scale bytes of the blocks of a row; the count written. -/
def writeScales (e : EIn) (s : State) (d : Side) (lane fv tag : Nat) (offs : List (Nat × Nat)) : State × Nat × Stop :=
  match offs with
  | [] => (s, 0, .none)
  | (o, x) :: t =>
    match copyPut e s d lane (e.scaleOff d fv o) tag [BitVec.ofNat 8 x] with
    | (s, .none) =>
      let (s, n, st) := writeScales e s d lane fv (tag + 2) t
      (s, n + 1, st)
    | (s, st) => (s, 0, st)

/-- The values of the first `n` elements of a row. -/
def decodeRun (c bs sf : Nat) (ftz : Bool) (v : Nat) (scales : List Nat) (n : Nat) : List (Ex × BitVec 7) :=
  (List.range n).map fun i =>
    let (x, f1) := efDecode c ftz (elemAt (efWidth c) v i)
    if bs = 0 then (x, f1)
    else
      let (y, f2) := x.mul (decodeScale sf (scales.getD (i / bs) 0))
      (y, f1 ||| f2)

/-! ### Rows -/

/-- The running state of a copy. -/
structure CopyRun where
  s : State
  /-- Destination bytes written. -/
  done : Nat := 0
  flags : BitVec 7 := 0
  stop : Stop := .none

/-- What a copy moves: sides, lane and scale places, row length, destination bytes and elements of a row, byte copy. -/
structure CopyJob where
  d : Side
  t : Side
  lane : Nat
  fv : Nat
  len : Nat
  out : Nat
  elems : Nat
  raw : Bool

/-- Bytes of a block of an MX format; 0 of another. -/
def blockBytes (f : Word) : Nat := bfBs f * efWidth (bfEfmt f) / 8

/-- Offsets of the blocks of a row. -/
def blockOffs (f : Word) (off n : Nat) : List Nat :=
  if bfBs f = 0 then [] else (List.range (n / bfBs f)).map fun j => off + j * blockBytes f

/-- The first of two stops, where there is one. -/
def Stop.or (a b : Stop) : Stop := if a = .none then b else a

/-- The source of row `r` from byte `skip` on: what was read before the row was held, or a read of it now; blocks in error of the scales give no
element (R242). -/
def copySource (e : EIn) (s : State) (j : CopyJob) (r soff skip : Nat) : State × SourceRow :=
  let tag := r * 2 ^ 24
  match e.t.source.filter (·.row == r) with
  | some q => (s, q)
  | none =>
    if j.raw then
      let (s, bytes, stop) := copyRead e s j.t j.lane (soff + skip) (tag + 2 * skip) (j.len - skip)
      (s, { row := r, ofs := skip, bytes, stop })
    else
      let (s, bytes, st) := copyRead e s j.t j.lane soff tag j.len
      let (s, scales, st2) := readScales e s j.t j.lane j.fv (2 ^ 60 + tag) (if st = .none then blockOffs j.t.fmt soff j.elems else [])
      (s, { row := r, ofs := 0, bytes := if st2 = .none then bytes else [], scales, stop := st.or st2 })

/-- Keep the source of a row whose write waits at a home. -/
def SourceRow.keep (q : SourceRow) (e : EIn) (s : State) (st : Stop) : State :=
  if st = .hold then s.keepCopy e fun t => { t with source := some q } else s

/-- The bytes of element codes of width `w`; in the last byte of a whole row, the bits above its elements are those of `pad`, which the spec does not
state (notes/assumptions/142.md). -/
def rowBytes (w pad : Nat) (whole : Bool) (cs : List Nat) : List Byte :=
  if whole then leBytes (ceilDiv (cs.length * w) 8) (packN w cs + 2 ^ (cs.length * w) * pad) else codeBytes w cs

/-- Row `r` of a copy: the bytes before `skip` were written in an earlier run. Its whole source is read before a byte of it is written (R242); a block
of an MX destination is written with its scale (R222). -/
def copyRow (e : EIn) (j : CopyJob) (r doff soff skip : Nat) (c : CopyRun) : CopyRun :=
  let tag := r * 2 ^ 24
  let (s, q) := copySource e c.s j r soff skip
  if q.stop = .hold then { c with s, done := c.done + skip, stop := .hold }
  else if j.raw then
    let (s, n, st) := copyWrite e s j.d j.lane (doff + skip) (tag + 2 * skip + 1) (q.bytes.drop (skip - q.ofs))
    { c with s := q.keep e s st, done := c.done + skip + n, stop := st.or q.stop }
  else
    let ct := bfEfmt j.t.fmt
    let bb := blockBytes j.d.fmt
    let n := q.bytes.length * 8 / efWidth ct
    let n := if bfBs j.t.fmt = 0 then n else n / bfBs j.t.fmt * bfBs j.t.fmt
    let n := if bfBs j.d.fmt = 0 then n else n / bfBs j.d.fmt * bfBs j.d.fmt
    let xs := decodeRun ct (bfBs j.t.fmt) (bfSf j.t.fmt) e.ftz (ofLe q.bytes) q.scales n
    let (cs, ss) := encodeRun (bfEfmt j.d.fmt) (bfBs j.d.fmt) e.rm e.sat e.ftz (fun i => e.draw (r * j.elems + i)) (n + 1) 0 (xs.map (·.1))
    let fl := cs.foldl (fun a y => a ||| y.2) (xs.foldl (fun a y => a ||| y.2) c.flags)
    let (pad, s) := s.free
    let out := rowBytes (efWidth (bfEfmt j.d.fmt)) pad (n == j.elems) (cs.map (·.1))
    let (s, k, st3) := copyWrite e s j.d j.lane (doff + skip) (tag + 2 * skip + 1) (out.drop skip)
    let full := if bb = 0 then 0 else (skip + k) / bb
    let (s, p, st4) := writeScales e s j.d j.lane j.fv (2 ^ 60 + tag + 1) (((blockOffs j.d.fmt doff n).zip ss).take full)
    let st := st4.or st3
    { s := q.keep e s st, done := c.done + (if bb = 0 then min (skip + k) j.out else p * bb), flags := fl, stop := st.or q.stop }

/-- The rows from `r` on; `pos r` gives a row's offsets. -/
def copyRows (e : EIn) (j : CopyJob) (pos : Nat → Nat × Nat) (n r : Nat) (c : CopyRun) : CopyRun :=
  match n with
  | 0 => c
  | k + 1 =>
    if c.stop != .none then c
    else
      let before := r * j.out
      if before + j.out ≤ e.t.done && j.out != 0 then copyRows e j pos k (r + 1) { c with done := before + j.out }
      else
        let (d, t) := pos r
        copyRows e j pos k (r + 1) (copyRow e j r d t (e.t.done - before) c)

/-- The first byte of a row that a side does not permit or does not hold (R133): its place in the row, status and fault value. -/
def EIn.rowEnd (e : EIn) (s : State) (d : Side) (k : Kind) (off n : Nat) : Option (Nat × Nat × Word) :=
  if n = 0 then none
  else match s.check e.c e.r e.t.sid d.hi off 1 1 k spEngine true 0 with
    | .error (.trap 0x12) => some (0, 2, handleVal d.hi off)
    | _ => if d.h.len < off + n then some (d.h.len - off, 3, handleVal d.hi (max off d.h.len)) else none

/-- How an entry ends whose rows are not aligned: the first byte that a side does not permit or hold comes before the first row that is
not aligned (R133, R221). -/
def EIn.unaligned (e : EIn) (s : State) (d t : Side) (len out ald alt : Nat) (rows : List (Nat × Nat)) : Nat × Word :=
  let ends := rows.findSome? fun r =>
    match e.rowEnd s t .load r.2 len, e.rowEnd s d .store r.1 out with
    | some x, some y => some (if y.1 < x.1 then y.2 else x.2)
    | some x, none => some x.2
    | none, some y => some y.2
    | none, none => none
  ends.getD ((rows.findSome? fun r =>
    if r.1 % ald != 0 then some (4, handleVal d.hi r.1) else if r.2 % alt != 0 then some (4, handleVal t.hi r.2) else none).getD (4, 0))

/-- Move the rows of a copy. -/
def copyMove (e : EIn) (s : State) (d t : Side) (len rows out elems : Nat) (raw : Bool) (pos : Nat → Nat × Nat) : EOut :=
  let (fv, s) := s.free
  let (ln, s) := s.free
  let q := e.t.sides.getD { d := d.h, t := t.h, lane := ln % 32, fv }
  let j : CopyJob := { d, t, lane := q.lane, fv := q.fv, len, out, elems, raw }
  let c := copyRows e j pos rows 0 { s, flags := e.t.flags }
  let time := if d.h.space = spCore && t.h.space = spCore then ceilDiv (out * rows) 128 else 0
  match c.stop with
  | .none => { s := c.s, done := c.done, flags := c.flags, time }
  | .fault st v => { s := c.s, status := st, val := v, done := c.done, flags := c.flags }
  | .nack v => { s := c.s, status := 7, val := v, done := c.done, flags := c.flags, nack := true }
  | .hold => { s := c.s.keepCopy e fun t => { t with sides := some q }, done := c.done, flags := c.flags, hold := true }

/-- A copy entry: row length, rows, and the offsets of row r (R239 to R242). -/
def copyRun (e : EIn) (s : State) (len rows : Nat) (pos : Nat → Nat × Nat) : EOut :=
  let hd := fld (e.w 1) 63 56
  let ht := fld (e.w 2) 63 56
  let fault (st : Nat) (v : Word) : EOut := { s, status := st, val := v, done := e.t.done }
  let ps := (List.range rows).map pos
  match (e.t.sides.map (·.d)) <|> e.r.handle hd, (e.t.sides.map (·.t)) <|> e.r.handle ht with
  | none, _ => fault 1 (handleVal hd (pos 0).1)
  | _, none => fault 1 (handleVal ht (pos 0).2)
  | some d, some t =>
    if len = 0 then { s, flags := e.t.flags }
    else
      let ft := (e.sideFmt t (pos 0).2 1).getD 0
      let fd := (e.sideFmt d (pos 0).1 1).getD 0
      let ct := bfEfmt ft
      let cd := bfEfmt fd
      let raw := ct == 0 || cd == 0 || fmtKind ft == fmtKind fd
      let elems := if raw then 0 else len * 8 / efWidth ct
      let out := if raw then len else ceilDiv (elems * efWidth cd) 8
      let same (h : Handle) (f : Word) (off n : Nat) : Bool := match e.sideFmt h off n with
        | some g => fmtKind g == fmtKind f
        | none => false
      match ps.find? (fun p => !same t ft p.2 len), ps.find? (fun p => !same d fd p.1 out) with
      | some p, _ => fault 8 (handleVal ht p.2)
      | none, some p => fault 8 (handleVal hd p.1)
      | none, none =>
        let sd : Side := { hi := hd, h := d, fmt := fd }
        let st : Side := { hi := ht, h := t, fmt := ft }
        let whole := len * 8 % efWidth ct == 0 && (bfBs ft == 0 || elems % bfBs ft == 0) && (bfBs fd == 0 || elems % bfBs fd == 0)
        let al (f : Word) : Nat := if bfBs f = 0 then ceilDiv (efWidth (bfEfmt f)) 8 else 16
        if raw then copyMove e s sd st len rows out 0 true pos
        else if cd = 13 || (bfBs fd != 0 && bfSf fd != 0) then fault 8 (handleVal hd (pos 0).1)
        else if !whole || fld (e.w 0) 52 50 = 7 then fault 9 (handleVal hd (pos 0).1)
        else if ps.any fun p => p.1 % al fd != 0 || p.2 % al ft != 0 then
          let (c, v) := e.unaligned s sd st len out (al fd) (al ft) ps
          fault c v
        else copyMove e s sd st len rows out elems false pos

/-- `CPY` (R239). -/
def cpyRun (e : EIn) (s : State) : EOut :=
  if fld (e.w 3) 63 48 != 0 || e.w 5 != 0 || e.w 6 != 0 then { s, status := 9, done := e.t.done, val := e.w 1 }
  else copyRun e s (fld (e.w 3) 47 0) 1 fun _ => (fld (e.w 1) 55 0, fld (e.w 2) 55 0)

/-- `CPY2D` (R240). -/
def cpy2dRun (e : EIn) (s : State) : EOut :=
  if e.w 3 != 0 || fld (e.w 5) 63 32 != 0 then { s, status := 9, done := e.t.done, val := e.w 1 }
  else
    let sd := ((e.w 6).extractLsb' 0 32).signExtend 64
    let st := ((e.w 6).extractLsb' 32 32).signExtend 64
    copyRun e s (fld (e.w 5) 19 0) (fld (e.w 5) 31 20 + 1) fun r =>
      ((wd (fld (e.w 1) 55 0) + wd r * sd).toNat, (wd (fld (e.w 2) 55 0) + wd r * st).toNat)

end Sys2Proof.Machine
end

