-- ==== Sys2Proof/Machine/EngineSteps.lean ====
section
/-! DEFINITION. The steps of the engines: starting an entry, completing it, releasing held entries and delivering
`MXSUS` (R101, R214, R216, R220 to R225, R230, R231, R234, R242, R243). -/

namespace Sys2Proof.Machine

/-! ### When an entry starts -/

/-- The words of entry `n` of a chain. -/
def State.entryWords (s : State) (c : Nat) (x : Chain) (n : Nat) : List Word :=
  let bs := memRead s.mem (Loc.sp c (x.slotAt n)) 64
  (List.range 8).map (wordAt bs)

/-- `OP` of entry `n`. -/
def State.entryOp (s : State) (c : Nat) (x : Chain) (n : Nat) : Nat := (memGet s.mem (Loc.sp c (x.slotAt n + 7))).toNat

/-- The accumulator set that entry `n` uses. -/
def State.entrySet (s : State) (c : Nat) (x : Chain) (n : Nat) : Nat := (memGet s.mem (Loc.sp c (x.slotAt n + 0x11))).toNat % 4

/-- Whether the condition of R230 holds for array entry `t`. -/
def State.arrayMayStart (s : State) (c : Nat) (x : Chain) (t : EntryTag) : Bool :=
  let earlier := (x.tags.filter fun y => y.seq < t.seq).map fun y => (y, s.entryOp c x y.seq)
  let finished (op : Nat) : Bool := earlier.all fun y => y.2 != op || y.1.finished
  let entered : Bool := earlier.all fun y => y.2 != 3 || y.1.finished || (y.1.started && y.1.clock ≤ s.clk + 72)
  let set := s.entrySet c x t.seq
  let setFree (ops : List Nat) : Bool := earlier.all fun y => !ops.contains y.2 || y.1.finished || s.entrySet c x y.1.seq != set
  match s.entryOp c x t.seq with
  | 1 => finished 1 && finished 6 && finished 2
  | 2 => finished 1 && entered
  | 3 => finished 2 && entered && setFree [4, 5]
  | 4 => setFree [3, 4, 5]
  | 5 => setFree [3, 4, 5]
  | 6 => finished 1
  | _ => true

/-- Whether entry `t` of a chain may start now, whatever the copy engine serves (R201, R222, R225, R230, R231, R242). -/
def State.mayStart (s : State) (c : Nat) (x : Chain) (arr : Bool) (t : EntryTag) : Bool :=
  let gated := bit ((s.entryWords c x t.seq).getD 0 0) 55
  !t.started && !t.finished && x.halted.isNone && (s.core c).evq.length < 64 && !(s.core c).disabled &&
  (t.skipped || !gated || t.released) && t.folDone &&
  (x.tags.all fun y => t.seq ≤ y.seq || y.finished || (arr && y.started && y.status == 0)) &&
  (t.skipped || !arr || s.arrayMayStart c x t)

/-- Whether the task's engines go on: it is resident here, and not saved or faulted (R212, R224). -/
def State.enginesRun (s : State) (r : Resident) : Bool :=
  match s.task r.task with
  | some t => !t.faulted && !t.killed && t.state != .saved
  | none => true

/-- Whether a copy entry runs on a core. -/
def Core.copying (x : Core) : Bool := x.tasks.any fun r => r.2.cchain.tags.any fun t => t.started && !t.finished && t.status == 0

/-- The chains whose next entry may start or go on: array entries, and the copy entry that is held, or that of the next task in turn (R214). -/
def State.startable (s : State) (c : Nat) : List (Nat × Bool × Nat) :=
  let x := s.core c
  let next (arr : Bool) (r : Nat × Resident) : Option (Nat × Bool × Nat) :=
    let ch := r.2.chain arr
    if !s.enginesRun r.2 then none
    else ((ch.tags.filter fun t => !t.started && !t.finished).head?).bind fun t =>
      if s.mayStart c ch arr t then some (r.1, arr, t.seq) else none
  let arrays := x.tasks.filterMap (next true)
  let held := x.tasks.findSome? fun r => (r.2.cchain.tags.find? (·.held)).map fun t => (r.1, false, t.seq)
  let copies := if x.copying then [] else x.tasks.filterMap (next false)
  arrays ++ (held <|> (copies.find? fun q => x.copyLast < q.1) <|> copies.head?).toList

/-! ### Starting -/

/-- Whether an entry's form is malformed (R217): word 7, reserved bits, `X`, `OP`, the words it does not use. -/
def entryBad (arr : Bool) (ws : List Word) (t : EntryTag) : Bool :=
  let w0 := ws.getD 0 0
  let op := fld w0 63 56
  let x := bit w0 48
  t.bad || ws.getD 7 0 != 0 || fld w0 39 32 != 0 || (op == 0 && (ws.getD 1 0 != 0 || ws.getD 2 0 != 0 || ws.getD 3 0 != 0)) || (op != 0x11 && ws.getD 6 0 != 0) || (op != 0x11 && !bit w0 53 && ws.getD 5 0 != 0) ||
  (if arr then 6 < op || (x && op != 3 && op != 4 && op != 6) else x || !(op == 0 || op == 0x10 || op == 0x11))

/-- How the counter word of an entry ends it before anything else, where it does: it fails (R217, R221), its key is not loaded, its
translation cannot be made, its home is fenced (R443), or the counter holds an uncorrectable error. -/
def EIn.counterEnd (e : EIn) (s : State) : Option EOut :=
  if fld (e.w 4) 55 48 = 0 then none
  else match s.counterSeat e.c e.r (e.w 4) with
    | .error status => some { s, status, done := e.t.done }
    | .ok (u, a) =>
      match u.fencedHome a .cadd with
      | some die => some { s := s.countNack die, status := 0x07, done := e.t.done, nack := true }
      | none => if u.segsBad a.segs then some { s, status := 0x07, done := e.t.done } else none

/-- What an entry does, by its `OP`. -/
def EIn.run (e : EIn) (s : State) : EOut :=
  match e.op with
  | 0x01 => mwld e s
  | 0x02 => mswap e s
  | 0x03 => mstrm e s
  | 0x04 => mdrain e s
  | 0x05 => mzero e s
  | 0x06 => mspmap e s
  | 0x10 => cpyRun e s
  | 0x11 => cpy2dRun e s
  | _ => { s }

/-- The outcome of an entry's execution: the counter word first, then the form, then the operation (R221). -/
def EIn.outcome (e : EIn) (arr : Bool) (s : State) : EOut :=
  match e.counterEnd s with
  | some o => o
  | none =>
    if s.isBad (Loc.sp e.c ((e.r.chain arr).slotAt e.t.seq)) 64 then { s, status := 7, done := e.t.done }
    else if entryBad arr e.ws e.t then { s, status := 9, done := e.t.done }
    else if e.t.worked then { s, done := e.t.done, flags := e.t.flags }
    else e.run s

/-- Start entry `n` of a chain, where its `OP` is one of the step's (R220, R230, R242). An array entry reads all its bytes in this step (R237;
notes/assumptions/152.md). -/
def State.startEntry (s : State) (c rti : Nat) (arr : Bool) (n : Nat) (mine : Nat → Bool) : State :=
  if !((s.startable c).contains (rti, arr, n)) then s
  else match s.resident c rti with
    | none => s
    | some r =>
      let x := r.chain arr
      match x.tag n with
      | none => s
      | some t =>
        let ws := s.entryWords c x n
        if !mine (fld (ws.getD 0 0) 63 56) then s
        else
          let s := if arr then s else s.setCore c { s.core c with copyLast := rti }
          if t.skipped then s.skipEntry c rti arr t
          else
            let e : EIn := { c, rti, r, t, ws }
            let o := e.outcome arr s
            let s := if o.sus && !t.suspect then o.s.countSuspect c else o.s
            let s := if o.status = 7 && !o.nack then { s with fenceReq := s.fenceReq ++ [c] } else s
            let x := s.chain c rti arr
            match x.tag n with
            | none => s
            | some t =>
              let t' : EntryTag :=
                { t with
                  started := true
                  held := o.hold
                  done := o.done
                  flags := t.flags ||| o.flags
                  suspect := t.suspect || o.sus
                  status := o.status
                  faultVal := o.val
                  mxtrap := e.mxtrap
                  clock := s.clk + o.time }
              s.setChain c rti arr (x.put t')

/-- The step of an entry on the current core: `n` the resident index, `k` the sequence number. -/
def entryStep (arr : Bool) (mine : Nat → Bool) (s : State) : Host.Outcome State Fault Refusal :=
  .next (s.startEntry s.cur.core s.cur.n arr s.cur.k mine)

/-- `EMPTY_ENTRY`: of either chain (`hart` 0 array, 1 copy); an unassigned `OP` ends with `ENTRY` (R217). -/
def execEmptyEntry (s : State) : Host.Outcome State Fault Refusal :=
  entryStep (s.cur.hart == 0) (fun op => op == 0 || (6 < op && op != 0x10 && op != 0x11) || (if s.cur.hart == 0 then 6 < op else op ≤ 6)) s
def execMwldEntry (s : State) : Host.Outcome State Fault Refusal := entryStep true (· == 1) s
def execMswapEntry (s : State) : Host.Outcome State Fault Refusal := entryStep true (· == 2) s
def execMstrmEntry (s : State) : Host.Outcome State Fault Refusal := entryStep true (· == 3) s
def execMdrainEntry (s : State) : Host.Outcome State Fault Refusal := entryStep true (· == 4) s
def execMzeroEntry (s : State) : Host.Outcome State Fault Refusal := entryStep true (· == 5) s
def execMspmapEntry (s : State) : Host.Outcome State Fault Refusal := entryStep true (· == 6) s
def execCpyEntry (s : State) : Host.Outcome State Fault Refusal := entryStep false (· == 0x10) s
def execCpy2dEntry (s : State) : Host.Outcome State Fault Refusal := entryStep false (· == 0x11) s

/-- The instruction of an entry's step. -/
def entryInstr (arr : Bool) (op : Nat) : Instr :=
  match arr, op with
  | true, 1 => .mwldEntry
  | true, 2 => .mswapEntry
  | true, 3 => .mstrmEntry
  | true, 4 => .mdrainEntry
  | true, 5 => .mzeroEntry
  | true, 6 => .mspmapEntry
  | false, 0x10 => .cpyEntry
  | false, 0x11 => .cpy2dEntry
  | _, _ => .emptyEntry

/-! ### Completing -/

/-- The counter add of an entry, at its home (R144, R243); or the die whose fenced home turns it away (R443). -/
def State.entryAdd (s : State) (c rti : Nat) (w : Word) : Except Nat State :=
  match s.resident c rti with
  | none => .ok s
  | some r =>
    if fld w 55 48 = 0 then .ok s
    else match s.counterSeat c r w with
      | .error _ => .ok s
      | .ok (u, a) =>
        match u.fencedHome a .cadd with
        | some die => .error die
        | none =>
          let v := wd (fld w 55 48)
          let (u, sat) := u.counterAdd a.key a.place v
          .ok (if sat then u.post c (overflowRecord r.task a.device v) else u)

/-- The completion record of an entry (R200). -/
def EntryTag.record (t : EntryTag) (arr : Bool) (task : Nat) (fol : Bool) : EvRecord :=
  engineRecord t.status (if arr then 0 else 1) (t.flags ||| (if t.suspect then Fl.sus else 0)) (fol && t.status == 0) task t.seq t.done t.faultVal

/-- An entry ends with a status: its chain halts, and its record is written (R221, R222). -/
def State.haltEntry (s : State) (c rti : Nat) (arr : Bool) (t : EntryTag) (fol : Bool) : State :=
  let task := ((s.resident c rti).map (·.task)).getD 0
  let x := s.chain c rti arr
  let s := s.setChain c rti arr { x.put t with halted := some t.seq }
  (s.post c (t.record arr task fol)).wakeChain c rti arr

/-- An entry completes, its counter add made: its number is published, its record written, its pulses sent (R206, R216, R221). -/
def State.endEntry (s : State) (c rti : Nat) (arr : Bool) (t : EntryTag) (w0 : Word) (task : Nat) : State :=
  let fol := !arr && (bit w0 53 || (s.chain c rti true).tags.any fun y => s.heldOn c rti y t.seq)
  let x := ((s.chain c rti arr).put { t with finished := true }).publish
  let x := if fol then { x with fol := x.fol ++ [(t.seq, s.clk)] } else x
  let s := s.setChain c rti arr x
  let heard (k : Nat) : Bool := (s.firing c k).any fun f => t.suspect && t.mxtrap && f.rti == rti && f.actor == t.actor
  let tells := (t.slot.filter heard).map fun k => (k, t.seq)
  let s := if bit w0 54 || t.suspect then s.post c { t.record arr task fol with tells } else s
  let s := s.pulse c (if arr then 0 else 2)
  let s := if arr && fld w0 63 56 == 2 then s.pulse c 1 else s
  s.wakeChain c rti arr

/-- Complete or halt entry `n` of a chain (R216, R221, R222); a counter add that a fenced home turns away ends it with `POISON` (R443). -/
def State.completeEntry (s : State) (c rti : Nat) (arr : Bool) (n : Nat) : State :=
  match s.resident c rti with
  | none => s
  | some r =>
    let x := r.chain arr
    match x.tag n with
    | none => s
    | some t =>
      if !t.started || t.held || t.finished || s.clk < t.clock || (t.status != 0 && x.halted.isSome) then s
      else
        let ws := s.entryWords c x n
        let w0 := ws.getD 0 0
        if t.status != 0 then s.haltEntry c rti arr t (!arr && bit w0 53)
        else match s.entryAdd c rti (ws.getD 4 0) with
          | .error die => (s.countNack die).haltEntry c rti arr { t with status := 7, faultVal := 0, worked := true } false
          | .ok s => s.endEntry c rti arr t w0 r.task

/-- `ENTRY_COMPLETE`: `hart` the engine, `n` the resident index, `k` the sequence number. -/
def execEntryComplete (s : State) : Host.Outcome State Fault Refusal :=
  .next (s.completeEntry s.cur.core s.cur.n (s.cur.hart == 0) s.cur.k)

/-- Release the array entries held on copy `n` (R231). -/
def State.releaseHeld (s : State) (c rti n : Nat) : State :=
  let y := s.chain c rti false
  if y.fol.any fun q => q.1 == n && q.2 < s.clk then
    let x := s.chain c rti true
    let s' := s.setChain c rti true { x with tags := x.tags.map fun t => if s.heldOn c rti t n then { t with folDone := true } else t }
    (s'.setChain c rti false { y with fol := y.fol.filter fun q => q.1 != n }).pulse c 3
  else s

/-- `FOL_RELEASE`, in the clock after copy `k` of the task at index `n` completed. -/
def execFolRelease (s : State) : Host.Outcome State Fault Refusal := .next (s.releaseHeld s.cur.core s.cur.n s.cur.k)

/-- `MXSUS_DELIVERY`: the engine's event, to the firing that appended the entry, between instructions (R101). -/
def execMxsusDelivery (s : State) : Host.Outcome State Fault Refusal :=
  let c := s.cur.core
  let k := s.cur.slot
  .next (match s.firing c k with
    | none => s
    | some f => match f.mxsus with
      | [] => s
      | n :: t => if f.mxsusDue then (s.setFiring c k { f with mxsus := t }).raise c k 0x22 (wd n) 0 else s)

end Sys2Proof.Machine
end

