-- ==== Sys2Proof/Machine/Crossbar.lean ====
section
/-! DEFINITION. The steps of the event crossbar (R206, R207, R225). -/

namespace Sys2Proof.Machine

def State.xbar (s : State) (c : Nat) : Xbar := (s.core c).xbar
def State.setXbar (s : State) (c : Nat) (x : Xbar) : State := s.setCore c { s.core c with xbar := x }

/-! ### Counters and terms -/

/-- Counter `i` takes a pulse of source `src`: its new word, and whether it pulses (R207). -/
def counterTake (w : Word) (src : Nat) : Word × Bool :=
  if !bit w 21 || fld w 20 16 != src then (w, false)
  else if fld w 7 0 ≤ 1 then (setFld w 7 0 (fld w 15 8), true)
  else (setFld w 7 0 (fld w 7 0 - 1), false)

/-- The sources of a term. -/
def termSources (w : Word) : BitVec 32 := (w.extractLsb' 0 32) ||| (w.extractLsb' 32 32)

/-- A pulse of source `src` reaches the counters and the terms in clock `clk`. -/
def Xbar.take (x : Xbar) (clk src : Nat) : Xbar :=
  let taken := x.counters.map fun w => counterTake w src
  let again := (List.range 16).filter fun i => (taken.toList.getD i (0, false)).2
  { x with
    counters := taken.map (·.1)
    latches := Vector.ofFn fun i => if (termSources x.terms[i]).getLsbD src then x.latches[i] ||| ((1 : BitVec 32) <<< src) else x.latches[i]
    pulses := x.pulses ++ again.map fun i => (16 + i, clk) }

/-- Whether term `t` fires: every source of `ALL`, and one of `ANY` where it names any. -/
def Xbar.fires (x : Xbar) (t : Nat) : Bool :=
  if h : t < 8 then
    let w := x.terms[t]
    let l := x.latches[t]
    let all : BitVec 32 := w.extractLsb' 0 32
    let any : BitVec 32 := w.extractLsb' 32 32
    w != 0 && l &&& all == all && (any == 0 || l &&& any != 0)
  else false

/-- `XBAR_PULSE`: the oldest pulse of an earlier clock reaches the counters and terms. -/
def execXbarPulse (s : State) : Host.Outcome State Fault Refusal :=
  let c := s.cur.core
  let x := s.xbar c
  .next (match x.pulses with
    | [] => s
    | (src, t) :: r => if t < s.clk then s.setXbar c (({ x with pulses := r } : Xbar).take s.clk src) else s)

/-- `XBAR_TERM_FIRE`: term `n` fires, and its latches are cleared. -/
def execXbarTermFire (s : State) : Host.Outcome State Fault Refusal :=
  let c := s.cur.core
  let x := s.xbar c
  let t := s.cur.n
  .next (if x.fires t then
      s.setXbar c (if h : t < 8 then { x with latches := x.latches.set t 0, fired := x.fired ++ [(t, s.clk)] } else x)
    else s)

/-- `XBAR_TIMER`: source 13 pulses once a period (R206). -/
def execXbarTimer (s : State) : Host.Outcome State Fault Refusal :=
  let c := s.cur.core
  let x := s.xbar c
  let p := fld x.timer 31 0
  .next (if p != 0 && x.timerAt ≤ s.clk then (s.setXbar c { x with timerAt := x.timerAt + p }).pulse c 13 else s)

/-! ### Start inputs -/

/-- The start inputs that a term acts on. -/
def Xbar.startsOf (x : Xbar) (t : Nat) : List Nat :=
  (List.range 16).filter fun i => let w := x.starts.toList.getD i 0; bit w 15 && fld w 14 12 == t

/-- A pulse of a start input: its action is pending, or the pulse is lost with its overrun bit (R207). -/
def Xbar.start (x : Xbar) (i : Nat) : Xbar :=
  let b : BitVec 16 := (1 : BitVec 16) <<< i
  if x.pending.getLsbD i then { x with overrun := x.overrun ||| b } else { x with pending := x.pending ||| b }

/-- Release the oldest gated entry of a chain that has not been released (R225). -/
def State.release (s : State) (c rti : Nat) (arr : Bool) : Option State :=
  let x := s.chain c rti arr
  match x.tags.find? fun t => !t.released && !t.finished && bit ((s.entryWords c x t.seq).getD 0 0) 55 with
  | none => none
  | some t => some (s.setChain c rti arr (x.put { t with released := true }))

/-- The action of start input `i`, where it can be taken (R206). -/
def State.startAction (s : State) (c i : Nat) : Option State :=
  let k := s.core c
  match k.xbarTask with
  | none => none
  | some rti =>
    if i = 0 then s.release c rti true
    else if i = 1 then s.release c rti false
    else if i < 4 then
      some (s.setCore c (if h : i - 2 < 2 then { k with helpers := k.helpers.set (i - 2) { k.helpers[i - 2] with wake1 := true } } else k))
    else
      let w := k.xbar.starts.toList.getD i 0
      let task := ((s.resident c rti).map (·.task)).getD 0
      if ((s.task task).map (·.state)) == some .draining then some s
      else match s.actorOf c task (fld w 11 6) with
      | none => none
      | some (e, a) => match (s.inputsOf a).find? (·.ch == fld w 1 0) with
        | none => none
        | some q => if 1 ≤ q.room then some (s.commit c e (fld w 1 0) [0]) else none

/-- `XBAR_START_ACTION`: the oldest term that fired in an earlier clock pulses its start inputs; without one, the pending
action of start input `n` is taken. -/
def execXbarStartAction (s : State) : Host.Outcome State Fault Refusal :=
  let c := s.cur.core
  let x := s.xbar c
  .next (match x.fired.find? (·.2 < s.clk) with
    | some (t, at_) => s.setXbar c ((x.startsOf t).foldl Xbar.start { x with fired := x.fired.erase (t, at_) })
    | none =>
      if x.pending.getLsbD s.cur.n then
        match s.startAction c s.cur.n with
        | some s' => let y := s'.xbar c
          s'.setXbar c { y with pending := y.pending &&& ~~~((1 : BitVec 16) <<< s.cur.n) }
        | none => s
      else s)

end Sys2Proof.Machine
end

