-- ==== Sys2Proof/Machine/TaskTypes.lean ====
section
/-! DEFINITION. Task types and the allotment of cores (R282, R283, R296), the binding of channels at placement (R470), and the
filling of the cores' tables. -/

namespace Sys2Proof.Machine

/-! ### Types (R282) -/

/-- Bits of a word of a type. -/
def tyF (ws : List Word) (i hi lo : Nat) : Nat := fld (ws.getD i 0) hi lo
def tyBit (ws : List Word) (b : Nat) : Bool := bit (ws.getD 0 0) b
def tyBands (ws : List Word) : Nat := tyF ws 0 59 56 + 1
def tyCores (ws : List Word) : Nat := tyF ws 0 55 52 + 1
def tySlots (ws : List Word) : Nat := tyF ws 0 51 49 + 1
/-- Bytes of the scratchpad, channel and lane-slice ranges (R283). -/
def tySp (ws : List Word) : Nat := tyF ws 0 31 16 * 4096
def tyCh (ws : List Word) : Nat := tyF ws 0 15 8 * 1024
def tySl (ws : List Word) : Nat := tyF ws 0 7 0 * 64
/-- Bytes of the copy ring and of the array ring (R215). -/
def tyCopyRing (ws : List Word) : Nat := 2 ^ tyF ws 1 55 52 * 64
def tyArrRing (ws : List Word) : Nat := if tyBit ws 47 then 2 ^ tyF ws 1 59 56 * 64 else 0

/-- Bytes that an image's input channels occupy (R75). -/
def imageChBytes (m : Image) : Nat := m.actors.foldl (fun n a => a.ins.foldl (fun n i => n + i.depth * 128) n) 0

/-- Whether an entry with `V` = 1 is valid (R282, R283). -/
def typeOk (images : SMap Image) (t : TaskType) : Bool :=
  let ws := t.words
  let clogn := tyF ws 1 55 52
  let alogn := tyF ws 1 59 56
  fld (ws.getD 0 0) 62 60 == 0 && fld (ws.getD 0 0) 41 32 == 0 && (!tyBit ws 42 || tyBands ws == 1) && tyF ws 0 31 16 ≤ 256 &&
  tyF ws 0 7 0 ≤ 64 && (if tyBit ws 47 then 4 ≤ alogn && alogn ≤ 8 else alogn == 0) && 4 ≤ clogn && clogn ≤ 8 && tyF ws 1 51 0 == 0 &&
  tyCopyRing ws + tyArrRing ws ≤ tySp ws &&
  (List.range (tyBands ws)).all fun b => match (t.roles.getD b none).bind (mget images) with
    | some m => imageChBytes m ≤ tyCh ws
    | none => false

/-! ### Ranges, first-fit (R296) -/

def roundUp (a n : Nat) : Nat := (a + n - 1) / n * n

/-- Whether [a, a + n) overlaps a range in use. -/
def rangeTaken (used : List (Nat × Nat)) (a n : Nat) : Bool := used.any fun u => u.2 != 0 && a < u.1 + u.2 && u.1 < a + n

/-- The lowest free address of `n` bytes below `limit`. -/
def firstFit (used : List (Nat × Nat)) (n align limit : Nat) : Option Nat :=
  if n = 0 then some 0
  else
    let cs := (0 :: used.map fun u => roundUp (u.1 + u.2) align).filter fun a => a + n ≤ limit && !rangeTaken used a n
    cs.foldl (fun m a => match m with
      | none => some a
      | some b => some (min a b)) none

/-- Bytes of a core's scratchpad, and of a lane slice. -/
def spBytes : Nat := 2 ^ 20
def sliceBytes : Nat := 4096

/-- What a core would give a task of type `ws` in band `band` with image `m`, where it meets the needs of R283 and R296. -/
def Core.allot (x : Core) (ws : List Word) (task band : Nat) (m : Image) : Option (Nat × Resident) :=
  let rs := x.tasks.map (·.2)
  let held := rs.foldl (fun n r => n + r.slots) 0
  let spUsed := rs.flatMap fun r => [(r.spBase, r.spSize), (r.chBase, r.chSize)]
  if (if x.pins then 7 else 8) < held + tySlots ws || rs.any (·.excl) || (tyBit ws 48 && !rs.isEmpty) || (tyBit ws 47 && rs.any (·.arr)) ||
      (tyBit ws 46 && rs.any (·.xbar)) || (tyBit ws 45 && rs.any (·.links)) || 64 < x.actors.length + m.actors.length then none
  else
    match mfree x.tasks 0 8, firstFit spUsed (tySp ws) 4096 spBytes with
    | some rti, some sp =>
      match firstFit ((sp, tySp ws) :: spUsed) (tyCh ws) 1024 spBytes, firstFit (rs.map fun r => (r.slBase, r.slSize)) (tySl ws) 64 sliceBytes with
      | some ch, some sl => some (rti,
          { task
            slots := tySlots ws
            spBase := sp
            spSize := tySp ws
            chBase := ch
            chSize := tyCh ws
            slBase := sl
            slSize := tySl ws
            arr := tyBit ws 47
            xbar := tyBit ws 46
            links := tyBit ws 45
            helpers := tyBit ws 44
            rcap := tyBit ws 43
            excl := tyBit ws 48
            contrib := BitVec.ofNat 4 (tyF ws 1 63 60)
            band
            cchain := { cfg := wd (sp / 64 + tyF ws 1 55 52 * 2 ^ 32) }
            achain := { cfg := if tyBit ws 47 then wd ((sp + tyCopyRing ws) / 64 + tyF ws 1 59 56 * 2 ^ 32) else 0 } })
      | _, _ => none
    | _, _ => none

/-! ### Bands (R296) -/

/-- A core given to a task: its place and its resident record. -/
abbrev Grant := Place × Resident

/-- Whether a core is quarantined (R444). -/
def State.quarantined (s : State) (c : Nat) : Bool :=
  let i := yOf c * 16 + xOf c
  bit ((s.die (dieOf c)).cquar.toList.getD (i / 64) 0) (i % 64)

/-- Whether the task engine places tasks on a core (R296, R441, R444). -/
def State.placeable (s : State) (c : Nat) : Bool := s.inPartition c && !(s.core c).fenced && !s.quarantined c

/-- The cores of a cluster that can form a band, in ascending k, no more than the type asks for. -/
def State.bandIn (s : State) (die cl : Nat) (ok : Nat → Bool) (core : Nat → Core) (ws : List Word) (task band image : Nat) (m : Image) : List Grant :=
  let gs := (List.range 16).filterMap fun k =>
    let c := clusterCore die cl k
    if ok c && mget s.pkg.placed c == some image then
      ((core c).allot ws task band m).map fun r => (({ band, member := 0, core := c, rti := r.1 } : Place), r.2)
    else none
  ((gs.take (tyCores ws)).zip (List.range 16)).map fun g => ({ g.1.1 with member := g.2 }, { g.1.2 with member := g.2 })

/-- Form band `band` in the lowest cluster that can hold it. -/
def State.formBand (s : State) (die : Nat) (cls : List Nat) (ok : Nat → Bool) (core : Nat → Core) (ws : List Word) (task band image : Nat) (m : Image) :
    Option (List Grant) :=
  match cls with
  | [] => none
  | cl :: t =>
    let gs := s.bandIn die cl ok core ws task band image m
    if gs.length = tyCores ws then some gs else s.formBand die t ok core ws task band image m

/-- The cores that a task fits on: bands `bs` in turn, none taking a core of an earlier one (R296). `core` gives each
core as it is to be judged, `ok` the cores that a band may take. -/
def State.plan (s : State) (die : Nat) (bs : List Nat) (ok : Nat → Nat → Bool) (core : Nat → Core) (ws : List Word) (roles : List (Option Nat)) (task : Nat) :
    Option (List Grant) :=
  match bs with
  | [] => some []
  | b :: t =>
    match roles.getD b none with
    | none => none
    | some i => match mget s.pkg.images i with
      | none => none
      | some m =>
        match s.formBand die (List.range 12) (ok b) core ws task b i m with
        | none => none
        | some gs =>
          let taken := gs.map (·.1.core)
          (s.plan die t (fun b c => ok b c && !taken.contains c) core ws roles task).map (gs ++ ·)

/-- Whether a type could be formed on an empty partition (R288, R296). -/
def State.everFits (s : State) (die : Nat) (ws : List Word) (roles : List (Option Nat)) : Bool :=
  (s.plan die (List.range (tyBands ws)) (fun _ => s.inPartition) (fun _ => {}) ws roles 0).isSome

/-! ### Filling the cores (R183, R74, R470) -/

/-- An actor of a task, as it enters the table of a core; `outs` name the targets' images and actors until they are bound. -/
def newActor (task rti idx image cls : Nat) (priv : Bool) (a : ActorDecl) : Actor :=
  { task, rti, idx, entry := a.entry, priv := a.priv && priv, image
    cls := if a.ins.isEmpty then cls else a.ins.foldl (fun m i => min m i.cls) 3
    ins := a.ins.map fun i => { ch := i.ch, rate := i.rate, depth := i.depth, cls := i.cls }
    outs := []
    stage := idx }

/-- Put actors into the free entries of an actor table, lowest first. -/
def fillActors (m : SMap Actor) (as : List Actor) : SMap Actor :=
  match as with
  | [] => m
  | a :: t => match mfree m 0 64 with
    | some n => fillActors (mset m n a) t
    | none => m

/-- The image of a band. -/
def Task.image (t : Task) (b : Nat) : Option Nat := t.roles.getD b none

/-- The place whose replica an output to image `i` of a sender at place `p` is bound to (R470). -/
def Task.boundTo (t : Task) (p : Place) (i : Nat) : Option Place :=
  (if t.image p.band == some i then some p else none) <|>
  (t.places.find? fun q => q.band == p.band && t.image q.band == some i) <|>
  (t.places.find? fun q => t.image q.band == some i)

/-- Bind the outputs of an actor at a place; one without a target is bound to no entry. -/
def State.bindOuts (s : State) (t : Task) (id : Nat) (p : Place) (ds : List OutDecl) : List OutChan :=
  ds.map fun o =>
    match t.boundTo p o.image with
    | none => { ch := o.ch, rate := o.rate, tcore := p.core, tactor := 64, tch := o.tch }
    | some q => { ch := o.ch, rate := o.rate, tcore := q.core, tactor := ((s.actorOf q.core id o.actor).map (·.1)).getD 64, tch := o.tch }

/-- Fill the actor table of a place with a task's actors. -/
def State.fillPlace (s : State) (t : Task) (id : Nat) (p : Place) : State :=
  match (t.image p.band).bind fun i => (mget s.pkg.images i).map fun m => (i, m) with
  | none => s
  | some (i, m) =>
    let as := (m.actors.zip (List.range m.actors.length)).map fun a => newActor id p.rti a.2 i t.cls (s.inColumn p.core) a.1
    let x := s.core p.core
    s.setCore p.core { x with actors := fillActors x.actors as }

/-- Bind the outputs of a task's actors at a place. -/
def State.bindPlace (s : State) (t : Task) (id : Nat) (p : Place) : State :=
  match (t.image p.band).bind (mget s.pkg.images) with
  | none => s
  | some m =>
    let x := s.core p.core
    s.setCore p.core { x with actors := x.actors.map fun a =>
      if a.2.task == id then (a.1, { a.2 with outs := s.bindOuts t id p (((m.actors[a.2.idx]?).map (·.outs)).getD []) }) else a }

/-- The stages' queues of a balanced band (R312). -/
def Task.newQueues (s : State) (t : Task) : SMap (List InChan) :=
  if !tyBit t.tw 42 then []
  else match (t.image 0).bind (mget s.pkg.images) with
    | none => []
    | some m => ((List.range m.actors.length).zip m.actors).map fun a => (a.1, a.2.ins.map fun i => { ch := i.ch, rate := i.rate, depth := i.depth, cls := i.cls })

/-- Every task in flight, of all dies. -/
def State.allTasks (s : State) : List (Nat × Task) := s.dies.flatMap fun d => d.2.tasks

/-- What a core contributes to its cluster's window: its residents' banks, and those of tasks that left it and whose exit edge is not
complete (R260, R261). -/
def State.contributed (s : State) (c : Nat) : Word :=
  let held := (s.core c).tasks.foldl (fun w r => w ||| r.2.contrib.zeroExtend 64) 0
  s.allTasks.foldl (fun w t => t.2.windows.foldl (fun w p => if p.1 = c then w ||| p.2.zeroExtend 64 else w) w) held

/-- Set `WINCTL` of a core (R260). -/
def State.renewWinctl (s : State) (c : Nat) : State := s.setCore c { s.core c with winctl := s.contributed c }

/-- Allot granted cores to a task: their resident records with the task's handle table (R183, R296); an array that is allotted is zeroed and
its maps are dense, and a crossbar is all zeros (R206, R214, R229). -/
def State.grant (s : State) (gs : List Grant) (handles : SMap Handle) : State :=
  gs.foldl (fun s g =>
    let s := s.setResident g.1.core g.1.rti { g.2 with handles }
    let s := if g.2.arr then { s.setCore g.1.core { s.core g.1.core with array := {} } with bad := badLeft s.bad (Loc.acc g.1.core 0) 131072 } else s
    let s := if g.2.xbar then s.setCore g.1.core { s.core g.1.core with xbar := {} } else s
    s.renewWinctl g.1.core) s

/-- Judge the handle tables that a dispatch has filled (R184). -/
def State.judgeTables (s : State) (ps : List Place) : State :=
  ps.foldl (fun s p => match s.resident p.core p.rti with
    | some r => s.setResident p.core p.rti (s.judgeHandles p.core r)
    | none => s) s

/-- Place a task on granted cores: resident records, actor tables, bindings. -/
def State.install (s : State) (id : Nat) (t : Task) (gs : List Grant) : State :=
  let t := { t with places := gs.map (·.1), queues := t.newQueues s }
  let s := ((s.grant gs t.handles).setTask id t).judgeTables t.places
  let s := t.places.foldl (fun s p => s.fillPlace t id p) s
  t.places.foldl (fun s p => s.bindPlace t id p) s

end Sys2Proof.Machine
end

