-- ==== Sys2Proof/Machine/Tasks.lean ====
section
/-! DEFINITION. Tasks: descriptors and their refusal (R284 to R290, R472), conflicts (R293, R294), requests for pre-emption
(R308, R309), and the instructions at opcodes 0xE0 to 0xE3 (R287, R303, R304, R311). -/

namespace Sys2Proof.Machine

/-! ### The header (R284) -/

/-- A word of a descriptor. -/
def dw (ws : List Word) (i : Nat) : Word := ws.getD i 0

/-- Whether the header breaks R284, `DONE` and `WCTR` aside. -/
def headerBad (ws : List Word) : Bool :=
  16 < fld (dw ws 0) 51 47 || (bit (dw ws 0) 46 && fld (dw ws 1) 47 0 != 0) || fld (dw ws 0) 43 24 != 0 || fld (dw ws 1) 63 48 != 0 ||
  fld (dw ws 2) 63 57 != 0 || fld (dw ws 2) 4 0 != 0 || fld (dw ws 3) 53 9 != 0 || 256 < fld (dw ws 3) 8 0 ||
  fld (dw ws 8) 63 57 != 0 || fld (dw ws 8) 5 0 != 0 || fld (dw ws 9) 63 57 != 0 || fld (dw ws 9) 7 0 != 0 || fld (dw ws 10) 63 16 != 0 ||
  (List.range 5).any fun i => dw ws (11 + i) != 0

/-- Whether a counter word of the new task fails: no `CHIP` or `DEV` handle, or a `CTR` condition of R221. -/
def State.taskCtrBad (s : State) (die : Nat) (hs : SMap Handle) (w : Word) : Bool :=
  match mget hs (fld w 63 56) with
  | none => true
  | some h =>
    !s.handleOk (coreAt die 0 0) { task := 0 } h || (h.space != spChip && h.space != spDev) || h.len < fld w 44 0 + 8 || fld w 44 0 % 8 != 0 ||
    (fld w 55 48 != 0 && (fld w 47 45 == 0 || 6 ≤ fld w 47 45))

/-- The handle table image (R183): entry i is 32 bytes at 32 i. -/
def handleImage (bs : List Byte) (i n : Nat) : SMap Handle :=
  match n with
  | 0 => []
  | k + 1 => (i, { w0 := wordAt bs 0, w1 := wordAt bs 1, w2 := wordAt bs 2, w3 := wordAt bs 3 }) :: handleImage (bs.drop 32) (i + 1) k

/-- The mode of a region record's code. -/
def modeOf (n : Nat) : Mode :=
  match n with
  | 0 => .r
  | 1 => .w
  | 2 => .rw
  | _ => .acc

/-- A region record of four words, resolved (R285, R286); `none` where it is refused. -/
def State.regionOf (s : State) (die : Nat) (ty : List Word) (nh : Nat) (hs : SMap Handle) (ws : List Word) : Option Region :=
  let w1 := dw ws 1
  let w2 := dw ws 2
  let ofs := fld (dw ws 0) 56 0
  let ext := fld w1 47 0
  let mode := modeOf (fld w1 55 54)
  let fwd := bit w1 53
  match mget hs (fld w1 63 56) with
  | none => none
  | some h =>
    let bad := !s.handleOk (coreAt die 0 0) { task := 0, spSize := tySp ty, slSize := tySl ty } h || h.space < 3 || nh ≤ fld w1 63 56 ||
      h.len < ofs + ext || fld (dw ws 0) 63 57 != 0 || fld w1 52 48 != 0 || fld w2 63 28 != 0 || dw ws 3 != 0 || ext == 0 ||
      (if fwd then !(mode == .r || mode == .rw) || h.space == spStrm || 2 ^ 18 < ext || fld w2 19 0 % 16 != 0 || tyBands ty ≤ fld w2 27 24 ||
          tyCores ty ≤ fld w2 23 20 || tySp ty < fld w2 19 0 + ext
       else w2 != 0)
    if bad then none
    else some { hidx := fld w1 63 56, ofs, ext, mode, fwd, tb := fld w2 27 24, tm := fld w2 23 20, tofs := fld w2 19 0,
                space := h.space, base := h.base, key := h.key, ilv := h.ilv, now := some mode }

/-- The records of a descriptor, or the index of the first that is refused. -/
def State.regionsOf (s : State) (die : Nat) (ty : List Word) (nh : Nat) (hs : SMap Handle) (ws : List Word) (i n : Nat) : Except Nat (List Region) :=
  match n with
  | 0 => .ok []
  | k + 1 =>
    match s.regionOf die ty nh hs ws with
    | none => .error i
    | some r => match s.regionsOf die ty nh hs (ws.drop 4) (i + 1) k with
      | .error e => .error e
      | .ok rs => .ok (r :: rs)

/-! ### Judging a descriptor (R288, R290, R472) -/

/-- Who spawns a task: the die that issues, its context, the timestamp that `INH` takes, the keys it may name, the wait
counter of the graph engine, patches of the handle table, and what the task inherits. -/
structure Spawner where
  die   : Nat
  ctx   : Nat
  ts    : Nat := 0
  keyOk : Nat → Bool
  preds : Option Nat := none
  patch : SMap Handle → SMap Handle := id
  graph : Option (Nat × Nat) := none
  queue : Option Nat := none

/-- The refusal word of `TSPAWN`. -/
def refusalWord (code idx : Nat) : Word := wd (2 ^ 63 + idx * 256 + code)

/-- Whether a die is out of service: every core of its partition is fenced. -/
def State.dieFenced (s : State) (die : Nat) : Bool :=
  let cs := ((List.range 192).map fun i => die * 256 + i).filter s.inPartition
  !cs.isEmpty && cs.all fun c => (s.core c).fenced

/-- The die that a selector names (R287). -/
def State.selectDie (s : State) (die : Nat) (sel : Word) : Option Nat :=
  if fld sel 63 4 != 0 then none
  else
    let d := if bit sel 3 then fld sel 2 0 else die
    if s.dieFenced d then none else some d

/-- Whether a stream id passes R290: its key stands in a valid entry of the table image, judged with the ranges of the task's type; the window
is not placed yet, so an entry of the cluster window is judged by its bounds (notes/assumptions/122.md). -/
def State.sidOk (s : State) (die : Nat) (ty : List Word) (hs : SMap Handle) (sid : Nat) : Bool :=
  match s.stream sid with
  | none => false
  | some e => hs.any fun h => s.entryOk die (tySl ty) (tySp ty) (fun a n => a + n ≤ 2 ^ 22) h.2 && h.2.key == e.key

/-- Judge a descriptor in the order of R472: its refusal word, or the die and the task. -/
def State.judge (s : State) (p : Spawner) (sel : Word) (ws : List Word) : Except Word (Nat × Task) :=
  let no (code idx : Nat) : Except Word (Nat × Task) := .error (refusalWord code idx)
  match s.selectDie p.die sel with
  | none => no 0x07 0
  | some die =>
    if headerBad ws then no 0x04 0
    else match mget s.pkg.types (fld (dw ws 0) 63 54) with
      | none => no 0x01 0
      | some ty =>
        if !bit (ty.words.getD 0 0) 63 || !typeOk s.pkg.images ty then no 0x01 0
        else if !s.everFits die ty.words ty.roles then no 0x02 0
        else
          let key := fld (dw ws 3) 63 54
          let nh := fld (dw ws 3) 8 0
          let image := if p.keyOk key && s.keyLoaded key then s.devRead die p.ctx key (fld (dw ws 2) 56 0) (32 * nh) else .error .xlate
          match image with
          | .error _ => no 0x06 0
          | .ok bs =>
            let hs := p.patch (handleImage bs 0 nh)
            let waits := bit (dw ws 0) 44
            if fld (dw ws 4) 55 48 != 0 && s.taskCtrBad die hs (dw ws 4) then no 0x04 0
            else if p.preds.isNone && (if waits then fld (dw ws 6) 55 48 != 0 || s.taskCtrBad die hs (dw ws 6) else dw ws 6 != 0) then no 0x04 0
            else match s.regionsOf die ty.words nh hs (ws.drop 16) 0 (fld (dw ws 0) 51 47) with
              | .error i => no 0x05 i
              | .ok rs =>
                let sid := fld (dw ws 0) 23 0
                if sid != 0 && !s.sidOk die ty.words hs sid then no 0x08 0
                else if 4096 ≤ (s.die die).tasks.length then no 0x03 0
                else .ok (die,
                  { typ := fld (dw ws 0) 63 54
                    tw := ty.words
                    roles := ty.roles
                    cls := fld (dw ws 0) 53 52
                    ts := if bit (dw ws 0) 46 then min (p.ts + 1) (2 ^ 48 - 1) else fld (dw ws 1) 47 0
                    sid
                    regions := rs
                    handles := hs
                    ctx := p.ctx
                    key
                    parm := dw ws 5
                    noadd := bit (dw ws 0) 45
                    doneW := dw ws 4
                    waitW := dw ws 6
                    wait := waits || p.preds.isSome
                    wtgt := dw ws 7
                    preds := p.preds
                    recAddr := fld (dw ws 8) 56 0
                    cap := fld (dw ws 9) 56 0
                    ncap := fld (dw ws 10) 15 0
                    graph := p.graph
                    queue := p.queue })

/-! ### Entering the engine (R289, R291, R292) -/

/-- The place and key of a counter that a word of a task names. -/
def State.taskCounter (s : State) (id : Nat) (t : Task) (w : Word) (wr : Bool) : Option (Nat × Nat) :=
  match mget t.handles (fld w 63 56) with
  | none => none
  | some h =>
    let a := h.base + fld w 44 0
    if !s.keyLoaded h.key then none
    else if h.space = spChip then some (Loc.chip (id / 2 ^ 29) a, h.key)
    else match s.xlateVia (id / 2 ^ 29) t.ctx a wr h.ilv with
      | .ok pa => some (Loc.phys pa, h.key)
      | .error _ => none

/-- Whether what a waiting task waits for holds (R292, R425). -/
def State.waitMet (s : State) (id : Nat) (t : Task) : Bool :=
  match t.preds with
  | some n => n == 0
  | none => match s.taskCounter id t t.waitW false with
    | some (a, k) => t.wtgt.toNat ≤ ofLe (s.homeRead k a 8)
    | none => false

/-- Put a task at the tail of its class queue. -/
def State.enqueue (s : State) (id : Nat) : State :=
  match s.task id with
  | none => s
  | some t =>
    let d := s.die (id / 2 ^ 29)
    (s.setDie (id / 2 ^ 29) { d with qseq := d.qseq + 1 }).setTask id { t with state := .queued, qpos := d.qseq }

/-- The first number from `n` on that no task in flight holds (R289). -/
def freeId (m : SMap Task) (die n fuel : Nat) : Nat :=
  match fuel with
  | 0 => n
  | f + 1 =>
    let n := if n % 2 ^ 29 = 0 then 1 else n % 2 ^ 29
    if (mget m (die * 2 ^ 29 + n)).isSome then freeId m die (n + 1) f else n

/-- A judged task enters its first state: its id. -/
def State.enter (s : State) (die : Nat) (t : Task) : Nat × State :=
  let d := s.die die
  let n := freeId d.tasks die d.nextTask 4098
  let id := die * 2 ^ 29 + n
  let s := (s.setDie die { d with nextTask := (n + 1) % 2 ^ 29 }).setTask id { t with state := .waiting }
  (id, if t.wait && !s.waitMet id t then s else s.enqueue id)

/-- Submit a descriptor: `g[D]` of `TSPAWN`. -/
def State.spawn (s : State) (p : Spawner) (sel : Word) (ws : List Word) : Word × State :=
  match s.judge p sel ws with
  | .error w => (w, s)
  | .ok (die, t) =>
    let (id, s) := s.enter die t
    (wd id, s)

/-! ### Conflicts (R293, R294) -/

/-- The streams that a task acts for (R286). -/
def Task.acts (t : Task) : List Nat := if t.batch.isEmpty then (if t.sid = 0 then [] else [t.sid]) else t.batch

/-- The rights that a record counts with (R293): those that `TREG` has given up count until its flush is done (R304). -/
def Region.rights (r : Region) : Option Mode := if r.flushing then r.kept else r.now

def modesConflict (a b : Option Mode) : Bool :=
  match a, b with
  | some .r, some .r => false
  | some .acc, some .acc => false
  | some _, some _ => true
  | _, _ => false

def Task.conflicts (t u : Task) : Bool :=
  t.regions.any fun a => u.regions.any fun b =>
    a.space == b.space && a.lo < b.hi && b.lo < a.hi && modesConflict a.rights b.rights && (a.space != spStrm || t.acts.any u.acts.contains)

/-- Whether a task has been placed and has not published. -/
def TaskState.live : TaskState → Bool
  | .waiting => false
  | .queued => false
  | .held => false
  | _ => true

def TaskState.ending : TaskState → Bool
  | .draining => true
  | .flushing => true
  | _ => false

/-- Whether a task is on cores, or in its image (R339). -/
def TaskState.holds : TaskState → Bool
  | .waiting => false
  | .queued => false
  | .held => false
  | .flushing => false
  | _ => true

/-- The tasks in flight that conflict with a task. -/
def State.rivals (s : State) (id : Nat) (t : Task) : List (Nat × Task) := s.allTasks.filter fun u => u.1 != id && t.conflicts u.2

/-- Whether key (ts, id) of the first is lower (R294). -/
def keyBelow (a b : Nat × Task) : Bool := a.2.ts < b.2.ts || (a.2.ts == b.2.ts && a.1 < b.1)

/-- Whether a queued or held task is admissible; with `early`, tasks that are ending do not hold it (R294, R301). -/
def State.admissible (s : State) (id : Nat) (t : Task) (early : Bool) : Bool :=
  (s.rivals id t).all fun u => !((u.2.state.live && !(early && u.2.state.ending)) || ((u.2.state == .queued || u.2.state == .held) && keyBelow u (id, t)))

/-! ### Streams that a task acts for (R339, R359, R398) -/

/-- Whether a placed task other than `id` acts for a stream. -/
def State.actedFor (s : State) (g id : Nat) : Bool := s.allTasks.any fun u => u.1 != id && u.2.state.holds && u.2.acts.contains g

/-! ### Requests for pre-emption (R308, R309, R471) -/

/-- Bytes of an image in the save pool (R471; the sizes that the spec does not give are notes/assumptions/18.md). -/
def imageBytes (ws : List Word) : Nat :=
  tyBands ws * tyCores ws *
    (tySlots ws * 8192 + tySp ws + tyCh ws + 32 * tySl ws + (if tyBit ws 47 then 4 * 128 * 64 * 4 else 0) + 16384 + 8 * 128)

/-- Whether the pool has room for a task's image. -/
def State.saveRoom (s : State) (id : Nat) (t : Task) : Bool :=
  let d := s.die (id / 2 ^ 29)
  t.reserved != 0 || d.saveUsed + imageBytes t.tw ≤ d.tesavesz.toNat

/-- End the requests in progress for a task: `BUSY` clears in every `TEPREQ` that names it. -/
def State.requestDone (s : State) (id : Nat) : State :=
  { s with dies := s.dies.map fun d => if bit d.2.tepreq 63 && fld d.2.tepreq 31 0 == id then (d.1, { d.2 with tepreq := setFld d.2.tepreq 63 63 0 }) else d }

/-- Clocks of a time in nanoseconds: 9 clk are 4 ns (R3). -/
def clkOfNs (ns : Nat) : Nat := (ns * 9 + 3) / 4

/-- Begin the pre-emption of a running task: no firing starts any more. -/
def State.beginPreempt (s : State) (id : Nat) (t : Task) : State :=
  s.setTask id { t with state := .preempting, preempt := true, saveAt := s.clk + clkOfNs (fld (s.die (id / 2 ^ 29)).tepwait 31 0) }

/-- Take a placed task off its cores. -/
def State.unplace (s : State) (id : Nat) (t : Task) : State :=
  t.places.foldl (fun s p =>
    let x := s.core p.core
    s.setCore p.core { x with tasks := mdel x.tasks p.rti, actors := x.actors.filter fun a => a.2.task != id }) s

/-- A stream's state once no placed task acts for it: ready again, unless a prune or a park is pending (R339, R359, R398). -/
def State.streamIdle (s : State) (id g : Nat) : State :=
  match s.stream g with
  | none => s
  | some e =>
    if e.state != .running || e.ppnd || s.actedFor g id || s.pkg.parks.any (fun r => r.2.sid == g && r.2.state == 1) then s
    else s.setStream g { e with state := .ready, readyAt := s.clk }

/-- What a request does, and whether it is in progress after it, or refused. -/
inductive Request where
  | done | busy | refused
deriving DecidableEq, Repr

/-- Request the pre-emption of a task (R308, R309). -/
def State.requestPreempt (s : State) (id : Nat) : Request × State :=
  match s.task id with
  | none => (.refused, s)
  | some t =>
    match t.state with
    | .waiting => (.done, s)
    | .queued => (.done, s)
    | .held => (.done, s)
    | .saved => (.done, s)
    | .flushing => (.done, s)
    | st =>
      if tyBit t.tw 44 || tyBit t.tw 46 || !s.saveRoom id t then (.refused, s)
      else match st with
        | .placed =>
          let s := (s.unplace id t).setTask id { t with state := .held, places := [], queues := [] }
          (.done, t.acts.foldl (fun s g => s.streamIdle id g) s)
        | .running => (.busy, s.beginPreempt id t)
        | _ => (.busy, s.setTask id { t with preempt := true })

/-! ### The instructions -/

/-- Whether a key appears in a valid entry of a resident task's handle table (R287, R340). -/
def Resident.holdsKey (r : Resident) (key : Nat) : Bool := r.valids.any (·.key == key)

/-- `TSPAWN` (R287). -/
def tspawnBody (x : Ctx) (s : State) : Body :=
  let hi := hidx x.w.imm
  loadVia x s hi x.off 128 64 spAll fun s hdr =>
    let n := fld (wordAt hdr 0) 51 47
    let go (s : State) (bs : List Byte) : Body :=
      let r := x.res s
      let t := (s.task r.task).getD {}
      let p : Spawner := { die := dieOf x.c, ctx := t.ctx, ts := t.ts, keyOk := r.holdsKey, queue := t.queue }
      let (w, s) := s.spawn p (x.g x.w.b) (wordsOf bs)
      .ok { s, writes := [.g x.w.d w] }
    if n = 0 then go s hdr else loadVia x s hi x.off (128 + 32 * n) 64 spAll go 1

/-- `TDONE` and `TDONE.kill` (R303). -/
def tdoneBody (kill : Bool) (x : Ctx) (s : State) : Body :=
  let id := (x.res s).task
  match s.task id with
  | none => .ok { s }
  | some t =>
    let s := s.setTask id { t with tdone := true, status := if kill then 2 else t.status }
    .ok { s := if kill && !(t.tdone && t.status == 2) then s.killLater id (some (x.c, x.k)) else s }

/-- What `TREG` leaves of a record's rights (R304). -/
def Region.giveUp (r : Region) (ro : Bool) : Region :=
  if r.released then r
  else match ro, r.now with
    | _, none => r
    | true, some .r => r
    | true, some .rw => { r with now := some .r, flushing := true, kept := r.rights }
    | _, some _ => { r with now := none, released := true, flushing := true, kept := r.rights }

/-- The written high-water mark of record `i` so far (R299). -/
def State.highWater (s : State) (t : Task) (i : Nat) : Nat :=
  t.places.foldl (fun m p => match s.resident p.core p.rti with
    | some r => max m (mgetD r.hiWater i 0)
    | none => m) ((t.regions[i]?).map (·.high) |>.getD 0)

/-- `TREG.rel` and `TREG.ro`: the comparators change at once; the flush follows (R304). -/
def tregBody (ro : Bool) (x : Ctx) (s : State) : Body :=
  let id := (x.res s).task
  let i := fld x.w.imm 3 0
  match s.task id with
  | none => .ok { s }
  | some t => match t.regions[i]? with
    | none => .ok { s }
    | some r => .ok { s := s.setTask id { t with regions := t.regions.set i { r.giveUp ro with high := s.highWater t i } } }

/-- The bits of the records that `p` holds for. -/
def regionBits (rs : List Region) (p : Region → Bool) : Nat := (rs.zip (List.range 16)).foldl (fun n r => if p r.1 then n + 2 ^ r.2 else n) 0

/-- `TQRY` (R311). -/
def tqry (s : State) (id sel : Nat) : Word :=
  match s.task id with
  | none => 0
  | some t =>
    match sel with
    | 0 => wd (t.state.code + t.cls % 4 * 16 + (if t.tdone then 64 else 0) + (if t.faulted then 128 else 0) + min t.preempts 255 * 256 +
        regionBits t.regions (·.released) * 2 ^ 16 + regionBits t.regions (fun r => r.released && r.flushed) * 2 ^ 32)
    | 1 => wd (t.ts % 2 ^ 48)
    | _ => match t.places with
      | p :: _ => wd (dieOf p.core * 2 ^ 16 + yOf p.core * 256 + xOf p.core + (tyBands t.tw - 1) * 2 ^ 20 + (tyCores t.tw - 1) * 2 ^ 24)
      | [] => 0

def execTspawn (w : Tolog) (s : State) := issue 0xE0 w s tspawnBody
def execTdone (w : Tolog) (s : State) := issue 0xE1 w s (tdoneBody false)
def execTdoneKill (w : Tolog) (s : State) := issue 0xE1 w s (tdoneBody true)
def execTregRel (w : Tolog) (s : State) := issue 0xE2 w s (tregBody false)
def execTregRo (w : Tolog) (s : State) := issue 0xE2 w s (tregBody true)
def execTqry (w : Tolog) (s : State) := issue 0xE3 w s fun x s =>
  .ok { s, writes := [.g x.w.d (tqry s (fld (x.g x.w.b) 31 0) (fld x.w.imm 1 0))] }

end Sys2Proof.Machine
end

