-- ==== Sys2Proof/Machine/ParkOps.lean ====
section
/-! DEFINITION. The park table, the watch table and the descriptor tables, with their images in memory (R394, R396, R400), and the
start of a stream's release (R351, R408). -/

namespace Sys2Proof.Machine

/-- The words of a park record (R396). -/
def Park.words (p : Park) : List Word :=
  [wd (p.state * 2 ^ 61 + p.sid), wd p.wake, wd p.anchor, wd (p.tfl * 2 ^ 32 + p.tcx), wd (p.hcnt * 2 ^ 32 + p.hfirst), wd p.nloc,
   wd (p.ncxl * 2 ^ 32 + p.nfl), wd p.key]

/-- Write a park record, or free it. A change of a record in use reads it first and leaves an uncorrectable error in it, for stage A to find (R409;
notes/assumptions/144.md). -/
def State.setPark (s : State) (i : Nat) (p : Option Park) : State :=
  let base := fld s.pkg.pkbase 51 12 * 4096 + 64 * i
  match p with
  | some p =>
    let t := ({ s with pkg := { s.pkg with parks := mset s.pkg.parks i p } }).homeWrite 0 base (bytesOf p.words)
    if (mget s.pkg.parks i).isSome then { t with bad := s.bad } else t
  | none => ({ s with pkg := { s.pkg with parks := mdel s.pkg.parks i } }).homeWrite 0 base (zeros 64)

/-- The record of a stream. -/
def State.parkOf (s : State) (g : Nat) : Option (Nat × Park) := s.pkg.parks.find? fun p => p.2.sid == g

/-- The slot of the watch table that a line's watch takes (R400). -/
def Pkg.watchSlot (p : Pkg) (addr : Nat) : Nat :=
  let i := fold (addr / 64) 0 50 21 % 2 ^ 21
  match mfree p.watches i (p.watches.length + 1) with
  | some n => if n < 2 ^ 21 then n else (mfree p.watches 0 (p.watches.length + 1)).getD 0
  | none => 0

/-- Register a watch on a wake line (R399, R400). -/
def State.addWatch (s : State) (addr place park : Nat) : State :=
  let n := s.pkg.watchSlot addr
  ({ s with pkg := { s.pkg with watches := mset s.pkg.watches n { addr, line := place / 64, park } } }).homeWrite 0 (s.pkg.watchAt n)
    (bytesOf [wd (2 ^ 63 + addr / 64 * 64 % 2 ^ 57), wd park])

/-- Take the watch of a record out of the table and its image (R400). -/
def State.clearWatch (s : State) (park : Nat) : State :=
  let s := (s.pkg.watches.filter fun w => w.2.park == park).foldl (fun s w => s.homeWrite 0 (s.pkg.watchAt w.1) (zeros 16)) s
  { s with pkg := { s.pkg with watches := s.pkg.watches.filter fun w => w.2.park != park } }

/-- Remove the watches of a park record. -/
def State.dropWatch (s : State) (park : Nat) : State :=
  let s := s.clearWatch park
  { s with pkg := { s.pkg with wakes := s.pkg.wakes.filter (· != park) } }

/-- The record ends: its watch is removed, and the slots and descriptors of pages that are not present are freed (R408). -/
def State.endPark (s : State) (i : Nat) (p : Park) : State :=
  ((p.kept.foldl (fun s k => s.setDesc (sidDie p.sid) k.2 none) s).dropWatch i).setPark i none

/-- Add one to a field of `PKSTAT`, which saturates (R410). -/
def State.pkCount (s : State) (hi lo : Nat) : State :=
  { s with pkg := { s.pkg with pkstat := setFld s.pkg.pkstat hi lo (satAdd (fld s.pkg.pkstat hi lo) 1 (2 ^ (hi + 1 - lo) - 1)) } }
def State.pkErr (s : State) : State := s.pkCount 63 48
def State.pkSkip (s : State) : State := s.pkCount 47 32
def State.pkRefused (s : State) : State := s.pkCount 31 24

/-- A stream becomes pruned, and its release begins; a record that is pending, parked or pre-promoting is freed with its
watch (R351, R359, R408). -/
def State.startRelease (s : State) (g : Nat) : State :=
  match s.stream g with
  | none => s
  | some e =>
    let s := s.setStream g { e with state := .pruned, releasing := true, ppnd := false }
    match s.parkOf g with
    | some (i, p) => if p.state ≤ 3 then s.endPark i p else s
    | none => s

end Sys2Proof.Machine
end

