-- ==== Sys2Proof/Machine/TaskEdges.lean ====
section
/-! DEFINITION. Task edges: the entry edge (R300, R301), the end of the running phase (R302), flushes by the Col engine (R304 to
R306), and the exit edge (R305 to R307). -/

namespace Sys2Proof.Machine

/-! ### Shared parts -/

/-- The slots that a task's firings occupy. -/
def State.taskFirings (s : State) (t : Task) : List (CoreId × Nat × Firing) :=
  t.places.flatMap fun p => (List.range 8).filterMap fun k => match s.firing p.core k with
    | some f => if f.rti == p.rti then some (p.core, k, f) else none
    | none => none

/-- The resident records of a task. -/
def State.residents (s : State) (t : Task) : List Resident := t.places.filterMap fun p => s.resident p.core p.rti

/-- Whether a chain is empty or halted; whether an entry of it has started and goes on. -/
def Chain.idle (x : Chain) : Bool := x.tags.isEmpty || x.halted.isSome
def Chain.active (x : Chain) : Bool := x.tags.any fun t => t.started && !t.finished && !(t.status != 0 && x.halted.isSome)

/-- Whether a message is of a task: to its actors, or a packet of its firings. -/
def OutMsg.ofTask (m : OutMsg) (id : Nat) : Bool :=
  match m with
  | .actor t _ _ _ _ => t == id
  | .partialSum _ _ _ => false
  | .packet p => p.srcTask == id

/-- The task's messages at any network interface. -/
def State.taskMsgs (s : State) (id : Nat) : List OutMsg := s.cores.flatMap fun c => c.2.nic.filter (·.ofTask id)

/-- Whether a message of the task can still go on: its place takes it, or it leaves the package. -/
def State.movable (s : State) (id : Nat) : Bool := (s.taskMsgs id).any s.accepts

/-- Link words on their way to the task's cores. -/
def State.linkWords (s : State) (t : Task) : Bool := t.places.any fun p =>
  (match s.resident p.core p.rti with
    | some r => r.links
    | none => false) && (List.range 4).any fun d => !((s.core p.core).coming d).isEmpty

/-- The banks that lie wholly inside a resident's scratchpad range (R188). -/
def Resident.banks (r : Resident) : List Nat := (List.range 16).filter fun b => r.spBase ≤ b * 65536 && (b + 1) * 65536 ≤ r.spBase + r.spSize

def Core.setBfmt (x : Core) (b : Nat) (v : Word) : Core := if h : b < 16 then { x with bfmt := x.bfmt.set b v } else x

/-! ### The entry edge (R300, R301) -/

/-- Zero a resident's lane slices; reset its banks' formats, its crossbar and its link configuration. -/
def State.clearUnits (s : State) (c : Nat) (r : Resident) : State :=
  let s := { s with
    mem := (List.range 32).foldl (fun m l => memZero m (Loc.slice c l r.slBase) r.slSize) s.mem
    bad := (List.range 32).foldl (fun b l => badLeft b (Loc.slice c l r.slBase) r.slSize) s.bad }
  let x := s.core c
  let x := r.banks.foldl (fun x b => x.setBfmt b 0) x
  let x : Core := if r.xbar then { x with xbar := {} } else x
  let x : Core := if r.links then { x with fwd := 0 } else x
  s.setCore c x

/-- The L1 lines of a core that overlap [lo, hi) of a space in a context. -/
def Core.linesOver (x : Core) (space ctx lo hi : Nat) : List Line :=
  x.l1.filter fun l => l.space == space && (space == spChip || l.ctx == ctx) && l.line * 64 < hi && lo < l.line * 64 + 64

/-- Invalidate a record's range in a core's L1; dirty bytes go home first. -/
def State.invalidate (s : State) (c ctx : Nat) (r : Region) : State :=
  ((s.core c).linesOver r.space ctx r.lo r.hi).foldl (fun s l => (s.writeBack c l).dropLine c l) s

/-- The scratchpad place of a forward target (R285). -/
def State.fwdPlace (s : State) (t : Task) (r : Region) : Option Nat :=
  (t.places.find? fun p => p.band == r.tb && p.member == r.tm).bind fun p =>
    (s.resident p.core p.rti).map fun q => Loc.sp p.core (q.spBase + r.tofs)

/-- Copy pieces of a record from their homes to the target, with the errors they hold; a piece that cannot be translated is left. -/
def State.fwdCopy (s : State) (die ctx : Nat) (r : Region) (dst : Nat) (ps : List (Nat × Nat)) : State :=
  match ps with
  | [] => s
  | (a, n) :: t =>
    let src := if r.space = spChip then some (Loc.chip die a) else match s.xlateVia die ctx a false r.ilv with
      | .ok pa => some (Loc.phys pa)
      | .error _ => none
    let q := dst + (a - r.lo)
    let s := match src with
      | none => s
      | some p =>
        let errs := (s.bad.filter fun b => p ≤ b && b < p + n).map fun b => b - p + q
        let s := s.homeWrite 0 q (s.homeRead r.key p n)
        { s with bad := s.bad ++ errs }
    s.fwdCopy die ctx r dst t

/-- Step 3 of the entry edge for one record. -/
def State.enterRegion (s : State) (id : Nat) (t : Task) (copy : Bool) (r : Region) : State :=
  if r.mode == .w || r.space == spStrm then s
  else if r.fwd && copy then
    match s.fwdPlace t r with
    | some dst => s.fwdCopy (id / 2 ^ 29) t.ctx r dst (pieces (r.ext / 65536 + 2) r.lo r.ext 65536)
    | none => s
  else t.places.foldl (fun s p => s.invalidate p.core t.ctx r) s

/-- The entry of member `i` of a batch (R363). -/
def State.batchEntry (s : State) (t : Task) (i g : Nat) : Entry :=
  let e := (s.stream g).getD {}
  let act := if e.qcnt = 0 then 0 else e.act.toList.getD e.qhead 0
  entryOf (bytesOf [wd (e.node * 2 ^ 48 + i * 2 ^ 32 + (t.batch.length - 1) * 2 ^ 24 + g), act, wd e.len, wd e.horiz] ++ zeros 96)

/-- Commit a batch task's member entries (R363). -/
def State.commitBatch (s : State) (id : Nat) (t : Task) : State :=
  match t.batchAct, t.places with
  | some (act, ch), p :: _ =>
    match s.actorOf p.core id act with
    | some (e, _) => s.commit p.core e ch ((t.batch.zip (List.range t.batch.length)).map fun g => s.batchEntry t g.2 g.1)
    | none => s
  | _, _ => s

/-- The running phase begins; a request that waited for the edge begins with it (R308). -/
def State.beginRunning (s : State) (id : Nat) : State :=
  match s.task id with
  | none => s
  | some t =>
    let t := { t with state := .running, ranAt := some s.clk }
    let s := s.setTask id t
    if t.preempt then s.beginPreempt id t else s

/-- The entry edge of an entering task. -/
def State.entryEdge (s : State) (id : Nat) (t : Task) : State :=
  let s := t.places.foldl (fun s p => match s.resident p.core p.rti with
    | some r => s.clearUnits p.core r
    | none => s) s
  let s := t.regions.foldl (fun s r => s.enterRegion id t true r) s
  (s.commitBatch id t).beginRunning id

/-- Whether a placed task may enter: no task that conflicts with it remains unpublished. -/
def State.mayEnter (s : State) (id : Nat) (t : Task) : Bool := (s.rivals id t).all fun u => !u.2.state.live

/-- `ENTRY_EDGE`: task `n` enters, or its edge completes. -/
def execEntryEdge (s : State) : Host.Outcome State Fault Refusal :=
  let id := s.cur.n
  .next (match s.task id with
    | none => s
    | some t => match t.state with
      | .placed => if s.mayEnter id t then s.setTask id { t with state := .entering } else s
      | .entering => s.entryEdge id t
      | _ => s)

/-! ### The end of the running phase (R302) -/

/-- Whether a task is quiescent. -/
def State.quiescent (s : State) (id : Nat) (t : Task) : Bool :=
  (s.taskFirings t).isEmpty && (s.taskMsgs id).isEmpty && !s.linkWords t &&
  ((s.residents t).all fun r => r.achain.idle && r.cchain.idle) &&
  t.places.all fun p => (s.core p.core).actors.all fun a => a.2.task != id || !s.actorCould a.2

/-- Whether the running phase of a task has ended. -/
def State.phaseOver (s : State) (id : Nat) (t : Task) : Bool :=
  if t.faulted || t.killed then (s.taskFirings t).isEmpty
  else if t.tdone then (s.taskFirings t).isEmpty && (s.residents t).all fun r => r.achain.idle && r.cchain.idle
  else s.quiescent id t

/-- `QUIESCENCE`: the running phase of task `n` ends, also while a pre-emption lets its firings run on (R309). -/
def execQuiescence (s : State) : Host.Outcome State Fault Refusal :=
  let id := s.cur.n
  .next (match s.task id with
    | none => s
    | some t => if (t.state == .running || t.state == .preempting) && s.phaseOver id t then s.setTask id { t with state := .draining } else s)

/-! ### Flushes (R301, R304 to R306) -/

/-- Write a flushed byte to the targets of waiting tasks whose forwarded records hold it (R301). -/
def State.forwardByte (s : State) (space a : Nat) (x : Byte) : State :=
  s.allTasks.foldl (fun s u =>
    if u.2.state != .placed then s
    else u.2.regions.foldl (fun s r =>
      if r.fwd && r.space == space && r.lo ≤ a && a < r.hi then
        match s.fwdPlace u.2 r with
        | some dst => s.homeWrite 0 (dst + (a - r.lo)) [x]
        | none => s
      else s) s) s

/-- Write back byte `i - 1` and below of a line, where it is dirty and in [lo, hi). -/
def State.flushBytes (s : State) (l : Line) (lo hi i : Nat) : State :=
  match i with
  | 0 => s
  | k + 1 =>
    let s := s.flushBytes l lo hi k
    let a := l.line * 64 + k
    if l.dirty.getLsbD k && lo ≤ a && a < hi then ((s.homeWrite l.key (l.home + k) [lineByte l.data k]).settleByte l k).forwardByte l.space a (lineByte l.data k) else s

/-- The dirty bits outside [lo, hi). -/
def dirtyLeft (l : Line) (lo hi : Nat) : BitVec 64 :=
  (List.range 64).foldl (fun d k => let a := l.line * 64 + k
    if l.dirty.getLsbD k && !(lo ≤ a && a < hi) then d ||| ((1 : BitVec 64) <<< k) else d) 0

/-- Flush one line: the state, and whether its home failed (R306). -/
def State.flushLine (s : State) (c : Nat) (l : Line) (lo hi : Nat) : State × Bool :=
  if l.dirty == dirtyLeft l lo hi then (s, false)
  else
    let h := homeOf l.space c (l.line * 64) none
    if s.sliceFenced h.1 h.2 then (s.countNack h.1, true)
    else
    let s := s.flushBytes l lo hi 64
    let x := s.core c
    (s.setCore c { x with l1 := x.l1.map fun m => if m.is l.space l.line l.ctx then { m with dirty := dirtyLeft l lo hi } else m }, false)

/-- Flush [lo, hi) of a space out of the L1s of cores: the state, and the lowest address whose home failed. -/
def State.flushCores (s : State) (cs : List Nat) (space ctx lo hi : Nat) : State × Option Nat :=
  cs.foldl (fun (acc : State × Option Nat) c =>
    ((acc.1.core c).linesOver space ctx lo hi).foldl (fun (acc : State × Option Nat) l =>
      let (s, bad) := acc.1.flushLine c l lo hi
      let a := max lo (l.line * 64)
      (s, if bad then some (min a (acc.2.getD a)) else acc.2)) acc) (s, none)

/-- The cores whose L1s may hold a task's lines. -/
def Task.l1Cores (t : Task) : List CoreId := (t.former ++ t.places.map (·.core)).eraseDups

/-- Flush record `i` of a task to its end (R305, R306). -/
def State.flushRegion (s : State) (id : Nat) (t : Task) (i : Nat) (r : Region) : State :=
  let (s, bad) := if r.space = spStrm then (s, none) else s.flushCores t.l1Cores r.space t.ctx r.lo r.hi
  let r := { r with
    flushing := false
    flushed := true
    failed := r.failed || bad.isSome
    progress := match bad with
      | some a => a - r.lo
      | none => r.ext }
  s.setTask id { t with regions := t.regions.set i r }

/-- `TREG_FLUSH`: record `k` of task `n`. -/
def execTregFlush (s : State) : Host.Outcome State Fault Refusal :=
  .next (match s.task s.cur.n with
    | none => s
    | some t => match t.regions[s.cur.k]? with
      | some r => if r.flushing then s.flushRegion s.cur.n t s.cur.k r else s
      | none => s)

/-! ### The exit edge (R305 to R307) -/

/-- Whether an `SATTN` of the task goes on (R86). -/
def State.attending (s : State) (id : Nat) (t : Task) : Bool := t.places.any fun p => (s.core p.core).attns.any (·.task == id)

/-- Whether the drain of a task is complete. -/
def State.drained (s : State) (id : Nat) (t : Task) : Bool :=
  !s.attending id t && (s.taskFirings t).isEmpty && !s.movable id && !s.linkWords t && ((s.residents t).all fun r => !r.achain.active && !r.cchain.active) &&
  s.dies.all fun d => d.2.merges.all fun m => m.old.isSome || m.parts.all fun p => p.task != id

/-- Committed channel entries that remain of a task. -/
def State.leftover (s : State) (id : Nat) (t : Task) : Nat :=
  let one (is : List InChan) : Nat := is.foldl (fun n i => n + i.fifo.length + i.back.length + i.lent.length) 0
  (t.places.foldl (fun n p => (s.core p.core).actors.foldl (fun n a => if a.2.task == id then n + one a.2.ins else n) n) 0) +
  t.queues.foldl (fun n q => n + one q.2) 0

/-- What a task contributes to the windows of the cores it leaves: it stays until the exit edge is complete (R261). -/
def State.openWindows (s : State) (t : Task) : List (CoreId × BitVec 4) :=
  (t.places.map fun p => (p.core, ((s.resident p.core p.rti).map (·.contrib)).getD 0)).filter fun w => w.2 != 0

/-- The windows that a task left open are closed (R261). -/
def State.closeWindows (s : State) (t : Task) : State := t.windows.foldl (fun s w => s.renewWinctl w.1) s

/-- Free a place of a task: its resident record, actors, undelivered messages and link words. -/
def State.freePlace (s : State) (id : Nat) (p : Place) : State :=
  let x := s.core p.core
  let links := match mget x.tasks p.rti with
    | some r => r.links
    | none => false
  let x : Core := { x with
    tasks := mdel x.tasks p.rti
    actors := x.actors.filter fun a => a.2.task != id }
  let x : Core := if links then { x with fwd := 0, fifos := Vector.replicate 4 [], arriving := Vector.replicate 4 [], linkPsn := [] } else x
  (s.setCore p.core x).renewWinctl p.core

/-- The cores that a task leaves: nothing of it is held there, at an interface or at a barrier. -/
def State.freeCores (s : State) (id : Nat) (t : Task) : State :=
  let s := t.places.foldl (fun s p => s.freePlace id p) s
  let keep (m : OutMsg) : Bool := match m with
    | .actor q _ _ _ _ => q != id
    | _ => true
  let s := { s with cores := s.cores.map fun (c : Nat × Core) => (c.1, { c.2 with nic := c.2.nic.filter keep }) }
  let d := s.die (id / 2 ^ 29)
  s.setDie (id / 2 ^ 29) { d with barriers := d.barriers.filter fun b => b.1 / 64 != id }

/-- The task with what its record will report of its cores (R307). -/
def State.reported (s : State) (id : Nat) (t : Task) : Task :=
  let c := if t.faulted then t.fcore else ((t.places[0]?).map (·.core)).getD 0
  let r := ((t.places.find? fun p => p.core == c).bind fun p => s.resident p.core p.rti).getD { task := id }
  { t with
    fcore := c
    arrSeq := r.achain.done
    copySeq := r.cchain.done
    haltSeq := r.cchain.halted.getD 0
    dropped := min (s.leftover id t) (2 ^ 32 - 1)
    regions := (t.regions.zip (List.range 16)).map fun q => { q.1 with high := s.highWater t q.2 } }

/-- `EXIT_DRAIN`: task `n`. -/
def execExitDrain (s : State) : Host.Outcome State Fault Refusal :=
  let id := s.cur.n
  .next (match s.task id with
    | none => s
    | some t =>
      if t.state != .draining || !s.drained id t then s
      else
        let u := { s.reported id t with windows := t.windows ++ s.openWindows t }
        let s := ((s.setTask id u).freeCores id t).setTask id { u with state := .flushing, former := t.l1Cores, places := [], queues := [], preempt := false }
        (t.acts.foldl (fun s g => s.streamIdle id g) s).requestDone id)

/-- Whether the exit edge flushes a record. -/
def Region.exits (r : Region) : Bool := !r.flushed && r.space != spStrm && match r.now with
  | some .r => false
  | some _ => true
  | none => false

/-- The first record that the exit edge has still to flush. -/
def Task.nextFlush (t : Task) : Option Nat := t.regions.findIdx? (·.exits)

/-- `EXIT_FLUSH`: the next record of task `n`. -/
def execExitFlush (s : State) : Host.Outcome State Fault Refusal :=
  let id := s.cur.n
  .next (match s.task id with
    | none => s
    | some t => match t.state == .flushing, t.nextFlush with
      | true, some i => match t.regions[i]? with
        | some r => s.flushRegion id t i r
        | none => s
      | _, _ => s)

/-- Status of the record (R307). -/
def Task.endStatus (t : Task) : Nat :=
  if t.killed then 3 else if t.faulted then 1 else if t.regions.any (·.failed) then 4 else t.status

/-- The completion record (R307). -/
def Task.recordBytes (t : Task) (id : Nat) : List Byte :=
  let c := t.fcore
  let head := [wd (6 * 2 ^ 56 + t.endStatus * 2 ^ 48 + t.cause % 256 * 2 ^ 40 + t.regions.length * 2 ^ 32 + id), wd t.fpc, t.fval,
    wd ((if t.faulted then t.fslot * 2 ^ 40 else 0) + dieOf c * 2 ^ 16 + yOf c * 256 + xOf c), wd t.arrSeq, wd t.copySeq, wd t.haltSeq,
    wd (t.dropped * 2 ^ 32 + min t.preempts (2 ^ 32 - 1))]
  let regs := t.regions.flatMap fun r =>
    [wd (if r.mode == .r then 0 else r.high),
     wd ((if r.flushed then 2 ^ 63 else 0) + (if r.failed then 2 ^ 62 else 0) + (if r.released then 2 ^ 61 else 0) + r.progress)]
  bytesOf (head ++ regs) ++ zeros (256 - 16 * t.regions.length)

/-- The completion add of a task, as a release at its scope (R305, R306). -/
def State.doneAdd (s : State) (id : Nat) (t : Task) : State :=
  let st := t.endStatus
  if fld t.doneW 55 48 = 0 || (t.noadd && (st == 1 || st == 3 || st == 4)) then s
  else match s.taskCounter id t t.doneW true with
    | none => s
    | some (a, k) =>
      let v := wd (fld t.doneW 55 48)
      let h := mget t.handles (fld t.doneW 63 56)
      let addr := ((h.map (·.base)).getD 0) + fld t.doneW 44 0
      let home := homeOf ((h.map (·.space)).getD 4) (coreAt (id / 2 ^ 29) 0 0) addr (some a)
      if s.sliceFenced home.1 home.2 then s.countNack home.1
      else
        let (s, sat) := s.counterAdd k a v
        if sat then s.post s.columnCore (overflowRecord id addr v) else s

/-- The graph engine counts a task's publish: each successor waits for one fewer (R425). -/
def State.graphPublish (s : State) (t : Task) : State :=
  match t.graph with
  | none => s
  | some (g, i) => match mget s.pkg.runs g with
    | none => s
    | some r =>
      let s := { s with pkg := { s.pkg with runs := mset s.pkg.runs g { r with published := i :: r.published } } }
      { s with dies := s.dies.map fun d => (d.1, { d.2 with tasks := d.2.tasks.map fun u =>
          match u.2.graph, u.2.preds with
          | some (h, j), some n => if h == g then (u.1, { u.2 with preds := some (n - r.edges i j) }) else u
          | _, _ => u }) }

/-- `EXIT_PUBLISH`: task `n`: its record, its add, and the engines that wait for it. -/
def execExitPublish (s : State) : Host.Outcome State Fault Refusal :=
  let id := s.cur.n
  .next (match s.task id with
    | none => s
    | some t =>
      if t.state != .flushing || t.nextFlush.isSome || t.regions.any (·.flushing) then s
      else
        let s := if t.recAddr = 0 then s else s.unlessFenced t.recAddr 320 fun s => (s.devWrite (id / 2 ^ 29) t.ctx t.key t.recAddr (t.recordBytes id)).getD s
        let s := (s.doneAdd id t).graphPublish t
        let s := (s.dropTask id).closeWindows t
        let d := s.die (id / 2 ^ 29)
        let s := s.setDie (id / 2 ^ 29) { d with saveUsed := d.saveUsed - t.reserved }
        t.acts.foldl (fun s g => match s.stream g with
          | some e => if e.ppnd && !(s.allTasks.any fun u => u.2.state.live && u.2.acts.contains g) then s.startRelease g else s
          | none => s) s)

end Sys2Proof.Machine
end

