-- ==== Sys2Proof/Machine/CtlRegs.lean ====
section
/-! DEFINITION. Control registers: `CTLR` and `CTLW` (R67 to R70, R93, R120), with the registers of the core's units and of the die's and
the package's. -/

namespace Sys2Proof.Machine

/-! ### Reading -/

/-- The registers of a firing (R67, R93). -/
def Firing.ctl (f : Firing) (cycle : Nat) (idx : Nat) : Option Word :=
  match idx with
  | 0x010 => some f.fmode
  | 0x011 => some f.fstat
  | 0x012 => some f.fseed
  | 0x013 => some f.sbchk
  | 0x014 => some f.sigctl
  | 0x020 => some f.trapCause
  | 0x021 => some f.trapPc
  | 0x022 => some f.trapVal
  | 0x023 => some f.trapVec
  | 0x030 => some (wd cycle)
  | _ => none

/-- The registers of a core, for a firing of resident task `r` (R187, R198, R208, R215, R260, R272). -/
def Core.ctl (x : Core) (r : Resident) (idx : Nat) : Option Word :=
  match idx with
  | 0x120 => some r.achain.cfg
  | 0x121 => some r.cchain.cfg
  | 0x122 => some (wd r.achain.tail)
  | 0x123 => some (wd r.cchain.tail)
  | 0x140 => some x.monspo
  | 0x141 => some x.monspr
  | 0x142 => some x.monspt
  | 0x150 => some x.cecnt
  | 0x160 => some x.winctl
  | 0x168 => some x.server.cfg
  | 0x169 => some x.server.parent
  | 0x16A => some x.server.root
  | 0x16B => some x.server.stat
  | i => if 0x100 ≤ i && i < 0x110 then x.bfmt[i - 0x100]? else none

/-- `TESTAT` (R298). -/
def Die.testat (d : Die) : Word :=
  wd ((d.tasks.filter fun t => t.2.state == .queued || t.2.state == .held).length * 65536 + d.tasks.length)

/-- The registers of a die (R298, R323, R344, R410, R431, R437, R441, R446, R447). -/
def Die.ctl (d : Die) (idx : Nat) : Option Word :=
  match idx with
  | 0x200 => some d.tepwait
  | 0x201 => some d.tepage
  | 0x202 => some d.tewgt
  | 0x203 => some d.testat
  | 0x204 => some d.tepreq
  | 0x206 => some d.tesave
  | 0x207 => some d.tesavesz
  | 0x210 => some d.xlctx
  | 0x211 => some d.xlinva
  | 0x212 => some d.xlinvc
  | 0x220 => some d.sptbase
  | 0x221 => some (wd (d.hbmFree.length * 2 ^ 32 + d.chipFree.length))
  | 0x222 => some d.spcfg
  | 0x223 => some d.ststat
  | 0x224 => some d.stbase
  | 0x225 => some d.snode
  | 0x234 => some d.tdbase
  | 0x240 => some d.fwin
  | 0x250 => some d.relstat
  | 0x251 => some d.slret
  | 0x252 => some d.slpend
  | 0x253 => some d.ldthr
  | 0x254 => some d.cquar[0]
  | 0x255 => some d.cquar[1]
  | 0x256 => some d.cquar[2]
  | 0x257 => some d.relthr
  | 0x258 => some d.cfstat
  | 0x259 => some d.relctr
  | 0x25A => some d.rellast
  | 0x28C => some d.pfthr
  | i => if 0x260 ≤ i && i < 0x280 then d.crect[i - 0x260]? else if 0x280 ≤ i && i < 0x28C then d.vdom[i - 0x280]? else none

/-- The registers of the package (R410, R448, R467). -/
def Pkg.ctl (p : Pkg) (idx : Nat) : Option Word :=
  match idx with
  | 0x230 => some p.pktcxl
  | 0x231 => some p.pktflash
  | 0x232 => some p.pkbase
  | 0x233 => some p.pkcfg
  | 0x235 => some (setFld p.pkstat 20 0 p.parks.length)
  | 0x236 => some p.hbmloc
  | 0x28E => some p.plim
  | 0x2B0 => some p.fabid
  | 0x2B1 => some p.fabcfg
  | 0x2B2 => some p.fabstat
  | i => if 0x2C0 ≤ i && i < 0x300 then p.fablnk[i - 0x2C0]? else if 0x400 ≤ i && i < 0x800 then some (mgetD p.fabin (i - 0x400) 0) else none

/-- Read a control register; `none` for an index that is not assigned. The sensors of `THERM` and `PWR` read free values
(notes/assumptions/8.md). -/
def State.readCtl (s : State) (x : Ctx) (idx : Nat) : Option (Word × State) :=
  let d := s.die (dieOf x.c)
  if idx = 0x28D then
    let (v, s) := s.free
    some (setFld d.therm 15 0 (v % 65536), s)
  else if idx = 0x28F then
    let (v, s) := s.free
    some (wd (v % 65536), s)
  else
    let k := s.core x.c
    ((x.f.ctl (s.clk - k.cycle0) idx <|> k.ctl (x.res s) idx <|> d.ctl idx <|> s.pkg.ctl idx).map fun w => (w, s))

/-! ### Writing -/

/-- Whether a value has a bit outside the bits a write may set. -/
def stray (v mask : Word) : Bool := (v &&& ~~~mask) != 0

/-- Bits `hi` to `lo`. -/
def bitsMask (hi lo : Nat) : Word := wd ((2 ^ (hi + 1 - lo) - 1) * 2 ^ lo)

/-- Whether a value would change a read-only field: it is neither zero nor the field's value. -/
def roBad (old v : Word) (hi lo : Nat) : Bool := fld v hi lo != 0 && fld v hi lo != fld old hi lo

/-- The signatures that the image carries for the firing's handler (R93, R427). -/
def State.sigCarried (s : State) (x : Ctx) : Word :=
  match s.actor x.c x.f.actor with
  | none => 0
  | some a => match (((mget s.pkg.images a.image).getD {}).sigs.find? (·.addr == a.entry)) with
    | none => 0
    | some b => if b.dd.isSome then 3 else 1

/-- Write a register of the firing; `none` where it is refused (R67, R68, R93). -/
def State.writeFiring (s : State) (x : Ctx) (idx : Nat) (v : Word) : Option State :=
  let put (f : Firing) : Option State := some (s.setFiring x.c x.k f)
  match idx with
  | 0x010 => if stray v 0xCF || 6 ≤ fld v 2 0 then none else put { x.f with fmode := v }
  | 0x011 => if stray v 0x7F then none else put { x.f with fstat := v }
  | 0x013 => if stray v 1 then none else put { x.f with sbchk := v }
  | 0x014 => if stray v 3 || stray v (s.sigCarried x) then none else put { x.f with sigctl := v }
  | 0x023 => if stray v 0x3FFFD then none else put { x.f with trapVec := v }
  | _ => none

/-- Write `FSEED`: every lane's generator is seeded (R61, R67). -/
def State.writeSeed (s : State) (x : Ctx) (v : Word) : Option State :=
  if stray v 0xFFFFFFFF then none
  else some (s.setFiring x.c x.k { x.f with fseed := v, gens := BitVec.ofNat 8192 (seedLanes v.toNat x.f.lanes) })

/-- Write `ACHCFG` or `CCHCFG` (R215). -/
def State.writeChain (s : State) (x : Ctx) (arr : Bool) (v : Word) : Option State :=
  let r := x.res s
  let ch := if arr then r.achain else r.cchain
  let lo := fld v 13 0 * 64
  let logn := fld v 35 32
  if (arr && !r.arr) || !ch.tags.isEmpty || ch.halted.isSome || stray v (bitsMask 35 32 ||| bitsMask 13 0) || logn < 4 || 8 < logn ||
      lo < r.spBase || r.spBase + r.spSize < lo + 2 ^ logn * 64 then none
  else
    let ch := { ch with cfg := v }
    some (s.setResident x.c x.f.rti (if arr then { r with achain := ch } else { r with cchain := ch }))

/-- Whether two rectangles of `CRECTn` share a core. -/
def rectsMeet (a b : Word) : Bool :=
  fld a 15 12 ≤ fld b 7 4 && fld b 15 12 ≤ fld a 7 4 && fld a 11 8 ≤ fld b 3 0 && fld b 11 8 ≤ fld a 3 0

/-- Whether a core lies in the rectangle of a `CRECTn` value. -/
def rectHas (v : Word) (c : Nat) : Bool := fld v 15 12 ≤ xOf c && xOf c ≤ fld v 7 4 && fld v 11 8 ≤ yOf c && yOf c ≤ fld v 3 0

/-- Cores of a die. -/
def dieCores (die : Nat) : List Nat := (List.range 192).map fun i => die * 256 + i

/-- Whether `CRECTn` of a die takes a value with `EN` = 1 (R441). -/
def State.rectOk (s : State) (die n : Nat) (v : Word) : Bool :=
  let cs := (dieCores die).filter (rectHas v)
  fld v 15 12 % 2 == 0 && fld v 11 8 % 2 == 0 && fld v 7 4 % 2 == 1 && fld v 3 0 % 2 == 1 && fld v 15 12 ≤ fld v 7 4 && fld v 11 8 ≤ fld v 3 0 &&
  fld v 3 0 ≤ 11 && !cs.any s.inColumn && !(dieCores die).any (fun c => (s.core c).fence.any fun f => f.2 == some n) &&
  ((s.die die).crect.toList.zip (List.range 32)).all fun r => r.2 == n || !bit r.1 63 || !rectsMeet r.1 v

/-- Clear the counts of the cores whose `CQUAR` bits a write clears (R444). -/
def State.clearCounts (s : State) (die j : Nat) (old v : Word) : State :=
  (List.range 64).foldl (fun s i =>
    if bit old i && !bit v i then
      let c := die * 256 + 64 * j + i
      s.setCore c { s.core c with sigCount := 0, susCount := 0 }
    else s) s

/-- Write a register of the die; `none` where it is refused. -/
def State.writeDie (s : State) (x : Ctx) (idx : Nat) (v : Word) : Option State :=
  let die := dieOf x.c
  let d := s.die die
  let put (bad : Bool) (e : Die) : Option State := if bad then none else some (s.setDie die e)
  let low32 := stray v 0xFFFFFFFF
  match idx with
  | 0x200 => put low32 { d with tepwait := v }
  | 0x201 => put low32 { d with tepage := v }
  | 0x202 => put (stray v 0xFFFF || (List.range 4).any fun k => fld v (4 * k + 3) (4 * k) == 0) { d with tewgt := v }
  | 0x206 => put (stray v (bitsMask 56 12)) { d with tesave := v }
  | 0x207 => put (stray v (bitsMask 39 0)) { d with tesavesz := v }
  | 0x210 => put (stray v (bitsMask 51 12)) { d with xlctx := v }
  | 0x211 => put (stray v (bitsMask 56 0)) { d with xlinva := v }
  | 0x220 => put (d.on || stray v (bitsMask 51 12 ||| 0x1F) || fld v 4 0 < 16 || 26 < fld v 4 0) { d with sptbase := v }
  | 0x224 => put (d.on || stray v (bitsMask 51 12)) { d with stbase := v }
  | 0x225 => put (d.on || stray v (bitsMask 51 12)) { d with snode := v }
  | 0x234 => put (bit s.pkg.pkcfg 0 || stray v (bitsMask 51 12)) { d with tdbase := v }
  | 0x240 => put (bit d.fwin 63 || stray v (bitsMask 63 63 ||| 0xF)) { d with fwin := v }
  | 0x253 => put (stray v 3 || v == 0) { d with ldthr := v }
  | 0x254 => (put false { d with cquar := d.cquar.set 0 v }).map (·.clearCounts die 0 d.cquar[0] v)
  | 0x255 => (put false { d with cquar := d.cquar.set 1 v }).map (·.clearCounts die 1 d.cquar[1] v)
  | 0x256 => (put false { d with cquar := d.cquar.set 2 v }).map (·.clearCounts die 2 d.cquar[2] v)
  | 0x257 => put (stray v 0xFFFF || fld v 15 8 == 0 || fld v 7 0 == 0) { d with relthr := v }
  | 0x259 => put (stray v (bitsMask 56 0) || fld v 2 0 != 0) { d with relctr := v, relctrCtx := ((s.task (x.res s).task).getD {}).ctx }
  | 0x28C => put (stray v 0xFFFF || v == 0) { d with pfthr := v }
  | i =>
    if h : 0x260 ≤ i ∧ i < 0x280 then
      put (stray v (bitsMask 63 63 ||| 0xFFFF) || (bit v 63 && !s.rectOk die (i - 0x260) v)) { d with crect := d.crect.set (i - 0x260) v }
    else none

/-- Write a register of the package; `none` where it is refused. -/
def State.writePkg (s : State) (idx : Nat) (v : Word) : Option State :=
  let p := s.pkg
  let put (bad : Bool) (q : Pkg) : Option State := if bad then none else some { s with pkg := q }
  match idx with
  | 0x230 => put (stray v 0xFFFFFFFF || v == 0 || p.pktflash.toNat ≤ v.toNat) { p with pktcxl := v }
  | 0x231 => put (stray v 0xFFFFFFFF || v.toNat ≤ p.pktcxl.toNat) { p with pktflash := v }
  | 0x232 => put (bit p.pkcfg 0 || stray v (bitsMask 51 12)) { p with pkbase := v }
  | 0x233 => put (stray v 7) { p with pkcfg := v }
  | 0x236 => put (p.hbmWritten || stray v 0xFF || 192 < v.toNat || v.toNat % 3 != 0) { p with hbmloc := v }
  | 0x28E => put (stray v 0xFFFF || v.toNat < 1500 || 6000 < v.toNat) { p with plim := v }
  | 0x2B0 => put (bit p.fabcfg 63 || stray v (bitsMask 31 3) || !torusOk v (fld v 31 16)) { p with fabid := v }
  | 0x2B1 => put (stray v (bitsMask 63 63 ||| bitsMask 47 0) || fld v 31 16 == 0 || fld v 15 0 == 0 || (bit p.fabcfg 63 && fld v 47 32 != fld p.fabcfg 47 32))
      { p with fabcfg := v }
  | i => if 0x400 ≤ i && i < 0x800 then put (stray v (bitsMask 63 63 ||| 0x3FF)) { p with fabin := mset p.fabin (i - 0x400) v } else none

/-- Write a control register that has no row of its own; `none` where the write is refused (R120). -/
def State.writeCtl (s : State) (x : Ctx) (idx : Nat) (v : Word) : Option State :=
  if idx < 0x100 then s.writeFiring x idx v
  else if idx = 0x120 then s.writeChain x true v
  else if idx = 0x121 then s.writeChain x false v
  else if idx < 0x200 || !x.f.priv then none
  else s.writeDie x idx v <|> s.writePkg idx v

/-! ### The writes with rows of their own -/

/-- The bytes of the page that `XLINVC` names; `none` for the whole context (R323). -/
def invalSize (v : Word) : Option Nat :=
  match fld v 17 16 with
  | 0 => some (2 ^ 16)
  | 1 => some (2 ^ 21)
  | 2 => some (2 ^ 30)
  | _ => none

/-- Drop every TLB entry of a context that covers a byte of the named page (R324). -/
def State.dropTlbs (s : State) (ctx va : Nat) (size : Option Nat) : State :=
  let keep (t : TlbEntry) : Bool := t.ctx != ctx || match size with
    | none => false
    | some n => let lo := va / n * n
      !(t.page < lo + n && lo < t.page + t.size)
  { s with
    cores := s.cores.map fun (c : Nat × Core) => (c.1, { c.2 with tlb := c.2.tlb.filter keep })
    clusters := s.clusters.map fun (c : Nat × Cluster) => (c.1, { c.2 with tlb := c.2.tlb.filter keep }) }

/-- Whether an invalidation names a page of a device address. -/
def invalHits (ctx va : Nat) (size : Option Nat) (c a : Nat) : Bool := c == ctx && match size with
  | none => true
  | some n => va / n == a / n

/-- A blocked `CWAIT` goes on at the place that a new walk gives its counter; where there is none, it traps (R324). -/
def State.rewalkWait (s : State) (ctx va : Nat) (size : Option Nat) (c k : Nat) : State :=
  match s.firing c k with
  | none => s
  | some f => match f.wait, f.watched with
    | .cwait _ key n d y e, some w =>
      if !invalHits ctx va size (((s.task (((s.resident c f.rti).map (·.task)).getD 0)).map (·.ctx)).getD 0) w.addr then s
      else
        let trap (cause : Nat) : State := (s.setFiring c k { f with wait := .none, watched := none, pc := w.pc }).raise c k cause w.val 0
        match s.xlate c ctx w.addr true false w.ilv with
        | .ok (s, pa) => s.setFiring c k { f with wait := .cwait (Loc.phys pa) key n d y e }
        | .error .xlate => trap 0x14
        | .error .poison => trap 0x16
    | _, _ => s

/-- The place that a new walk gives a device address for a unit of a die. -/
def State.rewalked (s : State) (die ctx a : Nat) (ilv : Bool) : Option Nat :=
  match s.xlateVia die ctx a true ilv with
  | .ok pa => some (Loc.phys pa)
  | .error _ => none

/-- An armed join group writes where a new walk says, and nothing where there is none (R324; notes/assumptions/146.md). -/
def State.rewalkJoin (s : State) (ctx va : Nat) (size : Option Nat) (die : Nat) (e : Stream) : Stream :=
  let rsegs := match e.rdev with
    | some (q, ilv) => if (pieces 2 e.radr 128 65536).any (fun p => invalHits ctx va size q p.1) then
        (pieces 2 e.radr 128 65536).map fun p => (s.rewalked die q p.1 ilv, p.2) else e.rsegs
    | none => e.rsegs
  let cplace := match e.cdev with
    | some (q, ilv) => if e.cplace.isSome && invalHits ctx va size q e.cadr then s.rewalked die q e.cadr ilv else e.cplace
    | none => e.cplace
  { e with rsegs, cplace }

/-- The completion counter of a migration moves likewise. -/
def State.rewalkMig (s : State) (ctx va : Nat) (size : Option Nat) (die : Nat) (m : OutMig) : OutMig :=
  match m.cdev with
  | some (q, ilv) => if invalHits ctx va size q m.caddr then { m with cplace := (s.rewalked die q m.caddr ilv).getD m.cplace } else m
  | none => m

/-- Drop the TLB entries of a page, or of a context, and walk again for what waits with one: blocked `CWAIT`s, armed join groups and migrations (R324). -/
def State.invalidateTlbs (s : State) (ctx va : Nat) (size : Option Nat) : State :=
  let s := s.dropTlbs ctx va size
  let s := (s.cores.map (·.1)).foldl (fun s c => (List.range 8).foldl (fun s k => s.rewalkWait ctx va size c k) s) s
  { s with dies := s.dies.map fun (d : Nat × Die) => (d.1, { d.2 with
      streams := d.2.streams.map fun e => (e.1, if e.2.arm then s.rewalkJoin ctx va size d.1 e.2 else e.2)
      outMigs := d.2.outMigs.map fun m => (m.1, s.rewalkMig ctx va size d.1 m.2) }) }

/-- Write `XLINVC`: the invalidation starts (R323, R324). -/
def State.writeInval (s : State) (x : Ctx) (v : Word) : Option State :=
  let d := s.die (dieOf x.c)
  if !x.f.priv || bit d.xlinvc 63 || stray v (bitsMask 17 16 ||| 0x3FF) then none
  else
    let s := s.setDie (dieOf x.c) { d with xlinvc := setFld v 63 63 1 }
    some (s.invalidateTlbs (fld v 9 0) (fld d.xlinva 56 0) (invalSize v))

/-- Write `TEPREQ`: the request is made, and shows in this die's register (R298, R308). -/
def State.writeTepreq (s : State) (x : Ctx) (v : Word) : Option State :=
  let die := dieOf x.c
  let d := s.die die
  if !x.f.priv || bit d.tepreq 63 || bit v 63 || roBad d.tepreq v 62 62 || fld v 61 32 != 0 then none
  else
    let id := fld v 31 0
    let (r, s) := s.requestPreempt id
    let flags := match r with
      | .done => 0
      | .busy => 2 ^ 63
      | .refused => 2 ^ 62
    some (s.setDie die { s.die die with tepreq := wd (id + flags) })

/-- Write `SPCFG`: the pool and the stream table enter or leave service (R337, R344). -/
def State.writeSpcfg (s : State) (x : Ctx) (v : Word) : Option State :=
  let die := dieOf x.c
  let d := s.die die
  if !x.f.priv || stray v 7 || (d.on && !bit v 0 && d.streams.any fun e => e.2.state != .free) then none
  else
    let s := s.setDie die { d with spcfg := v }
    some (if bit v 0 && !d.on then s.clearTable die else s)

/-- Write `STEP` of domain `n` (R446). -/
def State.writeVdom (s : State) (x : Ctx) (n : Nat) (v : Word) : Option State :=
  let die := dieOf x.c
  let d := s.die die
  if h : n < 12 then
    let old := d.vdom[n]
    if !x.f.priv || roBad old v 63 63 || roBad old v 62 62 || fld v 61 16 != 0 || roBad old v 15 8 || 20 < fld v 7 0 || fld v 7 0 < fld old 15 8 then none
    else some (s.setDie die { d with vdom := d.vdom.set n (setFld old 7 0 (fld v 7 0)) })
  else none

/-! ### The instructions -/

/-- The control register that an instruction names. -/
def Ctx.idx (x : Ctx) : Nat := fld x.w.imm 11 0

/-- `CTLR` (R120). -/
def ctlrBody (x : Ctx) (s : State) : Body :=
  match s.readCtl x x.idx with
  | none => .trap 0x08 (wd x.idx) 0
  | some (v, s) => .ok { s, writes := [.g x.w.d v] }

/-- A `CTLW` by `put`, which refuses with `none` (R120). -/
def ctlwBody (put : State → Ctx → Nat → Word → Option State) (x : Ctx) (s : State) : Body :=
  match put s x x.idx (x.g x.w.a) with
  | none => .trap 0x08 (wd x.idx) 0
  | some s => .ok { s }

def execCtlr (w : Tolog) (s : State) := issue 0x2A w s ctlrBody
def execCtlw (w : Tolog) (s : State) := issue 0x2B w s (ctlwBody fun s x i v => s.writeCtl x i v)
def execFseedWrite (w : Tolog) (s : State) := issue 0x2B w s (ctlwBody fun s x _ v => s.writeSeed x v)
def execXlinvcWrite (w : Tolog) (s : State) := issue 0x2B w s (ctlwBody fun s x _ v => s.writeInval x v)
def execTepreqWrite (w : Tolog) (s : State) := issue 0x2B w s (ctlwBody fun s x _ v => s.writeTepreq x v)
def execSpcfgWrite (w : Tolog) (s : State) := issue 0x2B w s (ctlwBody fun s x _ v => s.writeSpcfg x v)
def execVdomWrite (w : Tolog) (s : State) := issue 0x2B w s (ctlwBody fun s x i v => s.writeVdom x (i - 0x280) v)

/-- Whether every access that has been translated is performed: no router holds one, no firing has one in flight, and every monitor in `DEV` memory
is registered (R324). -/
def State.translatedDone (s : State) : Bool :=
  (s.dies.all fun d => d.2.merges.all fun m => m.old.isSome || m.sid != 0) &&
  s.cores.all fun c => (c.2.slots.all fun f => match f with
    | some f => f.issued.all (·.2.space != spDev)
    | none => true) && (c.2.loads.all fun x => x.f.issued.all (·.2.space != spDev)) &&
    c.2.monitors.all fun m => m.registered || 2 ^ 60 ≤ m.home * 64

/-- `XLINV_DONE`: the invalidation of die `n`'s register completes (R324): no TLB holds a dropped entry, and every access translated with
one is performed. -/
def execXlinvDone (s : State) : Host.Outcome State Fault Refusal :=
  let d := s.die s.cur.n
  .next (if bit d.xlinvc 63 && s.translatedDone then s.setDie s.cur.n { d with xlinvc := setFld d.xlinvc 63 63 0 } else s)

end Sys2Proof.Machine
end

