-- ==== Sys2Proof/Machine/Streams.lean ====
section
/-! DEFINITION. Streams: the instructions at opcodes 0xE4 to 0xE7, 0xE9, 0xED and 0xEE (R354 to R361), release and absorb (R350 to
R353), and the end of a copy (R347). -/

namespace Sys2Proof.Machine

/-! ### Operands and refusals (R354) -/

/-! The codes of R354. -/

namespace Ref
def nostr : Nat := 0x01
def auth : Nat := 0x02
def state : Nat := 0x03
def full : Nat := 0x04
def parm : Nat := 0x05
def group : Nat := 0x06
def poison : Nat := 0x07
def undecl : Nat := 0x08
def ctr : Nat := 0x09
def off : Nat := 0x0A
end Ref

/-- `g[D]` of a refused instruction. -/
def refused (code : Nat) : Word := wd (2 ^ 63 + code)

/-- The id that a stream operand names. -/
def Ctx.streamId (x : Ctx) (v : Word) : Nat := if v = 0 then x.sid else fld v 23 0

/-- The stream of an operand, or the code it is refused with. -/
def Ctx.stream (x : Ctx) (s : State) (v : Word) : Except Nat (Nat × Stream) :=
  let g := x.streamId v
  if !(s.die (sidDie g)).on then .error Ref.off
  else if fld v 63 24 != 0 then .error Ref.parm
  else match s.stream g with
    | none => .error Ref.nostr
    | some e => if (x.res s).holdsKey e.key then .ok (g, e) else .error Ref.auth

/-- A result in `g[D]`. -/
def Ctx.give (x : Ctx) (s : State) (v : Word) : Body := .ok { s, writes := [.g x.w.d v] }

/-- Go on with the stream of an operand, or give the refusal. -/
def Ctx.withStream (x : Ctx) (s : State) (v : Word) (go : Nat → Stream → Body) : Body :=
  match x.stream s v with
  | .error code => x.give s (refused code)
  | .ok (g, e) => go g e

/-- A stream instruction is performed at the slice of its stream's home die that the index names (R337); one in a fenced rectangle answers
negatively (R443). -/
def atStream (sel : Tolog → BitVec 6) (body : Ctx → State → Body) (x : Ctx) (s : State) : Body :=
  let g := x.streamId (x.g (sel x.w))
  if s.sliceFenced (sidDie g) (sidIdx g % 48) then .nack (sidDie g) s else body x s

/-- Count a refused `SRET` or `SPRUNE` in `STSTAT` of a die. -/
def State.countRefused (s : State) (die : Nat) : State :=
  let d := s.die die
  s.setDie die { d with ststat := setFld d.ststat 63 48 (satAdd (fld d.ststat 63 48) 1 65535) }

/-! ### Leaving a group, release and absorb (R350 to R353) -/

/-- Free a table entry: its generation advances (R337). -/
def State.freeStream (s : State) (g : Nat) (e : Stream) : State := s.setStream g { gen := if e.gen = 31 then 1 else e.gen + 1 }

/-- A stream leaves its parent's group (R351, steps 2 to 4). -/
def State.leaveParent (s : State) (e : Stream) : State :=
  if e.parent = 0 then s
  else match s.stream e.parent with
    | none => s
    | some p =>
      let p : Stream := { p with nch := p.nch - 1, nret := if e.counted then p.nret - 1 else p.nret }
      if p.nch = 0 then (s.setStream e.parent p).startRelease e.parent
      else s.setStream e.parent { p with absorbing := p.absorbing || p.nch == 1 }

/-- Give back the frames of copies that a released stream had under way. -/
def State.dropCopies (s : State) (g : Nat) : State :=
  let i := sidDie g
  let d := s.die i
  let s := s.setDie i { d with copies := d.copies.filter fun c => c.holder != g }
  (d.copies.filter fun c => c.holder == g).foldl (fun s c => s.giveFrame i c.frame) s

/-- The first mapping of a holder. -/
def State.anyMapping (s : State) (g : Nat) : Option Mapping := (s.die (sidDie g)).ipt.find? fun m => m.holder == g

/-- `STREAM_RELEASE`: the next step of the release of stream `n` (R351). -/
def execStreamRelease (s : State) : Host.Outcome State Fault Refusal :=
  let g := s.cur.n
  .next (match s.stream g with
    | none => s
    | some e =>
      if !e.releasing then s
      else
        let s := s.dropCopies g
        match s.anyMapping g with
        | some m => s.unmapBlock g m.block
        | none => (s.leaveParent e).freeStream g e)

/-- The table entries of a die in use, with their ids. -/
def State.liveStreams (s : State) (die : Nat) : List (Nat × Stream) :=
  ((s.die die).streams.filter fun e => e.2.state != .free).map fun e => (die * 2 ^ 21 + e.2.gen * 2 ^ 16 + e.1, e.2)

/-- The children of a snapshot. -/
def State.children (s : State) (g : Nat) : List (Nat × Stream) := (s.liveStreams (sidDie g)).filter fun e => e.2.parent == g

/-- Whether `h` stands above a stream. -/
def State.isAbove (s : State) (fuel h : Nat) (e : Stream) : Bool :=
  match fuel with
  | 0 => false
  | f + 1 => e.parent != 0 && (e.parent == h || match s.stream e.parent with
    | some p => s.isAbove f h p
    | none => false)

/-- The one child that a snapshot is to be absorbed into. -/
def State.absorbs (s : State) (p : Nat) : Option (Nat × Stream) :=
  match s.stream p with
  | none => none
  | some e => if e.state == .snapshot && e.absorbing && !e.arm && e.nch == 1 then (s.children p).find? fun c => c.2.state != .pruned else none

/-- Absorb completes: the child takes the snapshot's place (R353). -/
def State.endAbsorb (s : State) (p : Nat) (e : Stream) (c : Nat) : State :=
  let i := sidDie p
  let below := (s.liveStreams i).filter fun x => x.1 == c || s.isAbove 9 c x.2
  let s := below.foldl (fun s x =>
    s.setStream x.1 (if x.1 == c then { x.2 with depth := x.2.depth - 1, parent := e.parent, cidx := e.cidx, counted := false }
                     else { x.2 with depth := x.2.depth - 1 })) s
  (s.startRelease p).freeStream p e

/-- The mapping of a snapshot that absorb moves next: its page is present, and none of its block's copies is under way. -/
def State.absorbNext (s : State) (p c : Nat) : Option Mapping :=
  let d := s.die (sidDie p)
  d.ipt.find? fun m => m.holder == p && m.present && !d.copies.any fun x => x.holder == c && x.block == m.block

/-- `ABSORB`: the next step of absorbing snapshot `n` (R353). -/
def execAbsorb (s : State) : Host.Outcome State Fault Refusal :=
  let p := s.cur.n
  .next (match s.absorbs p, s.stream p with
    | some (c, _), some e =>
      match s.absorbNext p c with
      | some m =>
        if (s.mapping c m.block).isSome then s.unmapBlock p m.block
        else (s.addMapping { m with holder := c }).delMapping p m.block
      | none => if (s.anyMapping p).isSome then s else s.endAbsorb p e c
    | _, _ => s)

/-- `COPY_ON_WRITE_COMPLETE`: copy `k` of die `n` (R347, R348). -/
def execCopyOnWriteComplete (s : State) : Host.Outcome State Fault Refusal :=
  let i := s.cur.n
  .next (match (s.die i).copies[s.cur.k]? with
    | none => s
    | some c =>
      let d := s.die i
      let s := s.setDie i { d with copies := d.copies.eraseIdx s.cur.k
                                   ststat := setFld d.ststat 31 0 (satAdd (fld d.ststat 31 0) 1 (2 ^ 32 - 1)) }
      let key := ((s.stream c.holder).getD {}).key
      let m : Mapping := { holder := c.holder, block := c.block, frame := c.frame, key, tier := if chipFrame c.frame then 1 else 0 }
      match s.resolveBlock 8 c.holder c.block 0 with
      | none => (s.zeroFrame i c.frame).addMapping m
      | some (lvl, o) =>
        let s := s.copyFrame key (o.place 0) (m.place 0)
        if lvl = 0 then (s.putMapping { m with slot := o.slot }).dropRef i o.frame o.tier (if o.al then none else some o) else s.addMapping m)

/-! ### Forks (R355) -/

/-- The lowest run of `n` free entries of a die. -/
def Die.freeRun (d : Die) (n : Nat) : Option Nat :=
  let i := (d.streams.filter fun e => e.2.state != .free).foldl (fun i e => if i + n ≤ e.1 then i else e.1 + 1) 0
  if i + n ≤ 65536 then some i else none

/-- Make `n` streams from entry `i` of a die on: each like `e`, with its number among its siblings and its action. -/
def State.makeStreams (s : State) (die i : Nat) (e : Stream) (acts : List Word) (n : Nat) : State :=
  (List.range n).foldl (fun s j =>
    let gen := ((s.die die).entry (i + j)).gen
    let q : Stream := match acts[j]? with
      | some a => { e with qcnt := 1, act := e.act.set 0 a }
      | none => e
    s.setStream (die * 2 ^ 21 + gen % 32 * 2 ^ 16 + i + j) { q with gen, cidx := if e.parent = 0 then 0 else j, readyAt := s.clk }) s

/-- The id of entry `i` of a die. -/
def State.idAt (s : State) (die i : Nat) : Word := wd (die * 2 ^ 21 + ((s.die die).entry i).gen % 32 * 2 ^ 16 + i)

/-- `SFORK` with its actions read. -/
def forkBody (isNew : Bool) (x : Ctx) (s : State) (acts : List Word) : Body :=
  let v := x.g x.w.c
  let n := fld v 4 0
  let queue := ((s.task (x.res s).task).getD {}).queue
  if acts.any (bit · 63) then x.give s (refused Ref.parm)
  else if isNew then
    let die := dieOf x.c
    if !(x.res s).holdsKey (fld v 25 16) then x.give s (refused Ref.auth)
    else match (s.die die).freeRun n with
      | none => x.give s (refused Ref.full)
      | some i =>
        let e : Stream := { state := .ready, cls := bit v 8, kv := bit v 9, key := fld v 25 16, node := fld v 63 48, horiz := fld v 47 32, queue }
        let s := s.makeStreams die i e acts n
        x.give s (s.idAt die i)
  else x.withStream s (x.g x.w.b) fun g p =>
    let die := sidDie g
    if p.state != .ready && p.state != .running then x.give s (refused Ref.state)
    else if p.depth = 8 then .trap 0x23 (wd g) 0
    else match (s.die die).freeRun n with
      | none => x.give s (refused Ref.full)
      | some i =>
        let s := s.setStream g { p with state := .snapshot, nch := n, nret := 0, arm := false, absorbing := false }
        let e : Stream := { state := .ready, parent := g, depth := p.depth + 1, len := p.len, node := p.node, cls := p.cls, kv := p.kv, key := p.key,
                            horiz := fld v 47 32, queue }
        let s := s.makeStreams die i e acts n
        x.give s (s.idAt die i)

/-- `SFORK` and `SFORK.new`. -/
def sforkBody (isNew : Bool) (x : Ctx) (s : State) : Body :=
  let v := x.g x.w.c
  let die := if isNew then dieOf x.c else sidDie (x.streamId (x.g x.w.b))
  let n := fld v 4 0
  if !(s.die die).on then x.give s (refused Ref.off)
  else if n = 0 || 16 < n || fld v 31 26 != 0 || fld v 15 10 != 0 || fld v 7 5 != 0 then x.give s (refused Ref.parm)
  else if x.w.mod.getLsbD 0 then
    loadVia x s (hidx x.w.imm) x.off (8 * n) 8 spAll fun s bs => forkBody isNew x s (wordsOf bs)
  else forkBody isNew x s []

/-! ### Flattening (R352, R356) -/

/-- The blocks that the snapshots above a stream hold. -/
def State.chainBlocks (s : State) (fuel g : Nat) : List Nat :=
  match fuel with
  | 0 => []
  | f + 1 => match s.stream g with
    | none => []
    | some e => if e.parent = 0 then [] else
      (((s.die (sidDie g)).ipt.filter fun m => m.holder == e.parent).map (·.block)) ++ s.chainBlocks f e.parent

/-- Give a stream an alias for each block; `false` where a count would pass its field (R356). -/
def State.aliases (s : State) (g : Nat) (bs : List Nat) (n : Nat) : Bool × Nat × State :=
  match bs with
  | [] => (true, n, s)
  | b :: t =>
    match s.resolveBlock 8 g b 0 with
    | some (lvl, m) =>
      if lvl = 0 then s.aliases g t n
      else match (s.die (sidDie g)).ipt.find? fun o => !o.al && o.frame == m.frame && o.tier == m.tier with
        | none => s.aliases g t n
        | some o =>
          if 65535 ≤ o.rc then (false, n, s)
          else ((s.putMapping { o with rc := o.rc + 1 }).addMapping { m with holder := g, al := true, rc := 0 }).aliases g t (n + 1)
    | none => s.aliases g t n

/-- `SFLAT`. -/
def sflatBody (x : Ctx) (s : State) : Body :=
  x.withStream s (x.g x.w.a) fun g e =>
    if e.state != .ready && e.state != .running && e.state != .returned then x.give s (refused Ref.state)
    else if e.depth = 0 then x.give s 0
    else
      let (ok, n, s) := s.aliases g (s.chainBlocks 9 g) 0
      if !ok then x.give s (refused Ref.full)
      else x.give ((s.setStream g { e with parent := 0, depth := 0, counted := false }).leaveParent e) (wd n)

/-! ### Appending (R357) -/

/-- The written high-water marks raised by a write of a task on a core (R299). -/
def State.markWritten (s : State) (c : Nat) (task space a n : Nat) : State :=
  match (s.core c).tasks.find? fun r => r.2.task == task with
  | some (i, r) => s.setResident c i { r with hiWater := raiseMarks ((s.task task).getD {}).regions 0 space a n r.hiWater }
  | none => s

/-- The source spaces of `SAPP`. -/
def sappSpaces : List Nat := [1, 2, 3, 4]

/-- `SAPP` with its source read: the writes are accepted, then the length moves. -/
def appendBytes (x : Ctx) (s : State) (bs : List Byte) : Body :=
  let n := bs.length
  let id := (x.res s).task
  x.withStream s (x.g x.w.b) fun g e =>
    if e.state != .ready && e.state != .running && e.state != .returned then x.give s (refused Ref.state)
    else if 2 ^ 40 < e.len + n then x.give s (refused Ref.parm)
    else if !covered (((s.task id).getD {}).admitting .store spStrm g) 17 e.len n then x.give s (refused Ref.undecl)
    else if !s.keyLoaded e.key then .trap 0x12 (handleVal (hidx x.w.imm) x.off) 0
    else match s.strmSegs g .store (pieces (n / 32768 + 2) e.len n 32768) with
      | .error b => barBody s (hidx x.w.imm) x.off 0 b
      | .ok (s, xs) =>
        let a : Acc := { core := x.c, space := spStrm, ctx := 0, key := s.pinned e.key, addr := e.len, n, segs := xs, cached := false }
        match s.fencedHome a .store with
        | some die => .nack die s
        | none =>
        let s := (s.markWritten x.c id spStrm e.len n).setStream g { e with len := e.len + n }
        x.give (s.write a bs) (wd e.len)

/-- `SAPP`. -/
def sappBody (x : Ctx) (s : State) : Body :=
  let n := (x.g x.w.c).toNat
  if !(s.die (sidDie (x.streamId (x.g x.w.b)))).on then x.give s (refused Ref.off)
  else if n = 0 || 65536 < n then x.give s (refused Ref.parm)
  else loadVia x s (hidx x.w.imm) x.off n 1 sappSpaces (appendBytes x)

/-! ### Steps, returns and prunes (R358 to R360) -/

/-- A stream moved to a node: a ready one counts as ready there from now (R358). -/
def Stream.atNode (e : Stream) (node clk : Nat) : Stream := { e with node, readyAt := if e.state = .ready && e.node != node then clk else e.readyAt }

/-- `SSTEP`. -/
def sstepBody (x : Ctx) (s : State) : Body :=
  let no (code : Nat) : Body := .ok { s, writes := [.g x.w.d (refused code), .p x.w.e.toNat false] }
  match x.stream s (x.g x.w.a) with
  | .error code => no code
  | .ok (g, e) =>
    if e.state != .ready && e.state != .running then no Ref.state
    else if fld (x.g x.w.b) 63 16 != 0 then no Ref.parm
    else
      let a := if e.qcnt = 0 then 0 else e.act.toList.getD e.qhead 0
      let q : Stream := if e.qcnt = 0 then e else { e with qhead := (e.qhead + 1) % 8, qcnt := e.qcnt - 1 }
      let q : Stream := { q with horiz := q.horiz - 1 }
      .ok { s := s.setStream g (q.atNode (fld (x.g x.w.b) 15 0) s.clk), writes := [.g x.w.d a, .p x.w.e.toNat (q.horiz == 0)] }

/-- `SRET`. -/
def sretBody (x : Ctx) (s : State) : Body :=
  let v := x.g x.w.a
  .ok { s := match x.stream s v with
    | .error _ => s.countRefused (sidDie (x.streamId v))
    | .ok (g, e) =>
      if e.parent = 0 || (e.state != .ready && e.state != .running) then s.countRefused (sidDie g)
      else
        let s := s.setStream g { e with state := .returned, rval := x.g x.w.b, counted := true }
        match s.stream e.parent with
        | some p => s.setStream e.parent { p with nret := p.nret + 1 }
        | none => s }

/-- Prune a stream (R359). -/
def State.prune (s : State) (fuel g : Nat) : State :=
  match s.stream g with
  | none => s
  | some e =>
    match e.state with
    | .ready => s.startRelease g
    | .returned => s.startRelease g
    | .parked => s.startRelease g
    | .running => s.setStream g { e with ppnd := true }
    | .snapshot =>
      match fuel with
      | 0 => s
      | f + 1 => (s.children g).foldl (fun s c => s.prune f c.1) s
    | .pruned => s
    | .migrating => s
    | .free => s

/-- `SPRUNE`. -/
def spruneBody (x : Ctx) (s : State) : Body :=
  let v := x.g x.w.a
  .ok { s := match x.stream s v with
    | .error _ => s.countRefused (sidDie (x.streamId v))
    | .ok (g, e) => if e.state == .migrating then s.countRefused (sidDie g) else s.prune 9 g }

/-! ### Join groups (R361) -/

/-- The counter that a counter word names, where it has a `VAL`; `none` where the word fails (R221). -/
def Ctx.joinCounter (x : Ctx) (s : State) (w : Word) : Option (State × Option Nat) :=
  if fld w 55 48 = 0 then some (s, none)
  else match s.counterSeat x.c (x.res s) w with
    | .ok (t, a) => some (t, some a.place)
    | .error _ => none

/-- `SJOIN.arm`. -/
def sjoinArmBody (x : Ctx) (s : State) : Body :=
  let hi := hidx x.w.imm
  let o := x.g x.w.c
  let w := x.g x.w.e
  if !(s.die (sidDie (x.streamId (x.g x.w.b)))).on then x.give s (refused Ref.off)
  else match s.check x.c (x.res s) x.sid hi x.off 128 64 .store spAll true 0 with
    | .error e => barBody s hi x.off 0 e
    | .ok (s1, a) =>
      match x.stream s (x.g x.w.b) with
      | .error code => x.give s (refused code)
      | .ok (g, e) =>
        if fld o 63 13 != 0 || fld o 7 3 != 0 || 3 < fld o 2 0 || fld o 12 8 = 0 || 16 < fld o 12 8 then x.give s (refused Ref.parm)
        else match x.joinCounter s1 w with
          | none => x.give s (refused Ref.ctr)
          | some (s1, cp) =>
            if e.state != .snapshot then x.give s (refused Ref.state)
            else if e.arm then x.give s (refused Ref.group)
            else
              let cadr := match cp, (x.res s).handle (fld w 63 56) with
                | some _, some h => h.base + fld w 44 0
                | _, _ => 0
              let dev (i : Nat) : Option (Nat × Bool) := ((x.res s).handle i).bind fun h =>
                if h.space = spDev then some (((s.task (x.res s).task).getD {}).ctx, h.ilv) else none
              x.give (s1.setStream g { e with
                rdev := dev hi
                cdev := if cp.isSome then dev (fld w 63 56) else none
                arm := true
                op := fld o 2 0
                kk := fld o 12 8
                cfmode := BitVec.ofNat 8 (fld x.f.fmode 7 0)
                radr := a.addr
                cadr := cadr
                jkey := wd (a.key % 1024 + fld w 55 48 * 2 ^ 10 + fld w 47 45 * 2 ^ 18)
                rsegs := a.segs
                cplace := cp }) 0

/-- `SJOIN.q`. -/
def sjoinQBody (x : Ctx) (s : State) : Body :=
  let v := x.g x.w.a
  match x.stream s v with
  | .error code => x.give s (if code = Ref.parm then refused code else 0)
  | .ok (g, e) =>
    let sel := fld x.w.imm 1 0
    if sel < 3 then x.give s ((e.words g).getD sel 0)
    else match s.resolveBlock 8 g (fld (x.g x.w.b) 24 0) 0 with
      | none => x.give s 0
      | some (lvl, m) =>
        let rc := if m.al then (((s.die (sidDie g)).ipt.find? fun o => !o.al && o.frame == m.frame && o.tier == m.tier).map (·.rc)).getD 0 else m.rc
        x.give s (wd (2 ^ 63 + lvl * 2 ^ 59 + rc * 2 ^ 40 + m.frame))

def execSfork (w : Tolog) (s : State) := issue 0xE4 w s (atStream (·.b) (sforkBody false))
def execSforkNew (w : Tolog) (s : State) := issue 0xE4 w s (sforkBody true)
def execSret (w : Tolog) (s : State) := issue 0xE5 w s (atStream (·.a) sretBody)
def execSjoinArm (w : Tolog) (s : State) := issue 0xE6 w s (atStream (·.b) sjoinArmBody)
def execSjoinQ (w : Tolog) (s : State) := issue 0xE6 w s (atStream (·.a) sjoinQBody)
def execSflat (w : Tolog) (s : State) := issue 0xE7 w s (atStream (·.a) sflatBody)
def execSapp (w : Tolog) (s : State) := issue 0xE9 w s (atStream (·.b) sappBody)
def execSprune (w : Tolog) (s : State) := issue 0xED w s (atStream (·.a) spruneBody)
def execSstep (w : Tolog) (s : State) := issue 0xEE w s (atStream (·.a) sstepBody)

end Sys2Proof.Machine
end

