-- ==== Sys2Proof/Machine/HostOps.lean ====
section
/-! DEFINITION. Host functions and queues (R417, R418): the queue page, starting and completing entries (R419, R420), and ending the work of
a queue (R421). -/

namespace Sys2Proof.Machine

def State.hostQueue (s : State) (q : Nat) : Queue := mgetD s.pkg.queues q {}
def State.setHostQueue (s : State) (q : Nat) (x : Queue) : State := { s with pkg := { s.pkg with queues := mset s.pkg.queues q x } }
def State.say (s : State) (a : Answer) : State := { s with pkg := { s.pkg with answer := a } }

/-- Functions are numbered port × 256 + VF; VF 0 is the PF (R416). -/
def isPf (fn : Nat) : Bool := fn % 256 == 0

/-- The queues of a function, in ascending number (R417). -/
def State.queuesOf (s : State) (fn : Nat) : List (Nat × Queue) :=
  if isPf fn then s.pkg.queues else s.pkg.queues.filter fun q => q.2.bound && q.2.fn == fn

/-- Entries of the submission ring. -/
def Queue.size (x : Queue) : Nat := 2 ^ fld x.base 3 0

/-- A write to a queue page that is ignored (R418). -/
def State.badWrite (s : State) (q : Nat) : State := s.setHostQueue q { s.hostQueue q with badw := true }

/-- `QBIND` (R418). -/
def Queue.bind (x : Queue) : Word := wd ((if x.bound then 2 ^ 63 else 0) + x.ctx % 1024 * 2 ^ 32 + x.key % 1024)

/-! ### Entries (R419, R420) -/

/-- The words of the entry in slot `i` of a ring, in host memory. -/
def State.ringEntry (s : State) (x : Queue) (i : Nat) : List Word :=
  wordsOf (memRead s.mem (Loc.host (fld x.base 63 12 * 4096 + 64 * i)) 64)

/-- Bits of each word that an entry may set, by `OP`; `none` for an `OP` that is not assigned. -/
def entryMask (op : Nat) : Option (List Word) :=
  let all := BitVec.allOnes 64
  let a57 := wd (2 ^ 57 - 1)
  match op with
  | 1 => some [0, all, 0, 0, 0, 0, 0, 0]
  | 2 => some [0, a57, all, 0, 0, 0, 0, 0]
  | 3 => some [0, a57, wd (2 ^ 64 - 2 ^ 32 + 0xFC3), 0, all, all, all, all]
  | 4 => some [0, 0, 0, 0, 0, 0, 0, 0]
  | 5 => some [0, wd (2 ^ 52 - 1), a57, 0, 0, 0, 0, 0]
  | 6 => some [0, a57, all, wd (2 ^ 32 - 1), 0, 0, 0, 0]
  | 7 => some [0, a57, all, wd (2 ^ 32 - 1), 0, 0, 0, 0]
  | _ => none

/-- Whether an entry sets a reserved bit. -/
def ringBad (ws ms : List Word) : Bool := fld (dw ws 0) 55 0 != 0 || (List.range 7).any fun i => dw ws (i + 1) &&& ~~~(dw ms (i + 1)) != 0

/-- An entry of a queue completes: `QDONE` advances, is written to host memory, and the vector is raised (R418). -/
def State.entryDone (s : State) (q : Nat) : State :=
  let x := s.hostQueue q
  let x := { x with done := x.done + 1, irqs := x.irqs + 1 }
  let s := s.setHostQueue q x
  if fld x.qdwb 63 3 = 0 then s else { s with mem := memWrite s.mem (Loc.host (fld x.qdwb 63 3 * 8)) (leBytes 8 x.done.toNat) }

/-- Note a refusal in `QSTAT` (R420); a kick register write has no slot. -/
def State.noteRefused (s : State) (q code : Nat) (slot : Option Nat) : State :=
  let x := s.hostQueue q
  s.setHostQueue q { x with code, slot := slot.getD x.slot }

/-- Whether an entry that has started keeps later ones from starting (R419). -/
def State.entryBlocks (s : State) (ws : List Word) : Bool :=
  match fld (dw ws 0) 63 56 with
  | 1 => (mget s.pkg.runs (fld (dw ws 1) 63 52)).isSome
  | 3 => true
  | 4 => true
  | _ => false

/-- Start the entry at `HEAD` of queue `q`, if its `OP` is `op` (R419). An entry whose `OP` is not assigned is refused by the step of
`KICK`. -/
def State.startQueued (s : State) (q op : Nat) : State :=
  let x := s.hostQueue q
  if !x.en || x.head == x.tail || !x.kicks.isEmpty || x.started.any (fun e => s.entryBlocks e.2) then s
  else
    let ws := s.ringEntry x x.head
    let slot := x.head
    let s' := s.setHostQueue q { x with head := (x.head + 1) % x.size }
    match entryMask (fld (dw ws 0) 63 56) with
    | none => if op = 1 then (s'.noteRefused q (if x.rst then 0x08 else 0x01) (some slot)).entryDone q else s
    | some ms =>
      if fld (dw ws 0) 63 56 != op then s
      else if x.rst then (s'.noteRefused q 0x08 (some slot)).entryDone q
      else if ringBad ws ms then (s'.noteRefused q 0x02 (some slot)).entryDone q
      else s'.setHostQueue q { x with head := (x.head + 1) % x.size, started := x.started ++ [(slot, ws)] }

/-- The range that an entry writes: 0 device or 1 host memory, first address and length. -/
def entryWrites (ws : List Word) : Nat × Nat × Nat :=
  match fld (dw ws 0) 63 56 with
  | 2 => (0, fld (dw ws 1) 56 0, 8)
  | 5 => (0, fld (dw ws 2) 56 0, 64)
  | 6 => (0, fld (dw ws 1) 56 0, fld (dw ws 3) 31 0)
  | 7 => (1, (dw ws 2).toNat, fld (dw ws 3) 31 0)
  | _ => (0, 0, 0)

def rangesMeet (a b : Nat × Nat × Nat) : Bool := a.1 == b.1 && a.2.2 != 0 && b.2.2 != 0 && a.2.1 < b.2.1 + b.2.2 && b.2.1 < a.2.1 + a.2.2

/-- Whether a started entry may be performed before those that started earlier: they write no address of its own, and an entry of the
ordered kinds goes after those of its kind (R419, R426). -/
def entryFree (earlier : List (Nat × List Word)) (ws : List Word) : Bool :=
  let op := fld (dw ws 0) 63 56
  earlier.all fun e => !rangesMeet (entryWrites e.2) (entryWrites ws) && op != 4 && !((op == 1 || op == 3) && fld (dw e.2 0) 63 56 == op)

/-- What performing an entry answers. -/
inductive EntryOut where
  | done (s : State)
  | refuse (code : Nat) (s : State)
  | wait

/-- A step of the entries of queue `n` with `OP` = `op`: start the next one for `k` = 0, perform the started entry `k` - 1 else. -/
def queueStep (op : Nat) (act : State → Nat → Queue → List Word → EntryOut) (s : State) : Host.Outcome State Fault Refusal :=
  let q := s.cur.n
  let x := s.hostQueue q
  .next (match s.cur.k with
    | 0 => s.startQueued q op
    | i + 1 => match x.started[i]? with
      | none => s
      | some (slot, ws) =>
        if fld (dw ws 0) 63 56 != op || !entryFree (x.started.take i) ws then s
        else
          let leave (s : State) : State := let y := s.hostQueue q
            s.setHostQueue q { y with started := y.started.eraseIdx i }
          match act s q x ws with
          | .done s => (leave s).entryDone q
          | .refuse code s => ((leave s).noteRefused q code (some slot)).entryDone q
          | .wait => s)

/-! ### Addresses -/

/-- The place of 8 bytes of a queue's context, to be written under its key. -/
def State.hostPlace (s : State) (ctx key addr : Nat) : Option Nat :=
  if !s.keyLoaded key || addr % 8 != 0 then none
  else match s.xlateDie 0 ctx addr true with
    | .ok pa => some (Loc.phys pa)
    | .error _ => none

/-- An add to a counter for the front end (R144, R195). -/
def State.hostAdd (s : State) (ctx key addr : Nat) (v : Word) : Option State :=
  (s.hostPlace ctx key addr).map fun a =>
    let (s, sat) := s.counterAdd key a v
    if sat then s.post s.columnCore (overflowRecord 0 addr v) else s

/-! ### Ending a queue's work (R421) -/

/-- End a task from outside: its firings end with `KILL`, and its exit edge publishes status 0x03 (R103, R307). -/
def State.endOutside (s : State) (id : Nat) : State :=
  match s.task id with
  | none => s
  | some t =>
    match t.state with
    | .draining => s
    | .flushing => s
    | .running => (s.setTask id { t with killed := true }).killAll id none
    | .preempting => (s.setTask id { t with killed := true }).killAll id none
    | _ =>
      let s := s.setTask id { t with state := .draining, killed := true, saved := [] }
      s.requestDone id

/-- Whether a task is of a queue's work. -/
def State.ofQueue (s : State) (q : Nat) (t : Task) : Bool :=
  t.queue == some q || t.batch.any fun g => match s.stream g with
    | some e => e.queue == some q
    | none => false

/-- The streams of a queue. -/
def State.queueStreams (s : State) (q : Nat) : List (Nat × Stream) :=
  (List.range 8).flatMap fun d => (s.liveStreams d).filter fun e => e.2.queue == some q

/-- Begin the reset of a queue: steps 1 to 3. -/
def State.resetQueue (s : State) (q : Nat) : State :=
  let x := s.hostQueue q
  if x.rst then s
  else
    let s := s.setHostQueue q { x with rst := true, rstdone := false, head := x.tail, kicks := [] }
    let s := { s with pkg := { s.pkg with runs := s.pkg.runs.map fun (r : Nat × Replay) => if r.2.queue == q then (r.1, { r.2 with expanded := true, status := 2 }) else r } }
    let s := (s.allTasks.filter fun t => s.ofQueue q t.2).foldl (fun s t => s.endOutside t.1) s
    (s.queueStreams q).foldl (fun s g => s.prune 9 g.1) s

/-- Whether nothing of a queue's work is left: step 4. -/
def State.queueQuiet (s : State) (q : Nat) : Bool :=
  (s.hostQueue q).started.isEmpty && !(s.allTasks.any fun t => s.ofQueue q t.2) && !(s.pkg.runs.any fun r => r.2.queue == q) &&
  ((s.queueStreams q).all fun g => g.2.state == .pruned) &&
  s.pkg.fabOut.all fun f => f.p.srcTask == 0 || match s.task f.p.srcTask with
    | some t => !s.ofQueue q t
    | none => false

end Sys2Proof.Machine
end

