-- ==== Sys2Proof/Machine/Graphs.lean ====
section
/-! DEFINITION. Task graphs: kicks (R424), patch tables (R423), and the replay of a graph (R425). -/

namespace Sys2Proof.Machine

/-! ### Patches (R423) -/

/-- An entry of a patch table. -/
structure Patch where
  task : Nat
  kind : Nat
  target : Nat
  val  : Word
deriving DecidableEq, Repr

/-- What the patches so far make of a replay: its descriptors, the tasks whose `TS` (kind 3) or `SID` (kind 4) was given bits
beyond its field, and the patches of handle tables. -/
structure Patched where
  descs : List (List Word)
  wide  : List (Nat × Nat) := []
  hands : List (Nat × Nat × Nat × Word) := []
deriving DecidableEq, Repr

/-- The entries of a patch table. -/
def patchesOf (ws : List Word) : List Patch :=
  match ws with
  | a :: b :: t => { task := fld a 63 52, kind := fld a 51 48, target := fld a 47 32, val := b } :: patchesOf t
  | _ => []

/-- Whether an entry refuses the kick. -/
def Patch.bad (p : Patch) (nt : Nat) : Bool :=
  5 < p.kind || nt ≤ p.task || (p.kind < 2 && 256 ≤ p.target) || (p.kind == 5 && 80 ≤ p.target)

/-- Apply one entry. -/
def Patched.apply (x : Patched) (p : Patch) : Patched :=
  let ws := x.descs.getD p.task []
  let put (i : Nat) (w : Word) : List (List Word) := x.descs.set p.task (ws.set i w)
  let clear (k : Nat) : List (Nat × Nat) := x.wide.filter (· != (p.task, k))
  match p.kind with
  | 0 => { x with hands := x.hands.filter (fun h => !(h.1 == p.task && h.2.1 == p.target && h.2.2.1 == 0)) ++ [(p.task, p.target, 0, p.val)] }
  | 1 => { x with hands := x.hands.filter (fun h => !(h.1 == p.task && h.2.1 == p.target && h.2.2.1 == 1)) ++ [(p.task, p.target, 1, p.val)] }
  | 2 => { x with descs := put 5 p.val }
  | 3 => if p.val.toNat < 2 ^ 48 then { x with descs := put 1 (setFld (dw ws 1) 47 0 p.val.toNat), wide := clear 3 } else { x with wide := (p.task, 3) :: x.wide }
  | 4 => if p.val.toNat < 2 ^ 24 then { x with descs := put 0 (setFld (dw ws 0) 23 0 p.val.toNat), wide := clear 4 } else { x with wide := (p.task, 4) :: x.wide }
  | _ => { x with descs := put p.target p.val, wide := if p.target = 1 then clear 3 else if p.target = 0 then clear 4 else x.wide }

/-- The descriptors to spawn: one with a value beyond its field breaks its header. -/
def Patched.final (x : Patched) : List (List Word) :=
  (x.descs.zip (List.range x.descs.length)).map fun d =>
    if x.wide.any (·.1 == d.2) then d.1.set 1 (setFld (dw d.1 1) 63 63 1) else d.1

/-- A handle table with the patches of a task: bits beyond `BASE` or `LEN` make the entry invalid (R184). -/
def patchHandles (hands : List (Nat × Nat × Nat × Word)) (t : Nat) (hs : SMap Handle) : SMap Handle :=
  (hands.filter fun h => h.1 == t).foldl (fun hs h =>
    match mget hs h.2.1 with
    | none => hs
    | some e =>
      let v := h.2.2.2
      let big := fld v 63 57 != 0
      mset hs h.2.1 (if h.2.2.1 = 0 then { e with w0 := if big then setFld (setFld e.w0 56 0 v.toNat) 57 57 1 else setFld e.w0 56 0 v.toNat }
                     else { e with w1 := if big then v else setFld e.w1 56 0 v.toNat })) hs

/-! ### Kicks (R424) -/

/-- The patch table at a device address of a queue; `error` with the refusal code. -/
def State.patchTable (s : State) (x : Queue) (np addr : Nat) : Except Nat (List Patch) :=
  if addr = 0 then .ok []
  else if !s.keyLoaded x.key then .error 0x05
  else match s.devRead 0 x.ctx x.key addr 8 with
    | .error _ => .error 0x05
    | .ok h =>
      let n := (wordAt h 0).toNat
      if np < n then .error 0x04
      else match s.devRead 0 x.ctx x.key (addr + 8) (16 * n) with
        | .error _ => .error 0x05
        | .ok bs => .ok (patchesOf (wordsOf bs))

/-- Kick a graph: the replay is accepted, refused, or waits for one in flight. -/
def State.kick (s : State) (q : Nat) (x : Queue) (v : Word) : EntryOut :=
  let g := fld v 63 52
  if fld v 5 0 != 0 then .refuse 0x02 s
  else match mget s.pkg.graphs g with
    | none => .refuse 0x03 s
    | some o =>
      if o.owner != x.key then .refuse 0x03 s
      else if (mget s.pkg.runs g).isSome then .wait
      else match s.patchTable x o.graph.np (fld v 51 6 * 64) with
        | .error code => .refuse code s
        | .ok ps =>
          if ps.any (·.bad o.graph.tasks.length) then .refuse 0x04 s
          else
            let y := ps.foldl Patched.apply { descs := o.graph.tasks.map (·.desc) }
            let r : Replay := { queue := q, key := x.key, ctx := x.ctx, graph := o.graph, descs := y.final, handlePatches := y.hands }
            .done { s with pkg := { s.pkg with runs := mset s.pkg.runs g r } }

/-! ### Replays (R425) -/

/-- The die with the fewest tasks in flight, the lower on a tie. -/
def State.leastDie (s : State) : Nat :=
  (List.range 8).foldl (fun m d => if (s.die d).tasks.length < (s.die m).tasks.length then d else m) 0

/-- Spawn the tasks of a replay from index `i` on, until one is refused. -/
def State.spawnAll (s : State) (g : Nat) (r : Replay) (i : Nat) (ts : List GraphTask) : State × Replay :=
  match ts with
  | [] => (s, r)
  | t :: rest =>
    let die := if t.dsel / 8 % 2 = 1 then t.dsel % 8 else s.leastDie
    let p : Spawner := { die, ctx := r.ctx, keyOk := fun k => k == r.key, preds := if t.preds.isEmpty then none else some t.preds.length,
                         patch := patchHandles r.handlePatches i, graph := some (g, i), queue := some r.queue }
    let (w, s) := s.spawn p (wd t.dsel) (r.descs.getD i [])
    if bit w 63 then (s, { r with status := 1, refused := i, word := w })
    else s.spawnAll g { r with spawned := mset r.spawned i w.toNat } (i + 1) rest

/-- `GRAPH_REPLAY`: the replay of graph `n` is expanded. -/
def execGraphReplay (s : State) : Host.Outcome State Fault Refusal :=
  let g := s.cur.n
  .next (match mget s.pkg.runs g with
    | none => s
    | some r =>
      if r.expanded then s
      else
        let (s, r) := s.spawnAll g { r with expanded := true } 0 r.graph.tasks
        { s with pkg := { s.pkg with runs := mset s.pkg.runs g r } })

/-- Whether every spawned task of a replay has published. -/
def Replay.ended (r : Replay) : Bool := r.expanded && r.spawned.all fun t => r.published.contains t.1

/-- The graph record. -/
def Replay.record (r : Replay) : List Byte :=
  bytesOf [wd (0x08 * 2 ^ 56 + r.status * 2 ^ 48 + r.refused % 4096 * 2 ^ 32 + fld r.word 31 0)] ++ zeros 56

/-- `GRAPH_COMPLETE`: the record of graph `n` is written, then its counter is added to; what fails its translation or key is dropped. -/
def execGraphComplete (s : State) : Host.Outcome State Fault Refusal :=
  let g := s.cur.n
  .next (match mget s.pkg.runs g with
    | none => s
    | some r =>
      if !r.ended then s
      else
        let s := if r.graph.grec = 0 then s else s.unlessFenced r.graph.grec r.record.length fun s => (s.devWrite 0 r.ctx r.key r.graph.grec r.record).getD s
        let s := s.unlessFenced r.graph.gdone 8 fun s => (s.hostAdd r.ctx r.key r.graph.gdone r.graph.gval).getD s
        { s with pkg := { s.pkg with runs := mdel s.pkg.runs g } })

end Sys2Proof.Machine
end

