-- ==== Sys2Proof/Machine/HostQueues.lean ====
section
/-! DEFINITION. The host's registers and windows, and the entries of its queues, but for `LOAD` (R417 to R421, R424, R426). -/

namespace Sys2Proof.Machine

/-! ### Queue pages (R417, R418, R421): page `n` of the BAR0 of function `hart`; an access outside it reads zero, or is dropped -/

/-- The queue whose page stands at 4 KiB × `j` of a function's BAR0: for a PF queue `j`, for a VF the `j`-th of its own (R417). -/
def State.pageQueue (s : State) (fn j : Nat) : Option Nat :=
  if isPf fn then (if j < 1024 then some j else none) else ((s.queuesOf fn)[j]?).map (·.1)

/-- A write to the current queue page. -/
def State.onPage (s : State) (act : Nat → Queue → State) : State := match s.pageQueue s.cur.hart s.cur.n with
  | some q => act q (s.hostQueue q)
  | none => s

/-- `QBASE_WRITE`. -/
def execQbaseWrite (v : Word) (s : State) : Host.Outcome State Fault Refusal :=
  .next (s.onPage fun q x =>
    if x.en || fld v 3 0 < 4 || 12 < fld v 3 0 then s.badWrite q else s.setHostQueue q { x with base := setFld v 11 4 0 })

/-- `QTAIL_WRITE`. -/
def execQtailWrite (v : Word) (s : State) : Host.Outcome State Fault Refusal :=
  .next (s.onPage fun q x => if x.size ≤ fld v 11 0 then s.badWrite q else s.setHostQueue q { x with tail := fld v 11 0 })

/-- `QDWB_WRITE`. -/
def execQdwbWrite (v : Word) (s : State) : Host.Outcome State Fault Refusal :=
  .next (s.onPage fun q x => s.setHostQueue q { x with qdwb := setFld v 2 0 0 })

/-- `QUEUE_ENABLE`: a write of `QCTL.EN`, of 1, or of 0 for `k` = 1. -/
def execQueueEnable (s : State) : Host.Outcome State Fault Refusal :=
  .next (s.onPage fun q x =>
    if s.cur.k = 1 then s.setHostQueue q { x with en := false }
    else if !x.bound then s.badWrite q else if x.en then s else s.setHostQueue q { x with en := true, rstdone := false, done := 0 })

/-- `QUEUE_RESET`. -/
def execQueueReset (s : State) : Host.Outcome State Fault Refusal := .next (s.onPage fun q _ => s.resetQueue q)

/-- Unload the keys of stopped interfaces whose queues have all been reset (R435). -/
def State.finishStops (s : State) : State :=
  s.pkg.stopping.foldl (fun s fn =>
    let qs := s.queuesOf fn
    if qs.any (·.2.rst) then s
    else
      let ks := qs.map (·.2.key)
      { s with pkg := { s.pkg with stopping := s.pkg.stopping.filter (· != fn), keys := s.pkg.keys.filter fun k => k.1 == 0 || !ks.contains k.1 } }) s

/-- `RSTDONE`: the reset of queue `n` completes. -/
def execRstdone (s : State) : Host.Outcome State Fault Refusal :=
  let q := s.cur.n
  let x := s.hostQueue q
  .next (if !x.rst || !s.queueQuiet q then s
    else (s.setHostQueue q { x with rst := false, rstdone := true, en := false, head := x.tail }).finishStops)

/-- What `QSTAT` reads as. -/
def Queue.stat (x : Queue) : Word := wd (x.code % 256 * 2 ^ 56 + (if x.badw then 2 ^ 55 else 0) + x.slot % 4096)

/-- What the register at 8 × `r` of a queue page reads as, beside `QSTAT` (R418). -/
def Queue.reg (x : Queue) (r : Nat) : Word :=
  match r with
  | 0 => x.base
  | 1 => wd x.tail
  | 2 => wd x.head
  | 4 => wd ((if x.rstdone then 4 else 0) + (if x.rst then 2 else 0) + if x.en then 1 else 0)
  | 5 => x.bind
  | 7 => x.done
  | 8 => x.qdwb
  | _ => 0

/-- `QSTAT_READ`: a read of `QSTAT`, which clears it, or for `k` > 0 of the register at 8 × (`k` - 1). -/
def execQstatRead (s : State) : Host.Outcome State Fault Refusal :=
  .next (match s.pageQueue s.cur.hart s.cur.n with
    | none => s.say (.word 0)
    | some q =>
      let x := s.hostQueue q
      if s.cur.k = 0 || s.cur.k = 7 then (s.setHostQueue q { x with code := 0, badw := false, slot := 0 }).say (.word x.stat)
      else s.say (.word (x.reg (s.cur.k - 1))))

/-- The interface of a function is locked or runs (R435). -/
def State.frozen (s : State) (fn : Nat) : Bool := let t := mgetD s.pkg.tdisp fn 0
  t == 1 || t == 2

/-- An attempt to change a frozen binding: the interface enters ERROR, and its queues are reset (R435). -/
def State.violate (s : State) (fn : Nat) : State :=
  if !s.frozen fn then s
  else (s.queuesOf fn).foldl (fun s q => s.resetQueue q.1) { s with pkg := { s.pkg with tdisp := mset s.pkg.tdisp fn 3 } }

/-- `QUEUE_BIND`: firmware binds queue `n` to a key and a context, and assigns it to a function. -/
def execQueueBind (key ctx fn : Nat) (s : State) : Host.Outcome State Fault Refusal :=
  let q := s.cur.n
  let x := s.hostQueue q
  .next (if x.bound && s.frozen x.fn then s.violate x.fn
    else if s.frozen fn then s.violate fn
    else if x.en then s
    else s.setHostQueue q { x with bound := true, key := key % 1024, ctx := ctx % 1024, fn })

/-! ### Kicks (R424) -/

/-- `QKICK_WRITE`: a kick by register, or for `k` = 1 the oldest that waits. -/
def execQkickWrite (v : Word) (s : State) : Host.Outcome State Fault Refusal :=
  let go (q : Nat) (x : Queue) (s : State) (v : Word) : Option State :=
    match s.kick q x v with
    | .done s => some s
    | .refuse code s => some (s.noteRefused q code none)
    | .wait => none
  .next (s.onPage fun q x => if s.cur.k = 1 then
      match x.kicks with
      | [] => s
      | w :: t => (go q x (s.setHostQueue q { x with kicks := t }) w).getD s
    else if x.rst then s.noteRefused q 0x08 none
    else if !x.en then s.badWrite q
    else if x.kicks.isEmpty then (go q x s v).getD (s.setHostQueue q { x with kicks := [v] })
    else s.setHostQueue q { x with kicks := x.kicks ++ [v] })

/-! ### Entries (R419, R426): queue `n` -/

/-- `KICK`. -/
def execKick (s : State) : Host.Outcome State Fault Refusal := queueStep 1 (fun s q x ws => if x.rst then .refuse 0x08 s else s.kick q x (dw ws 1)) s

/-- `HOST_CADD`. -/
def execHostCadd (s : State) : Host.Outcome State Fault Refusal :=
  queueStep 2 (fun s _ x ws => match s.rangeNack (fld (dw ws 1) 56 0) 8, s.hostAdd x.ctx x.key (fld (dw ws 1) 56 0) (dw ws 2) with
    | some die, _ => .refuse 0x05 (s.countNack die)
    | none, some s => .done s
    | none, none => .refuse 0x05 s) s

/-- The message that an `AMSG` entry carries (R426). -/
def amsgData (ws : List Word) : Entry := entryOf (bytesOf [dw ws 1, dw ws 4, dw ws 5, dw ws 6, dw ws 7] ++ zeros 88)

/-- Where an `AMSG` entry of a queue goes; `none` where its target is refused. -/
def State.amsgTarget (s : State) (q : Nat) (ws : List Word) : Option OutMsg :=
  let a := fld (dw ws 1) 56 0
  let id := fld (dw ws 2) 63 32
  match s.task id, s.ownerDev (homeSlice a).1 a with
  | some t, some c =>
    if t.state != .running || !s.ofQueue q t then none
    else (s.actorTarget id c (fld (dw ws 2) 11 6) (fld (dw ws 2) 1 0)).map fun e => .actor id e.1 e.2 (fld (dw ws 2) 1 0) (amsgData ws)
  | _, _ => none

/-- `AMSG`. -/
def execAmsg (s : State) : Host.Outcome State Fault Refusal :=
  queueStep 3 (fun s q _ ws => match s.amsgTarget q ws with
    | none => .refuse 0x06 s
    | some m => if s.accepts m then .done (s.deliverMsg m) else .wait) s

/-- `HOST_FENCE`. -/
def execHostFence (s : State) : Host.Outcome State Fault Refusal :=
  queueStep 4 (fun s q x _ => if x.kicks.isEmpty && !s.pkg.runs.any (fun r => r.2.queue == q) then .done s else .wait) s

/-- `HWRITE`; a write to a fenced home is dropped, and completes with the error of an address (R443; notes/assumptions/124.md). -/
def execHwrite (s : State) : Host.Outcome State Fault Refusal :=
  queueStep 6 (fun s _ x ws =>
    let a := fld (dw ws 1) 56 0
    let n := fld (dw ws 3) 31 0
    if n = 0 then .done s
    else match s.rangeNack a n, s.devWrite 0 x.ctx x.key a (memRead s.mem (Loc.host (dw ws 2).toNat) n) with
      | some die, _ => .refuse 0x05 (s.countNack die)
      | none, some s => .done s
      | none, none => .refuse 0x05 s) s

/-- Bytes of a device range as the host reads them; a byte in error reads a free value. -/
def State.hostBytes (s : State) (key : Nat) (ps : List (Nat × Nat)) : List Byte × State :=
  match ps with
  | [] => ([], s)
  | (a, n) :: t =>
    let one := (List.range n).foldl (fun (acc : List Byte × State) i =>
      if acc.2.isBad (a + i) 1 then
        let (v, s) := acc.2.free
        (acc.1 ++ [BitVec.ofNat 8 v], s)
      else (acc.1 ++ [acc.2.byteAt key (a + i)], acc.2)) ([], s)
    let rest := one.2.hostBytes key t
    (one.1 ++ rest.1, rest.2)

/-- The places of a device range that the front end reads. -/
def State.hostPlaces (s : State) (ctx : Nat) (ps : List (Nat × Nat)) : Option (List (Nat × Nat)) :=
  match ps with
  | [] => some []
  | (a, n) :: t => match s.xlateDie 0 ctx a false, s.hostPlaces ctx t with
    | .ok pa, some xs => some ((Loc.phys pa, n) :: xs)
    | _, _ => none

/-- `HREAD`. -/
def execHread (s : State) : Host.Outcome State Fault Refusal :=
  queueStep 7 (fun s _ x ws =>
    let a := fld (dw ws 1) 56 0
    let n := fld (dw ws 3) 31 0
    if n = 0 then .done s
    else match s.rangeNack a n, (if s.keyLoaded x.key then s.hostPlaces x.ctx (pieces (n / 65536 + 2) a n 65536) else none) with
      | some die, _ => .refuse 0x05 (s.countNack die)
      | none, none => .refuse 0x05 s
      | none, some ps =>
        let (bs, s) := s.hostBytes x.key ps
        .done { s with mem := memWrite s.mem (Loc.host (dw ws 2).toNat) bs }) s

/-! ### Windows (R417) -/

/-- A write to the wake line of park index `p` (R399): it is made under the key of the line's handle. A record without a line is woken by
the write itself (R463). -/
def State.aliasWrite (s : State) (p : Nat) (bs : List Byte) : State :=
  match mget s.pkg.parks p with
  | none => s
  | some r =>
    if r.wake = 0 then (if s.pkg.wakes.contains p then s else { s with pkg := { s.pkg with wakes := s.pkg.wakes ++ [p] } })
    else if s.keyLoaded r.lineKey then s.homeWrite r.lineKey r.place (bs.take 64) else s

/-- `WAKE_ALIAS_WRITE`: by function `n`. -/
def execWakeAliasWrite (p : Nat) (bs : List Byte) (s : State) : Host.Outcome State Fault Refusal :=
  let qs := s.queuesOf s.cur.n
  .next (match mget s.pkg.parks p with
    | none => s
    | some r =>
      if qs.any (fun q => q.2.bound && q.2.key == r.key) then (if r.wake = 0 then s.aliasWrite p bs else s.unlessFenced r.wake 64 fun s => s.aliasWrite p bs)
      else if isPf s.cur.n then s.badWrite 0
      else match qs with
        | [] => s
        | q :: _ => s.badWrite q.1)

/-- `BAR2_ACCESS`: by function `n`, under key 0. It reads all ones while an interface runs; beyond HBM nothing is mapped. -/
def execBar2Access (wr : Bool) (pa len : Nat) (bs : List Byte) (s : State) : Host.Outcome State Fault Refusal :=
  let closed := s.pkg.tdisp.any (·.2 == 2)
  let inside := pa + (if wr then bs.length else len) ≤ 1536 * 2 ^ 30
  .next (if !isPf s.cur.n then s
    else if wr then (if closed || !inside then s else s.homeWrite 0 (Loc.phys pa) bs)
    else if closed then s.say (.bytes (List.replicate len 0xFF))
    else if !inside then s.say (.bytes (zeros len))
    else
      let (xs, s) := s.hostBytes 0 [(Loc.phys pa, len)]
      s.say (.bytes xs))

end Sys2Proof.Machine
end

