-- ==== Sys2Proof/Machine/FabricOps.lean ====
section
/-! DEFINITION. What a package does with any fabric packet (R452 to R455): arrival in the order of its class, answers, bounces. -/

namespace Sys2Proof.Machine

/-- The fabric is in service; this package's partition; `TMO` (R467). -/
def State.fabOn (s : State) : Bool := bit s.pkg.fabcfg 63
def State.fabPart (s : State) : Nat := fld s.pkg.fabcfg 47 32
def State.tmoClk (s : State) : Nat := fld s.pkg.fabcfg 15 0 * msClk

/-- Whether inbound packets under a key are accepted (R467), and the key is loaded. -/
def State.fabKey (s : State) (key : Nat) : Bool := bit (mgetD s.pkg.fabin key 0) 63 && s.keyLoaded key

/-- Whether packets of a class wait here for room: they hold back their virtual channel (R455). -/
def State.classHeld (s : State) (cls n : Nat) : Bool := (s.pkg.fabOut.take n).any fun f => f.p.cls == cls && f.p.dpkg == s.pkgId

/-- Take an arriving packet: from a port for `n` = 0, or the packet `n` - 1 of those on their way, which loops back or has waited here. -/
def State.arriving (s : State) (p : Packet) : Option State :=
  if !s.fabOn || !p.fits then none
  else match s.cur.n with
    | 0 => if p.dpkg == s.pkgId && (List.range 64).any s.pkg.portUp then some s else none
    | i + 1 => match s.pkg.fabOut[i]? with
      | some f => if f.p == p && p.dpkg == s.pkgId && !s.classHeld p.cls i then some { s with pkg := { s.pkg with fabOut := s.pkg.fabOut.eraseIdx i } } else none
      | none => none

/-- The answer to a packet: its own fields, but for the class answered in `chan` and the operation in `task` (R453). -/
def State.answerOf (s : State) (p : Packet) (op : Nat) : Packet :=
  { p with cls := 7, op, dpkg := p.spkg, spkg := s.pkgId, part := s.fabPart, chan := p.cls, task := p.op, flowOf := p.flow }

/-- Bounce a packet that arrived (R455). -/
def State.bounce (s : State) (p : Packet) : State :=
  if p.cls = 7 then s.fabCount 63 48 else (s.fabCount 63 48).fabSend (s.answerOf p 2)

/-- Acknowledge a packet, with what `f` adds. -/
def State.ack (s : State) (p : Packet) (f : Packet → Packet := id) : State := s.fabSend (f (s.answerOf p 1))

/-- What acting on a packet gives. -/
inductive FabOut where
  | done (s : State)
  | bounce
  /-- The home lies in a fenced rectangle of the die: the peer sees an error (R443). -/
  | nack (die : Nat)
  | wait

/-- Whether a packet that arrives by a port is on its way to another package of the torus: it goes on in dimension order (R451). -/
def State.passesOn (s : State) (p : Packet) : Bool :=
  s.fabOn && p.fits && s.cur.n == 0 && p.dpkg != s.pkgId && p.spkg != s.pkgId && torusOk s.pkg.fabid p.dpkg && (List.range 64).any s.pkg.portUp

/-- A packet of class `cls`, and of operation `op` where it is given, arrives: `act` acts on it; one of another partition, or of a class that is
not assigned, is bounced (R452). -/
def fabStep (cls : Nat) (op : Option Nat) (act : State → Packet → FabOut) (p : Packet) (s : State) : Host.Outcome State Fault Refusal :=
  let other := p.cls != cls || (match op with
    | some o => p.op != o
    | none => false)
  .next (if s.passesOn p && !other then s.fabSend p else match s.arriving p with
    | none => s
    | some t =>
      let hold := if s.cur.n = 0 then { s with pkg := { s.pkg with fabOut := s.pkg.fabOut ++ [{ clk := s.clk, p }] } } else s
      if p.cls = 0 || 7 < p.cls then t.bounce p
      else if other then s
      else if s.cur.n = 0 && s.classHeld p.cls s.pkg.fabOut.length then hold
      else if p.part != s.fabPart then t.bounce p
      else match act t p with
        | .done u => u
        | .bounce => t.bounce p
        | .nack die => (t.countNack die).bounce p
        | .wait => hold)

/-- The packet that an answer answers, where another package gives it: the oldest of its flow that has left. -/
def Flight.answeredBy (own : Nat) (q : Packet) (f : Flight) : Bool :=
  f.port.isSome && f.p.spkg == own && f.p.dpkg == q.spkg && f.p.cls == q.chan && f.p.sid == q.sid && f.p.block == q.block &&
  f.p.srcTask == q.srcTask && f.p.srcCore == q.srcCore && f.p.srcSlot == q.srcSlot && (q.chan == 5 || (f.p.addr == q.addr && f.p.pidx == q.pidx))

/-- Take the packet that an answer answers off the packets on their way; an answer to none is dropped. -/
def State.settle (s : State) (q : Packet) : Option (Packet × State) :=
  if q.spkg = s.pkgId then some ({ q with cls := q.chan, op := q.task, dpkg := q.spkg }, s)
  else match s.pkg.fabOut.find? (Flight.answeredBy s.pkgId q) with
    | some f => some (f.p, { s with pkg := { s.pkg with fabOut := s.pkg.fabOut.erase f } })
    | none => none

/-- Whether a task is in flight. -/
def State.endIssuer (s : State) (task : Nat) : State := if (s.task task).isSome then s.endOutside task else s

/-- The record of a router that waits for the answer to packet `q`. -/
def State.mergeOf (s : State) (q : Packet) : Option (Merge × Nat) :=
  let ms := (s.die q.srcCore).merges
  (ms.zip (List.range ms.length)).find? fun m => m.1.away && m.1.old.isNone && m.1.number == q.block

/-- What a bounce does at the source: its issuer is ended from outside (R455). A merged request has an issuer for each constituent; `SXFIN` is
repeated (R463). -/
def State.bounced (s : State) (q : Packet) : State :=
  if q.cls = 6 && 16 ≤ q.srcSlot then
    match s.mergeOf q with
    | some (m, i) => m.parts.foldl (fun s p => s.endIssuer p.task) (s.setMerge q.srcCore i none)
    | none => s
  else if q.cls = 5 && q.op = 7 then s.fabSend q
  else s.endIssuer q.srcTask

end Sys2Proof.Machine
end

