-- ==== Sys2Proof/Machine/Sha3.lean ====
section
/-! DEFINITION. SHA3-512 (FIPS 202), which the boot ROM measures with (R432). The round constants come from the register of FIPS 202, 3.2.5,
and the turns of the lanes from the walk of 3.2.2. -/

namespace Sys2Proof.Machine

/-- The state: plane `y` holds lane `x` (FIPS 202, 3.1). -/
abbrev Planes := List (List Word)

/-- The lane at (x, y), both modulo 5; and the state with that lane replaced. -/
def Planes.lane (p : Planes) (x y : Nat) : Word := (p.getD (y % 5) []).getD (x % 5) 0
def Planes.put (p : Planes) (x y : Nat) (v : Word) : Planes := p.set (y % 5) ((p.getD (y % 5) []).set (x % 5) v)

/-- Two planes added. -/
def planeXor (p q : List Word) : List Word := List.zipWith (· ^^^ ·) p q

/-- Step θ: every lane takes the parities of the column before it and, turned by one, of the column after it. -/
def stepTheta (p : Planes) : Planes :=
  let sums := p.foldl planeXor (List.replicate 5 0)
  let before := sums.drop 4 ++ sums.take 4
  let after := (sums.drop 1 ++ sums.take 1).map (·.rotateLeft 1)
  p.map (planeXor (planeXor before after))

/-- Steps ρ and π: `n` places of the walk are left, the present one is (x, y); its lane of `p`, turned, goes to the next place. -/
def stepRhoPi (p : Planes) (n x y : Nat) (out : Planes) : Planes :=
  match n with
  | 0 => out
  | k + 1 =>
    let t := 24 - n
    stepRhoPi p k y ((2 * x + 3 * y) % 5) (out.put y (2 * x + 3 * y) ((p.lane x y).rotateLeft ((t + 1) * (t + 2) / 2 % 64)))

/-- Step χ, in each plane. -/
def stepChi (p : Planes) : Planes :=
  p.map fun row => planeXor row (List.zipWith (fun u v => v &&& ~~~u) (row.drop 1 ++ row.take 1) (row.drop 2 ++ row.take 2))

/-- The register behind the round constants after `n` turns: its bit 0 is the bit given. -/
def lfsr (n : Nat) : Nat :=
  match n with
  | 0 => 1
  | k + 1 => let r := 2 * lfsr k
    if 256 ≤ r then r ^^^ 0x171 else r

/-- Step ι of round `i`: bit 2^j − 1 of lane (0, 0) takes the register's bit after j + 7i turns. -/
def stepIota (p : Planes) (i : Nat) : Planes :=
  p.put 0 0 ((List.range 7).foldl (fun v j => v ^^^ wd (lfsr (j + 7 * i) % 2 * 2 ^ (2 ^ j - 1))) (p.lane 0 0))

/-- The permutation: 24 rounds. -/
def permute1600 (p : Planes) : Planes :=
  (List.range 24).foldl (fun p i => let q := stepTheta p
    stepIota (stepChi (stepRhoPi q 24 1 0 q)) i) p

/-- Take the message in, 72 bytes at a time: nine lanes of the state take the block's words. -/
def absorb (fuel : Nat) (p : Planes) (msg : List Byte) : Planes :=
  match fuel with
  | 0 => p
  | f + 1 =>
    let ws := (wordsOf (msg.take 72)).zip (List.range 9)
    absorb f (permute1600 (ws.foldl (fun p w => p.put w.2 (w.2 / 5) (p.lane w.2 (w.2 / 5) ^^^ w.1)) p)) (msg.drop 72)

/-- The message with the suffix 01 and the padding 10*1, to whole blocks. -/
def withPadding (bs : List Byte) : List Byte :=
  let m := bs ++ [0x06] ++ zeros (71 - bs.length % 72)
  m.dropLast ++ [m.getLastD 0 ||| 0x80]

/-- The SHA3-512 digest of a message: 64 bytes, read as a little-endian number. -/
def sha3 (bs : List Byte) : Nat :=
  ofLe (bytesOf ((absorb (bs.length / 72 + 1) (List.replicate 5 (List.replicate 5 0)) (withPadding bs)).flatten.take 8))

end Sys2Proof.Machine
end

