-- ==== Sys2Proof/Machine/Firmware.lean ====
section
/-! DEFINITION. Reset and measured start (R430, R432, R439), the SPDM responder and key loading (R391, R433), firmware update (R434) and
TDISP (R435). -/

namespace Sys2Proof.Machine

/-! ### Reset (R432, R439, R448) -/

/-- Where flash and the host's memory begin: what a reset and a loss of power leave. -/
def lastingFrom : Nat := Loc.slot 3 0 0

/-- The state after a loss of everything but flash, fuses and the outside; `masks` are the retirement masks. -/
def State.cleared (s : State) (masks : SMap Word) : State :=
  { State.reset with
    mem := s.mem.filter fun c => lastingFrom ≤ c.1
    keyTags := s.keyTags.filter fun c => lastingFrom ≤ c.1
    bad := s.bad.filter fun a => lastingFrom ≤ a
    inputs := s.inputs
    freeCtr := s.freeCtr
    pkg := { State.reset.pkg with
      nextKey := s.pkg.nextKey
      slotCtr := s.pkg.slotCtr.filter fun c => 3 * 2 ^ 40 ≤ c.1
      fuse := s.pkg.fuse
      masks := masks
      lineMaps := s.pkg.lineMaps
      pldm := { active := s.pkg.pldm.active, inactive := s.pkg.pldm.inactive } } }

/-- The retirement masks with the slices of the dies that are retired or pending (R437). -/
def State.allMasks (s : State) : SMap Word := s.dies.foldl (fun m d => mset m d.1 (mgetD m d.1 0 ||| d.2.slret ||| d.2.slpend)) s.pkg.masks

/-- `PACKAGE_RESET`: pending slices start retired (R437, R439). -/
def execPackageReset (s : State) : Host.Outcome State Fault Refusal := .next (s.cleared s.allMasks)

/-- `POWER_FAILURE`: what is not in flash is lost, retirement bits not yet written included (R439). -/
def execPowerFailure (s : State) : Host.Outcome State Fault Refusal := .next (s.cleared s.pkg.masks)

/-- Whether the boot ROM takes a configuration table (R430): one that an update wrote is the one that stands in its bank. A table whose
column, keys or disabled cores break the limits of R3 and R430 is taken no more than one whose signature fails (notes/assumptions/124.md). -/
def State.tableOk (s : State) (bank : SMap (List Byte)) (b : BootTable) : Bool :=
  b.signed && s.pkg.fuse ≤ b.version && (b.colW == 1 || b.colW == 2) && b.colX + b.colW ≤ 16 && b.signers.length ≤ 8 &&
  ((List.range 8).all fun i => (b.disabled.filter fun c => dieOf c == i).eraseDups.length ≤ 8) &&
  match mget bank 1 with
  | some bs => bs == b.bytes
  | none => true

/-- Whether a frame of chip scratchpad holds a granule that a retired slice owns (R317, R440). -/
def frameRetired (mask : Word) (f : Nat) : Bool := (List.range 8).any fun k => bit mask ((f % 2 ^ 23 * 8 + k) % 48)

/-- What a die holds once its stages have started; frames that hold a granule of a retired slice stay off the free list (R440). -/
def State.startDie (s : State) (b : BootTable) (i : Nat) : State :=
  let mask := mgetD s.pkg.masks i 0
  s.setDie i { s.die i with
    slret := mask
    lineOff := mgetD s.pkg.lineMaps i []
    ways := min 12 (b.ways.getD i 0)
    hbmFree := b.hbm.getD i []
    chipFree := (b.chip.getD i []).filter fun f => !frameRetired mask f }

/-- Keep measurement `k` (R432). -/
def State.putMeasure (s : State) (k v : Nat) : State := { s with pkg := { s.pkg with meas := mset s.pkg.meas k v } }

/-- The bytes of the disabled lines, as they are measured: the masks and the lines of the dies in order (notes/assumptions/125.md). -/
def State.bitmapBytes (s : State) : List Byte :=
  (List.range 8).flatMap fun i => leBytes 8 (mgetD s.pkg.masks i 0).toNat ++ (mgetD s.pkg.lineMaps i []).flatMap (leBytes 4)

/-- Measure the firmware column image of the active bank: the one that was shipped where no update has written it (R432). -/
def State.measureColumn (s : State) : State := s.putMeasure 3 (sha3 ((mget s.pkg.pldm.active 0).getD Config.columnImage))

/-- `FABID` as firmware sets it: its reserved bits read as zero (R5), and a package outside the torus is not taken (R450, R467). -/
def fabidOf (v : Word) : Word :=
  let v := v &&& 0xFFFFFFF8
  if torusOk v (fld v 31 16) then v else 0

/-- Start under a configuration table: measurements 1 to 4, and the parts that the table and firmware set. A slice has 12 ways (R3). -/
def State.start (s : State) (b : BootTable) : State :=
  let s := (((s.putMeasure 1 (sha3 Config.bootRom)).putMeasure 2 (sha3 b.bytes)).measureColumn).putMeasure 4 (sha3 s.bitmapBytes)
  let s := { s with pkg := { s.pkg with boot := b, cxlSize := b.cxlSize, cxlSize1 := b.cxlSize1, fabid := fabidOf b.fabid } }
  let s := (List.range 8).foldl (fun s i => s.startDie b i) s
  b.disabled.foldl (fun s c => s.setCore c { s.core c with disabled := true }) s

/-- `MEASURED_START`: the boot ROM takes the table of the active bank, `a`, or else the other's, `b`. With neither nothing starts. -/
def execMeasuredStart (a b : BootTable) (s : State) : Host.Outcome State Fault Refusal :=
  .next (if !s.pkg.meas.isEmpty then s else if s.tableOk s.pkg.pldm.active a then s.start a
    else if s.tableOk s.pkg.pldm.inactive b then s.start b else s)

/-! ### SPDM (R433; the order of the messages is notes/assumptions/60.md) -/

/-- Answer an SPDM request that needs `ok`, unless the column restarts. -/
def spdmStep (ok : State → Bool) (act : State → State) (s : State) : Host.Outcome State Fault Refusal :=
  .next (if s.pkg.restarting then s.say .busy else if ok s then act s else s.say .error)

/-- A response to request `r` whose content is a free value. -/
def State.saySecret (s : State) (r : Nat) : State :=
  let (v, s) := s.free
  s.say (.spdm r [v])

def State.setSpdm (s : State) (x : Spdm) : State := { s with pkg := { s.pkg with spdm := x } }
def State.negotiated (s : State) : Bool := s.pkg.spdm.nego == 3

/-- `GET_VERSION`: 1.3; negotiation begins anew. -/
def execGetVersion (s : State) : Host.Outcome State Fault Refusal := spdmStep (fun _ => true) (fun s => (s.setSpdm { nego := 1 }).say (.spdm 1 [13])) s
/-- `GET_CAPABILITIES`. -/
def execGetCapabilities (s : State) : Host.Outcome State Fault Refusal :=
  spdmStep (fun s => s.pkg.spdm.nego == 1) (fun s => (s.setSpdm { s.pkg.spdm with nego := 2 }).saySecret 2) s
/-- `NEGOTIATE_ALGORITHMS`: ML-DSA-87 and SHA3-512 alone. -/
def execNegotiateAlgorithms (s : State) : Host.Outcome State Fault Refusal :=
  spdmStep (fun s => s.pkg.spdm.nego == 2) (fun s => (s.setSpdm { s.pkg.spdm with nego := 3 }).say (.spdm 3 [87, 512])) s
/-- `GET_DIGESTS`: of the certificate chain, which slot 0 holds. -/
def execGetDigests (s : State) : Host.Outcome State Fault Refusal := spdmStep State.negotiated (fun s => s.say (.spdm 4 [sha3 Config.certChain])) s
/-- `GET_CERTIFICATE`: of slot `n`; slot 0 alone holds a chain. -/
def execGetCertificate (s : State) : Host.Outcome State Fault Refusal :=
  spdmStep (fun s => s.negotiated && s.cur.n == 0) (fun s => s.say (.spdm 5 (Config.certChain.map (·.toNat)))) s
/-- `CHALLENGE`. -/
def execChallenge (s : State) : Host.Outcome State Fault Refusal := spdmStep State.negotiated (fun s => s.saySecret 6) s
/-- `GET_MEASUREMENTS`. -/
def execGetMeasurements (s : State) : Host.Outcome State Fault Refusal := spdmStep State.negotiated (fun s => s.say (.measurements s.pkg.meas)) s
/-- `KEY_EXCHANGE`. -/
def execKeyExchange (s : State) : Host.Outcome State Fault Refusal :=
  spdmStep (fun s => s.negotiated && s.pkg.spdm.session == 0) (fun s => (s.setSpdm { s.pkg.spdm with session := 1 }).saySecret 8) s
/-- `FINISH`. -/
def execFinish (s : State) : Host.Outcome State Fault Refusal :=
  spdmStep (fun s => s.pkg.spdm.session == 1) (fun s => (s.setSpdm { s.pkg.spdm with session := 2 }).say (.spdm 9 [])) s
/-- `END_SESSION`. -/
def execEndSession (s : State) : Host.Outcome State Fault Refusal :=
  spdmStep (fun s => s.pkg.spdm.session == 2) (fun s => (s.setSpdm { s.pkg.spdm with session := 0 }).say (.spdm 10 [])) s
/-- `HEARTBEAT`. -/
def execHeartbeat (s : State) : Host.Outcome State Fault Refusal := spdmStep (fun s => s.pkg.spdm.session == 2) (fun s => s.say (.spdm 11 [])) s

/-- The frozen interface whose queues are bound to a key. -/
def State.frozenFor (s : State) (key : Nat) : Option Nat :=
  ((s.pkg.queues.find? fun q => q.2.bound && q.2.key == key && s.frozen q.2.fn)).map (·.2.fn)

/-- `KEY_LOAD`: a key is loaded with the ranges firmware allots to it, or unloaded, inside a session. -/
def execKeyLoad (key : Nat) (load : Bool) (allot : Ranges) (s : State) : Host.Outcome State Fault Refusal :=
  spdmStep (fun s => s.pkg.spdm.session == 2 && 0 < key && key < 1024) (fun s =>
    match s.frozenFor key with
    | some fn => s.violate fn
    | none =>
      let p := s.pkg
      if load then { s with pkg := { p with keys := mset p.keys key p.nextKey, nextKey := p.nextKey + 1, allot := mset p.allot key allot } }
      else { s with pkg := { p with keys := mdel p.keys key, allot := mdel p.allot key } }) s

/-! ### Firmware update (R434; the order of the commands is notes/assumptions/61.md) -/

/-- Answer a PLDM command that is taken in the states `from_`. -/
def pldmStep (from_ : List Update) (act : State → Pldm → State × Pldm) (s : State) : Host.Outcome State Fault Refusal :=
  let p := s.pkg.pldm
  .next (if from_.contains p.state then
      let (s, p) := act s p
      { s with pkg := { s.pkg with pldm := p, answer := .pldm p.state.code } }
    else s.say .error)

def allUpdates : List Update := [.idle, .learn, .ready, .download, .verify, .apply]

/-- `QUERY_DEVICE_IDENTIFIERS`. -/
def execQueryDeviceIdentifiers (s : State) : Host.Outcome State Fault Refusal := pldmStep allUpdates (fun s p => (s, p)) s
/-- `GET_FIRMWARE_PARAMETERS`. -/
def execGetFirmwareParameters (s : State) : Host.Outcome State Fault Refusal := pldmStep allUpdates (fun s p => (s, p)) s
/-- `GET_STATUS`. -/
def execGetStatus (s : State) : Host.Outcome State Fault Refusal := pldmStep allUpdates (fun s p => (s, p)) s
/-- `REQUEST_UPDATE`. -/
def execRequestUpdate (s : State) : Host.Outcome State Fault Refusal := pldmStep [.idle] (fun s p => (s, { p with state := .learn, applied := [] })) s
/-- `PASS_COMPONENT_TABLE`. -/
def execPassComponentTable (s : State) : Host.Outcome State Fault Refusal := pldmStep [.learn] (fun s p => (s, { p with state := .ready })) s
/-- `UPDATE_COMPONENT`: the column image (0) or the configuration table (1); the data goes to its inactive bank. -/
def execUpdateComponent (comp : Nat) (s : State) : Host.Outcome State Fault Refusal :=
  pldmStep [.ready] (fun s p => (s, { p with state := .download, comp := comp % 2, inactive := mset p.inactive (comp % 2) [], applied := p.applied.filter (· != comp % 2) })) s
/-- `REQUEST_FIRMWARE_DATA`. -/
def execRequestFirmwareData (bs : List Byte) (s : State) : Host.Outcome State Fault Refusal :=
  pldmStep [.download] (fun s p => (s, { p with inactive := mset p.inactive p.comp (mgetD p.inactive p.comp [] ++ bs) })) s
/-- `TRANSFER_COMPLETE`. -/
def execTransferComplete (s : State) : Host.Outcome State Fault Refusal := pldmStep [.download] (fun s p => (s, { p with state := .verify })) s
/-- `VERIFY_COMPLETE`: `good` says that the signature verifies; a failure, or a version below the minimum, cancels the update. -/
def execVerifyComplete (good : Bool) (version : Nat) (s : State) : Host.Outcome State Fault Refusal :=
  pldmStep [.verify] (fun s p =>
    let least := if p.comp = 0 then s.pkg.boot.minFw else s.pkg.fuse
    (s, { p with state := if good && least ≤ version then .apply else .idle })) s
/-- `APPLY_COMPLETE`. -/
def execApplyComplete (s : State) : Host.Outcome State Fault Refusal := pldmStep [.apply] (fun s p => (s, { p with state := .ready, applied := p.comp :: p.applied })) s
/-- Set an entry of a map, or drop it: a bank that no update has written holds what was shipped. -/
def mgive (m : SMap α) (k : Nat) (v : Option α) : SMap α :=
  match v with
  | some v => mset m k v
  | none => mdel m k

/-- `ACTIVATE_FIRMWARE`: the applied banks become active, and the column restarts. -/
def execActivateFirmware (s : State) : Host.Outcome State Fault Refusal :=
  pldmStep [.ready] (fun s p =>
    if p.applied.isEmpty then (s, p)
    else
      ({ s with pkg := { s.pkg with restarting := true } },
       p.applied.foldl (fun p c => { p with active := mgive p.active c (mget p.inactive c), inactive := mgive p.inactive c (mget p.active c) })
         { p with state := .idle, applied := [] })) s
/-- `CANCEL_UPDATE_COMPONENT`. -/
def execCancelUpdateComponent (s : State) : Host.Outcome State Fault Refusal := pldmStep [.download, .verify, .apply] (fun s p => (s, { p with state := .ready })) s
/-- `CANCEL_UPDATE`. -/
def execCancelUpdate (s : State) : Host.Outcome State Fault Refusal :=
  pldmStep [.learn, .ready, .download, .verify, .apply] (fun s p => (s, { p with state := .idle, applied := [] })) s
/-- `FIRMWARE_RESTART_COMPLETE`: the column image of the active bank is measured before it runs (R432). -/
def execFirmwareRestartComplete (s : State) : Host.Outcome State Fault Refusal :=
  .next (if !s.pkg.restarting then s else { s.measureColumn with pkg := { s.measureColumn.pkg with restarting := false } })

/-! ### TDISP (R435): the interface of function `n` -/

def State.setTdisp (s : State) (fn t : Nat) : State := { s with pkg := { s.pkg with tdisp := mset s.pkg.tdisp fn t } }

/-- `LOCK_INTERFACE`. -/
def execLockInterface (s : State) : Host.Outcome State Fault Refusal :=
  let fn := s.cur.n
  .next (if isPf fn || mgetD s.pkg.tdisp fn 0 != 0 then s else s.setTdisp fn 1)

/-- The BAR0 ranges of a function: its queues' pages, and the wake aliases of 2^20 park records (R396, R417). -/
def bar0Ranges (qs : List (Nat × Queue)) : Ranges := (List.range qs.length).map (fun j => (4096 * j, 4096)) ++ [(0x4000000, 64 * 2 ^ 20)]

/-- `GET_DEVICE_INTERFACE_REPORT`. -/
def execGetDeviceInterfaceReport (s : State) : Host.Outcome State Fault Refusal :=
  let qs := s.queuesOf s.cur.n
  .next (s.say (.report (qs.map fun q => (q.1, q.2.bind)) (bar0Ranges qs)))

/-- `START_INTERFACE`: `k` = 1 says that a selective IDE stream is established. -/
def execStartInterface (s : State) : Host.Outcome State Fault Refusal :=
  let fn := s.cur.n
  .next (if mgetD s.pkg.tdisp fn 0 == 1 && s.cur.k == 1 then s.setTdisp fn 2 else s)

/-- `STOP_INTERFACE`: the queues are reset, and then the keys unloaded. -/
def execStopInterface (s : State) : Host.Outcome State Fault Refusal :=
  let fn := s.cur.n
  .next (if isPf fn then s
    else
      let s := { s with pkg := { s.pkg with tdisp := mset s.pkg.tdisp fn 0, stopping := fn :: s.pkg.stopping.filter (· != fn) } }
      ((s.queuesOf fn).foldl (fun s q => s.resetQueue q.1) s).finishStops)

/-- `BINDING_VIOLATION`. -/
def execBindingViolation (s : State) : Host.Outcome State Fault Refusal := .next (s.violate s.cur.n)

end Sys2Proof.Machine
end

