-- ==== Sys2Proof/Machine/Reliability.lean ====
section
/-! DEFINITION. Fences (R441 to R443), scrubbing and line disables (R438, R445), the bitmaps in flash (R439), voltage domains (R446, R447)
and throttling (R448). -/

namespace Sys2Proof.Machine

/-! ### Rectangles (R441) -/

/-- The enabled rectangle that holds a core. -/
def State.rectOf (s : State) (c : Nat) : Option Nat := (s.die (dieOf c)).crect.toList.findIdx? fun v => bit v 63 && rectHas v c

/-- The cores of the containment rectangle of a core. -/
def State.rectCores (s : State) (c : Nat) : List CoreId :=
  let cs := dieCores (dieOf c)
  if s.inColumn c then cs.filter s.inColumn
  else match s.rectOf c with
    | some n => cs.filter (rectHas ((s.die (dieOf c)).crect.toList.getD n 0))
    | none => cs.filter fun o => yOf o / 2 == yOf c / 2 && xOf o / 2 == xOf c / 2 && !s.inColumn o

/-- The slices of a rectangle: those of its quads; the column has none. -/
def State.rectSlices (s : State) (c : Nat) : List Nat :=
  if s.inColumn c then [] else ((s.rectCores c).map fun o => yOf o / 2 * 8 + xOf o / 2).eraseDups

/-- The detail of kind 3 (R436). -/
def State.rectDetail (s : State) (c : Nat) : Nat :=
  if s.inColumn c then 2 ^ 9
  else match s.rectOf c with
    | some n => n
    | none => 2 ^ 8 + yOf c * 2 ^ 16 + xOf c * 2 ^ 12

/-! ### Fences (R442) -/

/-- The tasks with a core among `cs`. -/
def State.tasksOn (s : State) (cs : List CoreId) : List (Nat × Task) := s.allTasks.filter fun t => t.2.places.any fun p => cs.contains p.core

/-- Fault a task that a fence takes a core of (R103, R276, R442): its firings end with `KILL`. -/
def State.fenceTask (s : State) (c : Nat) (id : Nat) : State :=
  match s.task id with
  | none => s
  | some t =>
    let t := if t.faulted then t else { t with faulted := true, cause := 0x30, fcore := c }
    if t.state.ending then s.setTask id t
    else
      if t.state == .running || t.state == .preempting then (s.setTask id t).killAll id none
      else (s.setTask id { t with state := .draining, saved := [] }).requestDone id

/-- Every firing of a core that is being fenced ends, in the middle of an instruction as well (R442). -/
def State.killCore (s : State) (c : Nat) : State :=
  (List.range 8).foldl (fun s k => if (s.firing c k).any (·.killed) then s.killOne c k else s) s

/-- A chain whose core is reset: its entries are gone. -/
def Chain.emptied (x : Chain) : Chain := { x with tags := [], fol := [] }

/-- A core as its reset leaves it: helpers at address 0, its units as at reset; the event queue, which tells of the fence, and the
records of the tasks that are still to drain stay (R442). -/
def Core.afterFence (x : Core) (clk : Nat) (asked : CoreId) (rect : Option Nat) : Core :=
  { cycle0 := clk
    actors := x.actors
    tasks := x.tasks.map fun t => (t.1, { t.2 with achain := t.2.achain.emptied, cchain := t.2.cchain.emptied })
    evq := x.evq
    evHeld := x.evHeld
    helpers := x.helpers.map fun h => { held := h.held }
    winctl := x.winctl
    sigCount := x.sigCount
    susCount := x.susCount
    disabled := x.disabled
    fenced := true
    fence := some (asked, rect) }

/-- Mark the monitors that slices or cores of a rectangle hold overflowed (R443). -/
def State.loseMonitors (s : State) (die : Nat) (slices : List Nat) (cs : List CoreId) : State :=
  let lost (m : Monitor) : Bool := m.registered && (if m.dir < 1000 then m.dir / 48 == die && slices.contains (m.dir % 48) else cs.contains (m.dir - 1000))
  let s := { s with cores := s.cores.map fun (c : Nat × Core) =>
    (c.1, let x : Core := c.2; (x.monitors.filter lost).foldl Core.evicted { x with monitors := x.monitors.filter fun m => !lost m }) }
  let d := s.die die
  s.setDie die { d with dirs := d.dirs.filter fun x => !slices.contains x.1 }

/-- The contents of the chip-scratchpad granules that a slice owns, frames of the pool among them, are lost: they read poisoned until they are written (R442). -/
def State.loseChip (s : State) (die sl : Nat) : State :=
  let n := (s.die die).ways * 64
  let bytes := (List.range n).flatMap fun g => (List.range 4096).map fun i => Loc.chip die ((g * 48 + sl) * 4096 + i)
  let frames := ((s.die die).ipt.filter fun m => m.tier == 1 && !m.al).flatMap fun m =>
    ((List.range 8).filter fun k => (m.frame % 2 ^ 23 * 8 + k) % 48 == sl).flatMap fun k => (List.range 4096).map fun i => m.place (4096 * k + i)
  { s with bad := s.bad ++ bytes ++ frames }

/-- The number of a core's rectangle, where `CRECTn` names it (R441). -/
def State.rectNumber (s : State) (c : Nat) : Option Nat := if s.inColumn c then none else s.rectOf c

/-- Requests that the routers of a rectangle hold, or that go to it, are performed before it is reset (R442, R443). -/
def State.flushMerges (s : State) (die : Nat) (slices : List Nat) (cs : List CoreId) : State :=
  let ms := (s.die die).merges
  (List.range ms.length).foldr (fun i s => match ms[i]? with
    | some m =>
      let h := homeOf m.space ((m.parts.map (·.core)).headD 0) m.addr (some m.home)
      if (m.routers.any cs.contains) || (3 ≤ m.space && h.1 == die && slices.contains h.2) then s.sendMerge die i else s
    | none => s) s

/-- A core's memories as its reset leaves them: scratchpad and lane slices zero, without errors (R442). -/
def State.zeroCore (s : State) (o : CoreId) : State :=
  { s with
    mem := memZero (memZero s.mem (Loc.sp o 0) spBytes) (Loc.slice o 0 0) (32 * 4096)
    bad := s.bad.filter fun b => !(Loc.sp o 0 ≤ b && b < Loc.sp o 0 + spBytes) && !(Loc.slice o 0 0 ≤ b && b < Loc.slice o 0 0 + 32 * 4096) }

/-- Forget the watches whose lines are homed in a rectangle, in the table as well (R400, R443). -/
def State.loseWatches (s : State) (die : Nat) (slices : List Nat) : State :=
  (s.pkg.watches.filter fun w => let h := homeSlice w.2.addr
    h.1 == die && slices.contains h.2).foldl (fun s w => s.clearWatch w.2.park) s

/-- Step 1 of a fence: its registers and its event (R442). -/
def State.fenceBegins (s : State) (c : CoreId) : State :=
  let d := s.die (dieOf c)
  let cf := setFld (setFld d.cfstat 63 48 (satAdd (fld d.cfstat 63 48) 1 65535)) 5 5 1
  (s.setDie (dieOf c) { d with cfstat := match s.rectNumber c with
    | some n => setFld cf 4 0 n
    | none => cf }).relEvent (dieOf c) 3 (s.rectDetail c)

/-- `RECT_FENCE`: the rectangle of the oldest core that asks is fenced, killed and reset. An error consumed in a rectangle during its own
fence is absorbed; for a disabled core there is step 1 alone. -/
def execRectFence (s : State) : Host.Outcome State Fault Refusal :=
  .next (match s.fenceReq with
    | [] => s
    | c :: t =>
      let s := { s with fenceReq := t }
      if (s.core c).fenced then s
      else if (s.core c).disabled then s.fenceBegins c
      else
        let die := dieOf c
        let cs := s.rectCores c
        let slices := s.rectSlices c
        let rect := s.rectNumber c
        let s := (s.fenceBegins c).flushMerges die slices cs
        let s := (s.tasksOn cs).foldl (fun s t => s.fenceTask c t.1) s
        let s := s.loseMonitors die slices cs
        let s := cs.foldl State.killCore s
        let s := s.loseWatches die slices
        let s := slices.foldl (fun s sl => s.loseChip die sl) s
        cs.foldl (fun s o => (s.setCore o ((s.core o).afterFence s.clk c rect)).zeroCore o) s)

/-- Whether a record has a wake line that a write would wake it by: it is pending, parked or pre-promoting (R396, R399). -/
def Park.watched (p : Park) : Bool := 1 ≤ p.state && p.state ≤ 3 && p.wake != 0

/-- Register again the watches of parked records that a fence lost (R443). -/
def State.renewWatches (s : State) : State :=
  s.pkg.parks.foldl (fun s p =>
    if p.2.watched && !s.pkg.watches.any (fun w => w.2.park == p.1) && !s.pkg.wakes.contains p.1 then
      s.addWatch p.2.wake p.2.place p.1
    else s) s

/-- `FENCE_COMPLETE`: the boundary of the current core's rectangle opens. -/
def execFenceComplete (s : State) : Host.Outcome State Fault Refusal :=
  let c := s.cur.core
  .next (if !(s.core c).fenced then s
    else
      let s := ((dieCores (dieOf c)).filter fun o => (s.core o).fence == (s.core c).fence).foldl (fun s o =>
        s.setCore o { s.core o with fenced := false, fence := none }) s
      let d := s.die (dieOf c)
      let more := s.cores.any fun o => dieOf o.1 == dieOf c && o.2.fenced
      (s.setDie (dieOf c) { d with cfstat := setFld d.cfstat 5 5 (if more then 1 else 0) }).renewWatches)

/-! ### Corrected errors (R208, R438, R445) -/

/-- The field of `CECNT` that counts a place of a core: its high bit (R208). Tables that no field names, the event queue among them, count in the lowest
(notes/assumptions/145.md). -/
def ceField (a : Nat) : Nat :=
  if a / 2 ^ 60 = 3 then 63 else if a / 2 ^ 60 = 1 || (a / 2 ^ 60 = 9 && 2 ≤ a / 2 ^ 56 % 16) then 47 else if a / 2 ^ 60 = 10 then 31 else 15

/-- Change the line that a place of the L1 names, and the mask of its word there. -/
def Core.atLine (x : Core) (a : Nat) (f : Line → BitVec 64 → Line) : Core :=
  let i := a / 64 % 2 ^ 10
  match x.l1[i]? with
  | some l => { x with l1 := x.l1.set i (f l ((0xFF : BitVec 64) <<< (a % 64 / 8 * 8))) }
  | none => x

/-- Record `i` of a core's event queue is in error, or sound. -/
def Core.markRecord (x : Core) (i : Nat) (psn : Bool) : Core :=
  { x with evq := (x.evq.zip (List.range x.evq.length)).map fun r => if r.2 = i then { r.1 with psn } else r.1 }

/-- The word of a core's tables that a place names, from 2^63 + 2^60 on, is in error or sound: an actor table entry, a monitor, or a word of a channel's FIFO by
actor entry, channel, position and word (R181). -/
def State.markTable (s : State) (c a : Nat) (bad : Bool) : State :=
  let k := s.core c
  match a / 2 ^ 56 % 16 with
  | 0 => match s.actor c (a % 64) with
    | some x => s.setActor c (a % 64) { x with bad }
    | none => s
  | 1 => s.setCore c { k with monitors := (k.monitors.zip (List.range k.monitors.length)).map fun m => if m.2 = a % 64 then { m.1 with bad } else m.1 }
  | _ => s.modIn c (a / 2 ^ 20 % 64) (a / 2 ^ 16 % 4) fun i =>
      if i.fifo.length ≤ a / 16 % 2 ^ 12 then i
      else
        let e := (i.ord + a / 16 % 2 ^ 12) * 16 + a % 16
        { i with err := i.err.filter (· != e) ++ (if bad then [e] else []) }

/-- The word at a place is corrected in place (R208). -/
def State.correct (s : State) (c a : Nat) : State :=
  let s := { s with bad := s.bad.filter fun b => b / codeWord b != a / codeWord a }
  if a / 2 ^ 60 = 9 then s.markTable c a false
  else if a / 2 ^ 59 = 29 then s.setCore c ((s.core c).markRecord (a % 2 ^ 6) false)
  else if a / 2 ^ 59 = 20 then s.setCore c ((s.core c).atLine a fun l m => { l with err := l.err &&& ~~~m }) else s

/-- Mark word `i` of a link poisoned (R276). -/
def Core.poisonLink (x : Core) (d i : Nat) : Core :=
  match (x.fifo d)[i]? with
  | some w => { x with linkPsn := x.linkPsn ++ [(d, w.1)] }
  | none => x

/-- The mapping of a key-value stream whose frame holds a place (R369). -/
def State.kvFrame (s : State) (a : Nat) : Option Mapping :=
  (s.dies.flatMap (·.2.ipt)).find? fun m => !m.al && m.tier < 2 && m.place 0 ≤ a && a < m.place 0 + 32768 && (s.stream m.holder).any (·.kv)

/-- A word of a key-value frame's header has lost copy `k`, or a word of its payload its low fields (R369); elsewhere the word is in error. -/
def State.corruptPart (s : State) (a k : Nat) (low : Bool) : State :=
  let w := a / 8 * 8
  match s.kvFrame a with
  | none => { s with bad := s.bad ++ [w] }
  | some m =>
    if a < m.place 0 + 256 then
      (if low then { s with bad := s.bad ++ [w] }
       else if s.hdrErr.contains (w + (1 - k)) then { s with bad := s.bad ++ [w] }
       else { s with hdrErr := s.hdrErr ++ [w + k] })
    else if low then { s with lowErr := s.lowErr ++ [w] }
    else { s with bad := s.bad ++ [w] }

/-- The word at a place, or the register, is in uncorrectable error: who consumes it takes `POISON` (R208, R445). -/
def State.corrupt (s : State) (c a : Nat) : State :=
  if a / 2 ^ 60 = 12 then
    let k := a / 2 ^ 12 % 8
    match s.firing c k with
    | some f => s.setFiring c k { f with parity := f.parity ++ [(a / 2 ^ 8 % 16, a % 2 ^ 8)] }
    | none => s
  else if a / 2 ^ 60 = 9 then s.markTable c a true
  else if a / 2 ^ 60 = 13 then s.setCore c ((s.core c).poisonLink (a / 2 ^ 6 % 4) (a % 2 ^ 6))
  else if a / 2 ^ 59 = 29 then s.setCore c ((s.core c).markRecord (a % 2 ^ 6) true)
  else if a / 2 ^ 60 = 14 then
    let k := s.core c
    s.setCore c { k with server := { k.server with waiting := (k.server.waiting.zip (List.range k.server.waiting.length)).map fun w =>
      if w.2 = a % 2 ^ 6 then (w.1.1, true) else w.1 } }
  else if a / 2 ^ 60 = 15 then
    let d := s.die (dieOf c)
    s.setDie (dieOf c) { d with treeErr := d.treeErr ++ [(a / 2 ^ 32 % 8, a % 2 ^ 32)] }
  else if a / 2 ^ 59 = 20 then s.setCore c ((s.core c).atLine a fun l m => { l with err := l.err ||| m })
  else { s with bad := s.bad ++ [a] }

/-- Count a corrected error of a core. -/
def State.countCorrected (s : State) (c a : Nat) : State :=
  let x := s.core c
  let hi := ceField a
  (s.setCore c { x with cecnt := setFld x.cecnt hi (hi - 15) (satAdd (fld x.cecnt hi (hi - 15)) 1 65535) }).domainEvent c

/-- Slices' lines as `SCRUB` names them: from here on, die × 2^20 + slice × 2^14 + set × 16 + way; and L1s and accumulators of cores. -/
def lineBase : Nat := 11 * 2 ^ 60
def cacheBase : Nat := 10 * 2 ^ 60

/-- Cache ways of a set that are enabled: a slice has 12 ways, of which chip scratchpad takes the highest (R317, R438). -/
def Die.cacheWays (d : Die) (sl set : Nat) : Nat := ((List.range (12 - d.ways)).filter fun w => !d.lineOff.contains (sl * 2 ^ 14 + set * 16 + w)).length

/-- A slice is to retire at the next reset, for a set or a chip-scratchpad line of it: kind 2 (R438). -/
def State.slicePending (s : State) (die sl : Nat) : State :=
  let d := s.die die
  (s.setDie die { d with slpend := setFld d.slpend sl sl 1 }).relEvent die 2 sl

/-- A corrected error of a slice line (R438). -/
def State.lineCorrected (s : State) (die i : Nat) : State :=
  let sl := i / 2 ^ 14
  let set := i / 16 % 1024
  let way := i % 16
  let c := coreAt die (sl / 8 * 2) (sl % 8 * 2)
  let s := s.domainEvent c
  let d := s.die die
  if d.lineOff.contains i then s
  else
    let was := mgetD d.lineCount i 0
    let n := min 3 (was + 1)
    let s := s.setDie die { d with lineCount := mset d.lineCount i n }
    if n < d.ldthr.toNat then s
    else if 12 - d.ways ≤ way then (if was < d.ldthr.toNat || !bit d.slpend sl then s.slicePending die sl else s)
    else
      let d := { s.die die with
        lineCount := mdel (s.die die).lineCount i
        lineOff := (s.die die).lineOff ++ [i]
        relstat := setFld (s.die die).relstat 63 48 (satAdd (fld (s.die die).relstat 63 48) 1 65535) }
      let s := (s.setDie die d).relEvent die 1 (sl * 2 ^ 16 + set * 16 + way)
      if d.cacheWays sl set = 1 then s.slicePending die sl else s

/-- `SCRUB`: the word at place `a` of core `cur.core`, or the slice line it names, is read: `found` is 0 where it is sound, 1 where it holds a
single-bit error, which is corrected and counted, 2 where it is uncorrectable, which is not consumed, 3 where only the low fields of a key-value word are, 4 and 5 where one copy of a frame header's
word is (R208, R369, R445; notes/assumptions/120.md). -/
def execScrub (a found : Nat) (s : State) : Host.Outcome State Fault Refusal :=
  .next (if found = 0 then s
    else if lineBase ≤ a && a < 12 * 2 ^ 60 then
      let i := a - lineBase
      if found = 1 && i / 2 ^ 20 < 8 && i / 2 ^ 14 % 64 < 48 && i % 16 < 12 then s.lineCorrected (i / 2 ^ 20) (i % 2 ^ 20) else s
    else if found = 1 then (s.correct s.cur.core a).countCorrected s.cur.core a
    else if found = 3 then s.corruptPart a 0 true
    else if found = 4 then s.corruptPart a 0 false
    else if found = 5 then s.corruptPart a 1 false
    else s.corrupt s.cur.core a)

/-- `BITMAP_FLASH_WRITE`: firmware writes the retirement bits and the disabled lines of die `n` to flash (R439). -/
def execBitmapFlashWrite (s : State) : Host.Outcome State Fault Refusal :=
  let i := s.cur.n
  let d := s.die i
  .next { s with pkg := { s.pkg with
    masks := mset s.pkg.masks i (mgetD s.pkg.masks i 0 ||| d.slret ||| d.slpend)
    lineMaps := mset s.pkg.lineMaps i d.lineOff } }

/-! ### Domains (R446, R447): domain `k` of die `n` -/

/-- `DOMAIN_RAISE`. -/
def execDomainRaise (s : State) : Host.Outcome State Fault Refusal :=
  let i := s.cur.n
  let k := s.cur.k
  let d := s.die i
  .next (if h : k < 12 then
      if d.domCount[k] = 0 || d.domCount[k] < d.pfthr.toNat then s
      else
        let v := d.vdom[k]
        let d := { d with domCount := d.domCount.set k 0 }
        let step := fld v 7 0 + 1
        if fld v 7 0 < 20 then
          (s.setDie i { d with vdom := d.vdom.set k (setFld (setFld (setFld v 7 0 step) 15 8 step) 63 63 1) }).relEvent i 5 (step * 2 ^ 8 + k)
        else (s.setDie i { d with vdom := d.vdom.set k (setFld v 62 62 1) }).relEvent i 6 k
    else s)

/-- `DOMAIN_WINDOW_EXPIRY`: windows follow one another from reset on. -/
def execDomainWindowExpiry (s : State) : Host.Outcome State Fault Refusal :=
  let i := s.cur.n
  let k := s.cur.k
  let d := s.die i
  .next (if h : k < 12 then
      if s.clk < d.domOpen[k] + msClk then s else s.setDie i { d with domCount := d.domCount.set k 0, domOpen := d.domOpen.set k (s.clk / msClk * msClk) }
    else s)

/-! ### Power (R448): die `n` -/

/-- Whether a die is too hot, or the package over its cap: `tj` is in 1/16 °C. -/
def State.hot (s : State) (tj pwr : Nat) : Bool := 105 * 16 ≤ tj || fld s.pkg.plim 15 0 < pwr

/-- `THROTTLE_START`, at the temperature and the power measured. -/
def execThrottleStart (tj pwr : Nat) (s : State) : Host.Outcome State Fault Refusal :=
  let d := s.die s.cur.n
  .next (if s.hot tj pwr then s.setDie s.cur.n { d with therm := setFld d.therm 16 16 1, coolAt := none } else s)

/-- `THROTTLE_END`, at the temperature and the power measured: throttling ends once both conditions have been clear for 1 ms; the first measurement
that finds them clear begins that time. -/
def execThrottleEnd (tj pwr : Nat) (s : State) : Host.Outcome State Fault Refusal :=
  let d := s.die s.cur.n
  .next (if s.hot tj pwr then s.setDie s.cur.n { d with coolAt := none }
    else match d.coolAt with
      | none => s.setDie s.cur.n { d with coolAt := some s.clk }
      | some t => if s.clk < t + msClk then s else s.setDie s.cur.n { d with therm := setFld d.therm 16 16 0 })

/-- `POWER_REMOVAL`: at 115 °C on any die the module removes power, and all state is lost; the hottest die is at `n` sixteenths of a degree. -/
def execPowerRemoval (s : State) : Host.Outcome State Fault Refusal := .next (if 115 * 16 ≤ s.cur.n then s.cleared s.pkg.masks else s)

end Sys2Proof.Machine
end

