-- ==== Sys2Proof/Machine/VectorMem.lean ====
section
/-! DEFINITION. Vector memory, lane-private and bit-granular access, vector atomics and permutes: opcodes 0xA0 to 0xB3 (R174 to
R180). -/

namespace Sys2Proof.Machine

/-! ### The lanes' cores -/

/-- The core that holds a lane, and the task's place on it (R95, R252). -/
def Ctx.laneCore (x : Ctx) (i : Nat) : Nat := gangCore x.c x.f.gang (i / 32)
def Ctx.laneRes (x : Ctx) (s : State) (i : Nat) : Resident :=
  if i < 32 then x.res s
  else
    let t := (x.res s).task
    match (s.core (x.laneCore i)).tasks.find? fun r => r.2.task == t with
    | some r => r.2
    | none => x.res s

/-- The active lanes, in ascending order. -/
def Ctx.onLanes (x : Ctx) : List Nat := (List.range x.lanes).filter x.on

/-- Lane `i` of a source as a 32-bit number, and sign-extended to 64 bits. -/
def Ctx.lane (x : Ctx) (r : BitVec 6) (i : Nat) : Nat := elem (x.v r) 32 i
def Ctx.laneS (x : Ctx) (r : BitVec 6) (i : Nat) : Word := (BitVec.ofNat 32 (x.lane r i)).signExtend 64

/-! ### Accesses through handles (R174, R175) -/

/-- One lane's access: checked here; waiting at its home; answered `MOVED` by its stream's old home, and perhaps let through by the new one since;
or performed there. -/
inductive LaneAcc where
  | here (a : Acc)
  | held (a : Acc)
  | away (pkg sid key addr : Nat) (judged : Bool)
  | far

/-- The operation of an `RMEM` that only asks whether its access is let through: the lanes of a store or an atomic ask before any of
them is performed (R175; notes/assumptions/135.md). -/
def rmemAsks : Nat := 15

/-- The number under which a lane's access asks at another package before any lane is performed (R175; notes/assumptions/135.md). -/
def askTag (i : Nat) : Nat := 512 + i

/-- Whether lane `i` has asked there and is answered. -/
def Ctx.judged (x : Ctx) (i : Nat) : Bool := (mget x.f.replies (x.reqTag (askTag i))).isSome

/-- What another package has answered a lane, where it is no result. -/
def Ctx.laneBar (x : Ctx) (s : State) (i : Nat) (val : Word) : Option Body :=
  match mget x.f.replies (x.reqTag i), mget x.f.replies (x.reqTag (askTag i)) with
  | some r, _ => r.bar s val (i / 32)
  | none, some r => r.bar s val (i / 32)
  | none, none => if x.sent i then some (.wait s) else none

/-- Whether a checked read or atomic consumes an error. -/
def State.consumes (s : State) (a : Acc) (atHome : Bool) : Bool := if atHome then (s.dropOwn a).segsBad a.segs else (s.read a).isNone

/-- Check the lanes' accesses in ascending order; the first fault is the instruction's (R175): a lane that another package has yet to judge stands
before the fault of a later one. -/
def checkLanes (x : Ctx) (s : State) (hi n : Nat) (k : Kind) (atHome : Bool) (off : Nat → Nat) (is : List Nat) :
    Except Body (State × List (Nat × LaneAcc)) :=
  match is with
  | [] => .ok (s, [])
  | i :: t =>
    let r := x.laneRes s i
    let next (s : State) (a : LaneAcc) : Except Body (State × List (Nat × LaneAcc)) :=
      match checkLanes x s hi n k atHome off t, a with
      | .ok (s, as), _ => .ok (s, (i, a) :: as)
      | .error _, .away _ _ _ _ false => .ok (s, [(i, a)])
      | .error b, _ => .error b
    if let some b := x.laneBar s i (handleVal hi (off i)) then .error b
    else if x.sent i then next s .far
    else match x.access s r (x.laneCore i) hi (off i) n n k spAll atHome x.w.ch.toNat i with
      | .error (.moved p g) => let a := x.movedAt r hi (off i) i
        next s (.away p g a.1 a.2 (x.judged i))
      | .error (.held s a) => next s (.held a)
      | .error e => .error (barBody s hi (off i) (i / 32) e)
      | .ok (s, a) =>
        if k.reads && x.held s a then .error (.wait s)
        else if k.reads && s.consumes a atHome then .error (.trap 0x16 (handleVal hi (off i)) (i / 32))
        else next s (.here a)

/-- The accesses of lanes that are performed here. -/
def LaneAcc.acc (a : LaneAcc) : Option Acc :=
  match a with
  | .here a => some a
  | .held a => some a
  | _ => none

/-- Send the far lanes' accesses in ascending order (R465): a load goes at once, a store or an atomic asks first, until all have been judged. -/
def askLanes (x : Ctx) (s : State) (op : Nat) (val : Nat → Word) (data : Nat → List Byte) (as : List (Nat × LaneAcc)) : State :=
  as.foldl (fun s p => match p.2 with
    | .away pkg sid key addr false =>
      if op = 0x40 then s.sendRemote x p.1 pkg sid op key addr (val p.1) (data p.1)
      else s.sendRemote x (askTag p.1) pkg sid rmemAsks key addr (wd x.width) (if op = 0x41 then [] else [1])
    | _ => s) s

/-- Send the accesses that were let through. -/
def sendLane (x : Ctx) (op : Nat) (val : Nat → Word) (data : Nat → List Byte) (s : State) (p : Nat × LaneAcc) : State :=
  match p.2 with
  | .away pkg sid key addr true => s.sendThere x p.1 pkg sid op key addr (val p.1) (data p.1)
  | _ => s

/-- Whether a lane waits at its home; is still to be judged elsewhere; has been let through there. -/
def LaneAcc.isHeld (a : LaneAcc) : Bool := match a with
  | .held _ => true
  | _ => false
def LaneAcc.isAway (judged : Bool) (a : LaneAcc) : Bool := match a with
  | .away _ _ _ _ j => j == judged
  | _ => false

/-- Go on once every lane's home accepts it: none waits there (R175, R346), and none is still to be judged by another package (R465). -/
def onceJudged (x : Ctx) (s : State) (op : Nat) (val : Nat → Word) (data : Nat → List Byte) (as : List (Nat × LaneAcc)) (go : Body) : Body :=
  if as.any fun p => p.2.isHeld then .held s (as.filterMap fun p => p.2.acc.map fun a => (p.1, a))
  else if as.any fun p => p.2.isAway false then .wait (askLanes x s op val data as)
  else go

/-- Go on once every far lane is answered; `rep` gives a far lane's answer. -/
def withReplies (x : Ctx) (s : State) (op : Nat) (val : Nat → Word) (data : Nat → List Byte) (as : List (Nat × LaneAcc))
    (go : State → (Nat → List Byte) → Body) : Body :=
  onceJudged x s op val data as
    (if as.any fun p => p.2.isAway true then .wait (as.foldl (sendLane x op val data) s)
    else go s fun i => ((mget x.f.replies (x.reqTag i)).getD {}).bytes)

/-- Read the lanes in order: each lane's bytes, or the lane that consumes an error. -/
def readLanes (s : State) (rep : Nat → List Byte) (as : List (Nat × LaneAcc)) : Except Nat (State × SMap (List Byte)) :=
  match as with
  | [] => .ok (s, [])
  | (i, a) :: t =>
    let here : Option (State × List Byte) := match a with
      | .here a => s.read a
      | _ => some (s, rep i)
    match here with
    | none => .error i
    | some (s, bs) => match readLanes s rep t with
      | .ok (s, m) => .ok (s, (i, bs) :: m)
      | .error j => .error j

/-- Write the lanes in order: a higher lane's value remains (R175). -/
def writeLanes (s : State) (data : Nat → List Byte) (as : List (Nat × LaneAcc)) : State :=
  match as with
  | [] => s
  | (i, .here a) :: t => writeLanes (s.write a (data i)) data t
  | _ :: t => writeLanes s data t

/-- A vector load with lane `i` at offset `off i`. -/
def vload (x : Ctx) (s : State) (off : Nat → Nat) : Body :=
  let hi := hidx x.w.imm
  let n := x.width
  match checkLanes x s hi n .load false off x.onLanes with
  | .error b => b
  | .ok (s, as) => withReplies x s 0x40 (fun _ => wd n) (fun _ => []) as fun s rep =>
    match readLanes s rep as with
    | .error i => .trap 0x16 (handleVal hi (off i)) (i / 32)
    | .ok (s, m) => .ok { s, writes := x.vec 32 fun i => wrapInt 32 (readInt (!x.sgn) (8 * n) (ofLe (mgetD m i []))) }

/-- A vector store of `v[r]` with lane `i` at offset `off i`. -/
def vstore (x : Ctx) (s : State) (r : BitVec 6) (off : Nat → Nat) : Body :=
  let hi := hidx x.w.imm
  let n := x.width
  let data (i : Nat) : List Byte := leBytes n (x.lane r i)
  match checkLanes x s hi n .store false off x.onLanes with
  | .error b => b
  | .ok (s, as) => withReplies x s 0x41 (fun _ => 0) data as fun s _ => .ok { s := writeLanes s data as }

/-- The lanes' offsets: consecutive, strided and indexed (R174). -/
def Ctx.seqOff (x : Ctx) (i : Nat) : Nat := (wd x.off + wd (i * x.width)).toNat
def Ctx.strideOff (x : Ctx) (st : Word) (i : Nat) : Nat := (wd x.off + wd i * st).toNat
def Ctx.idxOff (x : Ctx) (i : Nat) : Nat := (wd x.off + x.laneS x.w.b i).toNat

/-! ### Lane slices and bit addresses (R176, R177) -/

/-- `TRAPVAL` in the bit-address form (R100). -/
def bitVal (ba : BitVec 40) : Word := (BitVec.allOnes 24 ++ ba : BitVec 64)

/-- `VLDL` and `VSTL`: the checks, then the place of lane `i` (R176); a load consumes what it reads (R208). -/
def laneCheck (x : Ctx) (s : State) (reads : Bool) (go : (Nat → Nat) → Body) : Body :=
  let b := (x.g x.w.a + (x.w.imm.extractLsb' 8 24).signExtend 64).toNat
  let n := x.width
  let m := x.onLanes.headD 0 / 32
  let val := bitVal (BitVec.ofNat 40 (b * 8 % 2 ^ 25))
  if x.onLanes.isEmpty then go fun _ => 0
  else if (x.res s).slSize < b + n then .trap 0x10 val m
  else if b % n != 0 then .trap 0x15 val m
  else
    let at_ (i : Nat) : Nat := Loc.slice (x.laneCore i) (i % 32) ((x.laneRes s i).slBase + b)
    match x.onLanes.find? fun i => reads && s.isBad (at_ i) n with
    | some i => .trap 0x16 val (i / 32)
    | none => go at_

def vldlBody (x : Ctx) (s : State) : Body :=
  laneCheck x s true fun at_ =>
    let n := x.width
    let y (i : Nat) : Nat := if x.on i then wrapInt 32 (readInt (!x.sgn) (8 * n) (ofLe (memRead s.mem (at_ i) n))) else 0
    .ok { s, writes := x.vec 32 y }

def vstlBody (x : Ctx) (s : State) : Body :=
  laneCheck x s false fun at_ =>
    .ok { s := x.onLanes.foldl (fun s i => s.homeWrite 0 (at_ i) (leBytes x.width (x.lane x.w.b i))) s }

/-- The place of byte `a` of a bit-address space for a lane (R96); `none` outside the range. A lane has its own slice; all lanes share the
firing's scratchpad, and the window (R177). -/
def bitPlace (x : Ctx) (s : State) (sp i a : Nat) : Option Nat :=
  let r := x.laneRes s i
  let q := x.res s
  match sp with
  | 0 => if a < r.slSize then some (Loc.slice (x.laneCore i) (i % 32) (r.slBase + a)) else none
  | 1 => if a < q.spSize then some (Loc.sp x.c (q.spBase + a)) else none
  | 2 => if a < 2 ^ 22 then s.windowByte x.c q a else none
  | _ => none

/-- The places of the bytes from `a` on. -/
def bitPlaces (x : Ctx) (s : State) (sp i a n : Nat) : Option (List Nat) :=
  match n with
  | 0 => some []
  | k + 1 =>
    match bitPlace x s sp i a, bitPlaces x s sp i (a + 1) k with
    | some p, some ps => some (p :: ps)
    | _, _ => none

/-- The first bit of lane `i`'s element, and the places of its bytes (R177). -/
def bitLane (x : Ctx) (s : State) (i : Nat) : Option (Nat × List Nat) :=
  let ba := x.ba x.w.a
  let w := x.w.b.toNat + 1
  let o := (ba.extractLsb' 0 25).toNat + i * fld x.w.imm 15 0
  if ba.extractLsb' 25 13 != 0 then none
  else (bitPlaces x s (ba.extractLsb' 38 2).toNat i (o / 8) ((o % 8 + w + 7) / 8)).map fun ps => (o % 8, ps)

/-- Check every active lane in ascending order, then go on (R177); a load waits for a `MON` of a line that it reads (R147). -/
def bitLanes (x : Ctx) (s : State) (load : Bool) (go : (Nat → Nat × List Nat) → Body) : Body :=
  let val := bitVal (x.ba x.w.a)
  let bad (i : Nat) : Option Nat := match bitLane x s i with
    | none => some 0x10
    | some b => if b.2.any fun p => s.isBad p 1 then some 0x16 else none
  match x.onLanes.find? fun i => (bad i).isSome with
  | some i => .trap ((bad i).getD 0) val (i / 32)
  | none =>
    let at_ (i : Nat) := (bitLane x s i).getD (0, [])
    if load && (s.core x.c).monPending x.k (x.onLanes.flatMap fun i => (at_ i).2.map (· / 64)) then .wait s else go at_

/-- The number whose bytes stand at places. -/
def State.atPlaces (s : State) (ps : List Nat) : Nat := ofLe (ps.map fun p => memGet s.mem p)

/-- Write bytes at places. -/
def State.putPlaces (s : State) (ps : List Nat) (v : Nat) : State :=
  match ps with
  | [] => s
  | p :: t => (s.homeWrite 0 p [BitVec.ofNat 8 v]).putPlaces t (v / 256)

def vldbBody (x : Ctx) (s : State) : Body :=
  let w := x.w.b.toNat + 1
  bitLanes x s true fun at_ =>
    let y (i : Nat) : Nat := if x.on i then wrapInt 32 (readInt (!x.sgn) w (bitsAt (s.atPlaces (at_ i).2) (at_ i).1 w)) else 0
    .ok { s, writes := x.vec 32 y }

def vstbBody (x : Ctx) (s : State) : Body :=
  let w := x.w.b.toNat + 1
  bitLanes x s false fun at_ =>
    let put (s : State) (i : Nat) : State :=
      let (o, ps) := at_ i
      s.putPlaces ps (bitsSet (s.atPlaces ps) o w (x.lane x.w.c i))
    .ok { s := x.onLanes.foldl put s }

/-- The body of a load that may wait at its home after it has issued (R405). -/
def loadBody (x : Ctx) (s : State) : Body :=
  match x.op with
  | 0x40 => ldBody x s
  | 0x42 => ldpBody x s
  | 0xA0 => vload x s x.seqOff
  | 0xA2 => vload x s (x.strideOff (x.g x.w.b))
  | _ => vload x s x.idxOff

/-! ### Bit-address registers (R178) -/

/-- `BAADD`. -/
def baadd (a : BitVec 40) (b : Word) : BitVec 40 := a.extractLsb' 25 15 ++ (a.extractLsb' 0 25 + b.extractLsb' 0 25)

/-! ### Vector atomics (R179) -/

/-- Note an old value that a lane's atomic has returned, for the time when all have. -/
def State.keepReply (s : State) (x : Ctx) (tag : Nat) (old : Nat) : State :=
  match s.firing x.c x.k with
  | none => s
  | some f => s.setFiring x.c x.k { f with asked := tag :: f.asked, replies := mset f.replies tag { bytes := leBytes 8 old } }

/-- Send home what the routers hold of the instruction at an address: a later lane follows it (R179). -/
def State.flushRoute (s : State) (x : Ctx) (a : Acc) : State :=
  let ms := (s.die (dieOf x.c)).merges
  (List.range ms.length).foldl (fun s i => match (s.die (dieOf x.c)).merges[i]? with
    | some m => if m.home == a.place && m.parts.any fun p => p.core == x.c && p.slot == x.k then s.sendMerge (dieOf x.c) i else s
    | none => s) s

/-- One lane's atomic: into the buffer of its router while `buffered` (R274), or performed at its home; the lane that consumes an error. -/
def amoLane (x : Ctx) (operand : Nat → Nat) (buffered meets : Bool) (s : State) (i : Nat) (a : Acc) : Except Nat State :=
  let op := x.w.c.toNat
  let q := x.request s a i op (wd (operand i))
  if op != 6 && a.far && buffered && routerRoom (s.die (dieOf x.c)).merges q x.c then .ok (s.route x a q meets)
  else
    let s := s.flushRoute x a
    match s.rmw a (rmwOp 0x45 op (!x.sgn) 32 (operand i) 0) with
    | some (s, old, _) => .ok (s.keepReply x (routeTag s.clk i) old)
    | none => .error i

/-- Perform the lanes' atomics in ascending order, or send them: the lane that consumes an error. -/
def amoLanes (x : Ctx) (operand : Nat → Nat) (buffered meets : Bool) (send : State → Nat × LaneAcc → State) (s : State) (as : List (Nat × LaneAcc)) :
    Except Nat State :=
  match as with
  | [] => .ok s
  | (i, a) :: t =>
    match (match a with
      | .here a => amoLane x operand buffered meets s i a
      | _ => .ok (send s (i, a))) with
    | .ok s => amoLanes x operand buffered meets send s t
    | .error j => .error j

/-- The answer to a lane's atomic: of its home here, of its router, or of another package. -/
def Ctx.laneReply (x : Ctx) (f : Firing) (i : Nat) : Option Reply :=
  match f.asked.find? fun t => 2 ^ 20 ≤ t && t % 1024 == i with
  | some t => mget f.replies t
  | none => mget f.replies (x.reqTag i)

/-- The old values, once every lane is answered; the lowest lane that was refused raises its trap. -/
def vamoEnd (x : Ctx) (s : State) (f : Firing) (hi : Nat) : Body :=
  if x.onLanes.any fun i => (x.laneReply f i).isNone then .wait s
  else match x.onLanes.findSome? fun i => ((x.laneReply f i).getD {}).bar s (handleVal hi (x.idxOff i)) (i / 32) with
    | some b => b
    | none => .ok { s, writes := x.vec 32 fun i => if x.on i then ofLe (((x.laneReply f i).getD {}).bytes.take 8) else 0 }

def vamoBody (x : Ctx) (s : State) : Body :=
  let hi := hidx x.w.imm
  let op := x.w.c.toNat
  let k : Kind := if op = 6 then .rmw else .accum
  let operand (i : Nat) : Nat := x.lane x.w.d i
  let val (i : Nat) : Word := wd (operand i)
  let data (_ : Nat) : List Byte := leBytes 8 0 ++ [4, BitVec.ofNat 8 op, if x.sgn then 1 else 0]
  if x.onLanes.any fun i => x.sent i || (x.routedLane i).isSome then vamoEnd x s x.f hi
  else if releasesSys x.op x.w && s.addsPending (x.res s).task then .wait s
  else match checkLanes x s hi 4 k true x.idxOff x.onLanes with
  | .error b => b
  | .ok (s, as) =>
    onceJudged x s 0x45 val data as
      (let (fv, s) := s.free
      match amoLanes x operand (fv % 2 == 1) (fv / 2 % 2 == 1) (sendLane x 0x45 val data) s as with
      | .error i => .trap 0x16 (handleVal hi (x.idxOff i)) (i / 32)
      | .ok s => vamoEnd x s ((s.firing x.c x.k).getD x.f) hi)

/-! ### Permutes (R180) -/

def Ctx.ae (x : Ctx) (e : Nat) : Nat := elem (x.v x.w.a) x.ew e
def Ctx.be (x : Ctx) (e : Nat) : Nat := elem (x.v x.w.b) x.ew e

/-- `VZIP` and `VUZP`. -/
def vzip (x : Ctx) (e : Nat) : Nat :=
  let j := e / 2 + x.w.c.toNat * (x.count x.ew / 2)
  if e % 2 = 0 then x.ae j else x.be j
def vuzp (x : Ctx) (e : Nat) : Nat :=
  let h := x.count x.ew / 2
  if e < h then x.ae (2 * e + x.w.c.toNat) else x.be (2 * (e - h) + x.w.c.toNat)

/-- The lanes set in `k[B]`. -/
def Ctx.kLanes (x : Ctx) : List Nat := (List.range x.lanes).filter fun i => (x.km x.w.b).getLsbD i

/-- `VCOMP` and `VEXPD`. -/
def vcompRes (x : Ctx) : List RegWrite :=
  [.v x.w.d.toNat (packV 32 (x.kLanes.map fun i => x.lane x.w.a i)) x.fullMask]

/-- Elements from `j` on spread over the lanes set. -/
def spread (x : Ctx) (j : Nat) (is : List Nat) : List Nat :=
  match is with
  | [] => []
  | i :: t => if (x.km x.w.b).getLsbD i then x.lane x.w.a j :: spread x (j + 1) t else 0 :: spread x j t

def vexpdRes (x : Ctx) : List RegWrite :=
  [.v x.w.d.toNat (packV 32 (spread x 0 (List.range x.lanes)))
    (packV 32 ((List.range x.lanes).map fun i => if (x.km x.w.b).getLsbD i then 0xFFFFFFFF else 0))]

/-! ### The instructions -/

def execVld (w : Tolog) (s : State) := issue 0xA0 w s fun x s => vload x s x.seqOff
def execVst (w : Tolog) (s : State) := issue 0xA1 w s fun x s => vstore x s w.b x.seqOff
def execVlds (w : Tolog) (s : State) := issue 0xA2 w s fun x s => vload x s (x.strideOff (x.g w.b))
def execVsts (w : Tolog) (s : State) := issue 0xA3 w s fun x s => vstore x s w.b (x.strideOff (x.g w.c))
def execVgath (w : Tolog) (s : State) := issue 0xA4 w s fun x s => vload x s x.idxOff
def execVscat (w : Tolog) (s : State) := issue 0xA5 w s fun x s => vstore x s w.c x.idxOff
def execVldb (w : Tolog) (s : State) := issue 0xA6 w s vldbBody
def execVstb (w : Tolog) (s : State) := issue 0xA7 w s vstbBody
def execVldl (w : Tolog) (s : State) := issue 0xA8 w s vldlBody
def execVstl (w : Tolog) (s : State) := issue 0xA9 w s vstlBody
def execVperm (w : Tolog) (s : State) := issue 0xAA w s (pureBody fun x => x.vec x.ew fun e => x.ae (x.be e % x.count x.ew))
def execVrot (w : Tolog) (s : State) := issue 0xAB w s (pureBody fun x => x.vec x.ew fun e => x.ae ((e + (x.g w.b).toNat) % x.count x.ew))
def execVzip (w : Tolog) (s : State) := issue 0xAC w s (pureBody fun x => x.vec x.ew (vzip x))
def execVuzp (w : Tolog) (s : State) := issue 0xAD w s (pureBody fun x => x.vec x.ew (vuzp x))
def execVbcast (w : Tolog) (s : State) := issue 0xAE w s (pureBody fun x => x.vec x.ew fun _ =>
  if x.m3 then x.ae ((x.g w.b).toNat % x.count x.ew) else (x.g w.a).toNat % 2 ^ x.ew)
def execVcomp (w : Tolog) (s : State) := issue 0xAF w s (pureBody vcompRes)
def execVexpd (w : Tolog) (s : State) := issue 0xB0 w s (pureBody vexpdRes)
def execVamo (w : Tolog) (s : State) := issue 0xB1 w s vamoBody
def execBamov (w : Tolog) (s : State) := issue 0xB2 w s (pureBody fun x =>
  [.ba w.d.toNat (if w.len = 0 then (x.g w.a).truncate 40
    else BitVec.ofNat 40 (fld w.imm 31 30 * 2 ^ 38 + fld w.imm 24 0))])
def execBamovRd (w : Tolog) (s : State) := issue 0xB2 w s (pureBody fun x => [.g w.d ((x.ba w.a).zeroExtend 64)])
def execBaadd (w : Tolog) (s : State) := issue 0xB3 w s (pureBody fun x =>
  [.ba w.d.toNat (baadd (x.ba w.a) (if w.len = 0 then x.g w.b else sext32 w.imm))])

end Sys2Proof.Machine
end

