-- ==== Sys2Proof/Machine/Fabric.lean ====
section
/-! DEFINITION. Packets that act on this package (R454, R455, R458, R459, R465), their answers, and the links (R456, R457, R468). -/

namespace Sys2Proof.Machine

/-! ### Messages, sums, counters, wakes -/

/-- Whether the column's boundary routers drop what comes from outside to a core of the column, and answer negatively (R431). -/
def State.fabWalled (s : State) (c : Nat) (message : Bool) : Bool := s.inColumn c && !(message && bit (s.die 0).fwin 1)

/-- A message enters its channel (R455). -/
def State.fabMessage (s : State) (p : Packet) : FabOut :=
  let c := coreAt p.die p.y p.x
  if (s.core c).fenced then .nack p.die
  else if s.fabWalled c true then .bounce
  else if ((s.task p.task).map (·.state)) != some .running then .bounce
  else match s.actorTarget p.task c p.actor p.chan with
    | none => .bounce
    | some (c, e) =>
      let m : OutMsg := .actor p.task c e p.chan (entryOf p.data)
      if s.accepts m then .done ((s.deliverMsg m).ack p) else .wait

/-- `FAB_MSG`. -/
def execFabMsg (p : Packet) (s : State) : Host.Outcome State Fault Refusal := fabStep 1 none State.fabMessage p s

/-- A partial sum waits at its server (R459). -/
def State.fabSum (s : State) (p : Packet) : FabOut :=
  let c := coreAt p.die p.y p.x
  let m : OutMsg := .partialSum c (entryOf p.data) p.psn
  if (s.core c).fenced then .nack p.die
  else if s.fabWalled c false then .bounce
  else if s.accepts m then .done ((s.deliverMsg m).ack p) else .wait

/-- `FAB_RED`. -/
def execFabRed (p : Packet) (s : State) : Host.Outcome State Fault Refusal := fabStep 2 none State.fabSum p s

/-- An add at a counter's home; a saturation sends its record back (R458). -/
def State.fabAdd (s : State) (p : Packet) : FabOut :=
  if !s.fabKey p.key || p.addr % 8 != 0 then .bounce
  else match s.xlateDie (homeSlice p.addr).1 (fld (mgetD s.pkg.fabin p.key 0) 9 0) p.addr true with
    | .error _ => .bounce
    | .ok pa =>
      let h := homeSlice p.addr
      if s.sliceFenced h.1 h.2 then .nack h.1
      else if s.isBad (Loc.phys pa) 8 then .bounce
      else
        let (s, sat) := s.counterAdd p.key (Loc.phys pa) (wd p.val)
        let r := overflowRecord p.srcTask p.addr (wd p.val)
        .done (s.ack p fun q => if sat then { q with words := [r.w0, r.w1, r.w2, r.w3] } else q)

/-- `FAB_CTR`. -/
def execFabCtr (p : Packet) (s : State) : Host.Outcome State Fault Refusal := fabStep 3 none State.fabAdd p s

/-- A wake write by park index (R454). -/
def State.fabWakeWrite (s : State) (p : Packet) : FabOut :=
  match mget s.pkg.parks p.pidx with
  | none => .bounce
  | some r =>
    if r.key != p.key || !s.fabKey p.key then .bounce
    else
      let h := homeSlice r.wake
      if r.wake != 0 && s.sliceFenced h.1 h.2 then .nack h.1
      else .done ((s.aliasWrite p.pidx p.data).ack p)

/-- `FAB_WAKE`. -/
def execFabWake (p : Packet) (s : State) : Host.Outcome State Fault Refusal := fabStep 4 none State.fabWakeWrite p s

/-! ### Replayed accesses (R465) -/

/-- The bytes of the operation of an `RMEM`: `n` and the fields of `AMO`. -/
def rmemN (p : Packet) : Nat := (p.data.getD 8 1).toNat
def rmemOp (p : Packet) : Nat := (p.data.getD 9 0).toNat
def rmemSigned (p : Packet) : Bool := (p.data.getD 10 0) != 0

/-- Perform a replayed access at its places: `OP` is the low four bits of the opcode, 0 a load, 1 a store, else an atomic
(notes/assumptions/48.md); `none` where it consumes an error. -/
def State.replay (s : State) (p : Packet) (a : Acc) : Option (State × List Byte) :=
  match p.op with
  | 0 => s.read a
  | 1 => some (s.write a p.data, [])
  | op =>
    let n := (rmemN p)
    (s.rmw a (rmwOp (0x40 + op) (rmemOp p) (!(rmemSigned p)) (8 * n) (p.val % 2 ^ (8 * n)) (ofLe (p.data.take 8)))).map fun r =>
      (r.1, leBytes 8 r.2.1 ++ [if r.2.2 then 1 else 0])

/-- What the access of an `RMEM` does at its home, and its bytes. -/
def rmemKind (p : Packet) : Kind := if p.op = 0 then .load else if p.op = 1 || (p.op = rmemAsks && p.data.isEmpty) then .store else .rmw
def rmemBytes (p : Packet) : Nat := if p.op = 0 || p.op = rmemAsks then p.val else if p.op = 1 then p.data.length else (rmemN p)

/-- A replayed access in stream `sid`: its result goes back; a stream that has moved on answers `MOVED`; a fenced home answers negatively (R443, R468). -/
def State.fabAccess (s : State) (p : Packet) : FabOut :=
  let n := rmemBytes p
  let k := rmemKind p
  let lost (die : Nat) : FabOut := .done ((s.countNack die).fabSend { s.answerOf p 3 with x := 1 })
  let result (s : State) (r : Reply) : State := s.fabSend { s.answerOf p 3 with y := r.cause, data := r.bytes }
  let good := match s.stream p.sid with
    | some e => e.key == p.key
    | none => true
  if !s.fabKey p.key || !good then .bounce
  else match s.strmSegs p.sid k (pieces (n / 32768 + 2) p.addr n 32768) with
    | .error (.trap c) => .done (result s { cause := c })
    | .error (.hold _) => .wait
    | .error (.held _ _) => .wait
    | .error (.nack die) => lost die
    | .error (.moved k g) => .done (s.fabSend { s.answerOf p 4 with x := k, words := [wd g] })
    | .ok (t, xs) =>
      let a : Acc := { core := 0, space := spStrm, ctx := 0, key := p.key, addr := p.addr, n, segs := xs, cached := false }
      match s.fencedHome a k with
      | some die => lost die
      | none => match (if p.op = rmemAsks then (if k.reads && t.segsBad xs then none else some (t, [])) else t.replay p a) with
        | some (t, bs) => .done (t.fabSend { t.answerOf p 3 with data := bs })
        | none => .done (result s { cause := 0x16 })

/-- `RMEM`. -/
def execRmem (p : Packet) (s : State) : Host.Outcome State Fault Refusal := fabStep 6 none State.fabAccess p s

/-- Give an answer to the access that waits for it: of a firing, of a copy engine's entry, or of a router's record. -/
def State.giveReply (s : State) (q : Packet) (r : Reply) : State :=
  if q.srcSlot < 8 && 1024 ≤ q.block then
    match s.load q.srcCore (q.block / 1024) with
    | some x => if x.f.asked.contains q.block then s.setHolder x { x.f with replies := mset x.f.replies q.block r } else s
    | none => s
  else if q.srcSlot < 8 then
    match s.firing q.srcCore q.srcSlot with
    | some f => if f.asked.contains q.block then s.setFiring q.srcCore q.srcSlot { f with replies := mset f.replies q.block r } else s
    | none => s
  else if q.srcSlot < 16 then
    let x := s.chain q.srcCore (q.srcSlot - 8) false
    match x.tag q.pidx with
    | some t => if t.asked.contains q.block then s.setChain q.srcCore (q.srcSlot - 8) false (x.put { t with replies := mset t.replies q.block r }) else s
    | none => s
  else
    match s.mergeOf q with
    | some (m, i) =>
      if r.lost then (s.answerParts (m.parts.map fun p => (p, r))).setMerge q.srcCore i none
      else if r.cause = 0 then s.setMerge q.srcCore i (some { m with old := some (ofLe (r.bytes.take 8)) }) else s.failMerge q.srcCore i m r.cause
    | none => s

/-- `MOVED`: the access goes on to the stream's new place. -/
def execMoved (p : Packet) (s : State) : Host.Outcome State Fault Refusal :=
  fabStep 7 (some 4) (fun s q => match s.settle q with
    | none => .done s
    | some (o, s) =>
      let r : Packet := { o with dpkg := q.x, x := 0, words := [], spkg := s.pkgId, part := s.fabPart, chan := 0, task := 0, sid := (q.words.headD 0).toNat }
      .done ((s.fabSend r).fabCount 31 16)) p s

/-- `RSP_BOUNCE`; in a package that answers itself the bounce is counted once. -/
def execRspBounce (p : Packet) (s : State) : Host.Outcome State Fault Refusal :=
  fabStep 7 (some 2) (fun s q => match s.settle q with
    | none => .done s
    | some (o, s) => .done ((if q.spkg = s.pkgId then s else s.fabCount 63 48).bounced o)) p s

/-- `FAB_TIMEOUT`: packet `n` on its way has not reached its destination in time, and is bounced here (R455, R456). `SXFIN` is repeated (R463);
an answer, and a packet that only passes through, is dropped. -/
def execFabTimeout (s : State) : Host.Outcome State Fault Refusal :=
  .next (match s.pkg.fabOut[s.cur.n]? with
    | none => s
    | some f =>
      if s.clk < f.clk + s.tmoClk || (f.p.dpkg == s.pkgId && (s.fabOn || f.p.spkg != s.pkgId)) then s
      else
        let t := { s with pkg := { s.pkg with fabOut := s.pkg.fabOut.eraseIdx s.cur.n } }
        if f.p.cls = 7 || f.p.spkg != s.pkgId then t
        else if f.p.cls = 5 && f.p.op = 7 then t.bounced f.p
        else (t.fabCount 63 48).bounced f.p)

/-! ### Links (R456, R457, R467) -/

/-- Set the state of a port, and count the ports that are down. -/
def State.setPort (s : State) (n : Nat) (state : Nat) (downs : List Nat) : State :=
  { s with pkg := { s.pkg with
      fablnk := Vector.ofFn fun (i : Fin 64) => if i.val = n then setFld s.pkg.fablnk[i] 1 0 state else s.pkg.fablnk[i]
      portsDown := downs
      fabstat := setFld s.pkg.fabstat 6 0 downs.length } }

/-- Send the packets that have no port (R456). -/
def State.relaunch (s : State) : State :=
  let (fs, p) := s.pkg.launchAll s.pkg.fabOut
  { s with pkg := { p with fabOut := fs } }

/-- A port goes down, and what it has not had acknowledged goes by the other ports of its direction. -/
def State.portFails (s : State) (n : Nat) : State :=
  let s := s.setPort n 0 (s.pkg.portsDown ++ [n])
  ({ s with pkg := { s.pkg with
      linkFails := mdel s.pkg.linkFails n
      fabOut := s.pkg.fabOut.map fun (f : Flight) => if f.port == some n then { f with port := none } else f } }).relaunch

/-- `FRAME_RESEND`: on port `n`; `k` = 1 says that the failure follows another with no frame accepted between. After 8 consecutive failures the port
goes down (R456). -/
def execFrameResend (s : State) : Host.Outcome State Fault Refusal :=
  let n := s.cur.n
  .next (if !s.pkg.portUp n then s
    else
      let s := s.fabCount 47 32
      let fails := if s.cur.k = 1 then mgetD s.pkg.linkFails n 0 + 1 else 1
      let s := { s with pkg := { s.pkg.sendFrames n 1 with
          linkFails := mset s.pkg.linkFails n fails
          fablnk := Vector.ofFn fun (i : Fin 64) => let v := s.pkg.fablnk[i]
            if i.val = n then setFld v 63 32 (satAdd (fld v 63 32) 1 (2 ^ 32 - 1)) else v } }
      if 8 ≤ fails then s.portFails n else s)

/-- `PORT_DOWN`: port `n` goes down. -/
def execPortDown (s : State) : Host.Outcome State Fault Refusal :=
  .next (if 64 ≤ s.cur.n || s.pkg.portsDown.contains s.cur.n then s else s.portFails s.cur.n)

/-- Whether a port's dimension has more than one package: others stay untrained (R450). -/
def State.trains (s : State) (n : Nat) : Bool := n < 64 && 1 < torusSize s.pkg.fabid (n / 8 / 2)

/-- A key exchange on a port: a new key, and its frame counter starts anew (R457). -/
def State.newLinkKey (s : State) (n : Nat) : State :=
  { s with pkg := { s.pkg with linkKeys := mset s.pkg.linkKeys n (mgetD s.pkg.linkKeys n 0 + 1), linkFrames := mset s.pkg.linkFrames n 0 } }

/-- `LINK_TRAINING`: of port `n`, which begins for `k` = 2, comes up for 1, and stays down where its key exchange fails. -/
def execLinkTraining (s : State) : Host.Outcome State Fault Refusal :=
  let n := s.cur.n
  let downs := s.pkg.portsDown
  .next (if !s.trains n || s.pkg.portUp n then s
    else match s.cur.k with
      | 0 => s.setPort n 0 downs
      | 1 => ((s.setPort n 2 (downs.filter (· != n))).newLinkKey n).relaunch
      | _ => s.setPort n 1 downs)

/-- `LINK_KEY_RENEWAL`: on port `n`. -/
def execLinkKeyRenewal (s : State) : Host.Outcome State Fault Refusal := .next (if s.pkg.portUp s.cur.n then s.newLinkKey s.cur.n else s)

end Sys2Proof.Machine
end

