-- ==== Sys2Proof/Machine/FiringSteps.lean ====
section
/-! DEFINITION. The steps of firings: starting one (R76 to R80, R88, R89, R92, R312), delivering a scoreboarded result (R25) and
the end of a `YIELD` (R116). -/

namespace Sys2Proof.Machine

/-! ### Starting a firing -/

/-- The number of slots that a resident task occupies on a core. -/
def Core.occupied (x : Core) (rti : Nat) : Nat :=
  x.slots.foldl (fun n f => match f with
    | some f => if f.rti == rti then n + 1 else n
    | none => n) 0

/-- The lowest free slot that a firing of a task may take (R88, R268, R283). -/
def Core.freeSlot (x : Core) (r : Resident) (rti : Nat) : Option Nat :=
  if r.slots ≤ x.occupied rti then none
  else (List.range (if x.pins then 7 else 8)).find? fun k => if h : k < 8 then x.slots[k].isNone else false

/-- Whether ready actor `a` starts before `b` (R89). -/
def startsBefore (a b : Nat × Actor) : Bool :=
  let ra := a.2.readyAt.getD 0
  let rb := b.2.readyAt.getD 0
  a.2.cls < b.2.cls || (a.2.cls == b.2.cls && (ra < rb || (ra == rb && (a.2.idx < b.2.idx || (a.2.idx == b.2.idx && a.1 < b.1)))))

/-- The actor that starts next on a core: ready when its clock began, and still, with a slot free for it (R79, R88, R89). -/
def State.nextStart (s : State) (c : Nat) : Option Nat :=
  let x := s.core c
  if !x.issues || x.follows.isSome || x.issued == some s.clk then none
  else
    let able := x.actors.filter fun a => a.2.readyAt.isSome && s.actorReady a.2 && match mget x.tasks a.2.rti with
      | some r => (x.freeSlot r a.2.rti).isSome
      | none => false
    (able.foldl (fun m a => match m with
      | none => some a
      | some b => if startsBefore a b then some a else some b) none).map (·.1)

/-- Lend the oldest entries of a stage's queue that lie in no window to a firing (R312). -/
def InChan.lend (i : InChan) (h n : Nat) : InChan × List Entry :=
  match n with
  | 0 => (i, [])
  | k + 1 =>
    match i.back with
    | (o, e) :: t =>
      let (j, es) := ({ i with back := t, lent := i.lent ++ [(o, h, e)] } : InChan).lend h k
      (j, e :: es)
    | [] => match i.fifo with
      | e :: t =>
        let (j, es) := ({ i with fifo := t, ord := i.ord + 1, lent := i.lent ++ [(i.ord, h, e)] } : InChan).lend h k
        (j, e :: es)
      | [] => (i, [])

/-- The windows of a firing, and the state that holds their entries for it (R77, R312). -/
def State.takeWindows (s : State) (c k : Nat) (a : Actor) : SMap (List Entry) × State :=
  match s.queue a.task a.stage with
  | none => (a.ins.foldl (fun m i => mset m i.ch (i.fifo.take i.rate)) [], s)
  | some is =>
    let ls := is.map fun i => (i.ch, i.lend (holder c k) i.rate)
    (ls.foldl (fun m l => mset m l.1 l.2.2) [], s.setQueue a.task a.stage (ls.map (·.2.1)))

/-- Whether an image carries control-flow and data-dependence signatures for the handler at `entry` (R93, R209). -/
def imageSigctl (m : Image) (entry : Nat) : Word :=
  match m.sigs.find? (·.addr == entry) with
  | none => 0
  | some b => if b.dd.isSome then 3 else 1

/-- The stream and the index in the batch that a firing acts for (R92, R363). -/
def State.actsFor (s : State) (c : Nat) (a : Actor) (win : SMap (List Entry)) : Word × Word :=
  match s.task a.task with
  | none => (0, 0)
  | some t =>
    match t.batchAct with
    | none => (wd t.sid, 0)
    | some (act, ch) =>
      let first := t.places.any fun p => p.core == c && p.band == 0 && p.member == 0
      match first && a.idx == act, mget win ch with
      | true, some (e :: _) =>
        let w := wordAt (entryBytes e) 0
        (wd (fld w 23 0), wd (fld w 39 32))
      | _, _ => (0, 0)

/-- The registers of a new firing (R67, R92, R93). -/
def State.newFiring (s : State) (c k : Nat) (a : Actor) (win : SMap (List Entry)) : Firing :=
  let t := (s.task a.task).getD {}
  let (sid, idx) := s.actsFor c a win
  let gs : Vector Word 64 := Vector.replicate 64 0
  let gs := gs.set 1 (wd (a.rti * 4096 + a.idx * 64 + a.cls * 16 + (if a.priv then 8 else 0) + k))
  let gs := (((gs.set 2 (wd a.seqNo)).set 3 (wd a.task)).set 4 sid).set 5 idx
  let gs := (gs.set 6 (wd t.ts)).set 7 t.parm
  { rti := a.rti
    cls := a.cls
    priv := a.priv
    seqNo := a.seqNo
    g := gs
    pc := a.entry
    sigctl := imageSigctl ((mget s.pkg.images a.image).getD {}) a.entry
    sigBlock := a.entry
    gens := BitVec.ofNat 8192 (seedLanes 0 32)
    nextIssue := s.clk + 4
    window := win }

/-- Start a firing of entry `n` of a core's actor table. -/
def State.startFiring (s : State) (c n : Nat) : State :=
  let x := s.core c
  match s.actor c n with
  | none => s
  | some a => match (mget x.tasks a.rti).bind fun r => x.freeSlot r a.rti with
    | none => s
    | some k =>
      let (win, s) := s.takeWindows c k a
      let f := { s.newFiring c k a win with actor := n }
      let s := a.outs.foldl (fun s o => s.modIn o.tcore o.tactor o.tch (fun i => { i with reserved := i.reserved + o.rate }) true) s
      match s.actor c n with
      | none => s
      | some a => (s.setActor c n { a with busy := true, started := true, readyAt := none }).setFiring c k f

/-- `FIRING_START`: actor entry `n` of the current core, where it is the one that starts next. -/
def execFiringStart (s : State) : Host.Outcome State Fault Refusal :=
  .next (if s.nextStart s.cur.core == some s.cur.n then s.startFiring s.cur.core s.cur.n else s)

/-! ### Scoreboarded results and yields -/

/-- Deliver the scoreboarded result at place `n` of the flight, in the order of R26. -/
def Firing.deliverAt (f : Firing) (n clk : Nat) : Firing :=
  match f.flight[n]? with
  | none => f
  | some r =>
    if r.due.isSome || r.await then f
    else
      let f := f.settle clk
      match f.flight.findIdx? (· == r) with
      | none => f
      | some i =>
        let older := (f.flight.take i).map fun x => { x with writes := under x.writes r.writes }
        { f.puts r.writes r.poison with
          flight := older ++ f.flight.drop (i + 1)
          flagsDue := if r.flags = 0 then f.flagsDue else f.flagsDue ++ [(clk, r.flags)] }

/-- Whether a load that waits at its home can go on: it is performed, or replayed to another package (R405, R465). -/
def State.loadDue (s : State) (c n : Nat) : Bool :=
  match s.load c n with
  | none => false
  | some x => if x.f.issued.any fun a => x.behind s a.2 then false else match loadBody x s with
    | .held _ _ => false
    | .wait _ => x.f.asked.all fun t => (mget x.f.replies t).isSome
    | _ => true

/-- Give a load that waited its results. -/
def State.fillLoad (s : State) (x : Ctx) (ws : List RegWrite) (fs : BitVec 7) (poison : Bool) : State :=
  let k := s.core x.c
  let s := s.setCore x.c { k with loads := k.loads.filter (·.load != x.load) }
  match s.firing x.c x.k with
  | none => s
  | some f => s.setFiring x.c x.k { f with flight := f.flight.map fun r =>
      if r.load == x.load then { r with await := false, load := 0, writes := ws, flags := fs, poison } else r }

/-- A load that waited fails after it has issued: its registers are poisoned, as those of a load that a fenced home refuses (R443). -/
def State.poisonLoad (s : State) (x : Ctx) : State :=
  let (v, s) := s.free
  s.fillLoad x ((((formOf x.op x.w).map fun m => m.regs x.w Role.writes).getD []).map fun r => poisonWrite r v) 0 true

/-- Perform a load that waits at its home, once its page is there (R405). -/
def State.goLoad (s : State) (c n : Nat) : State :=
  match s.load c n with
  | none => s
  | some x => match loadBody x s with
    | .ok e => e.s.fillLoad x (realWrites e.writes) e.flags e.poison
    | .wait s => s
    | .held s issued => s.setHolder x { x.f with issued }
    | .trap cause _ _ => (if cause = 0x16 then { s with fenceReq := s.fenceReq ++ [c] } else s).poisonLoad x
    | .nack die s => (s.countNack die).poisonLoad x
    | .lost s => s.poisonLoad x
    | .block e _ => e.s
    | .gone s => s

/-- `RESULT_DELIVERY`: the result at place `n` of what the current slot has in flight; that of a load which waits at its home is given first. -/
def execResultDelivery (s : State) : Host.Outcome State Fault Refusal :=
  .next (match s.firing s.cur.core s.cur.slot with
    | none => s
    | some f => match f.flight[s.cur.n]? with
      | none => s
      | some r => if r.await then s.goLoad s.cur.core r.load else s.setFiring s.cur.core s.cur.slot (f.deliverAt s.cur.n s.clk))

/-- Whether a `YIELD` ends: every slot that was a candidate has stopped being one, or its clocks have passed (R116). -/
def State.yieldOver (s : State) (c : Nat) (f : Firing) : Bool :=
  match f.wait with
  | .yield _ ks u => u ≤ s.clk || ((s.core c).issued != some s.clk && !ks.any fun k => match s.firing c k with
    | some g => g.wait == .none && !g.stopped && g.nextIssue ≤ s.clk && g.tried.all (· + 1 < s.clk) && s.mayIssue c k g
    | none => false)
  | _ => false

/-- `YIELD_EXPIRY`. -/
def execYieldExpiry (s : State) : Host.Outcome State Fault Refusal :=
  let c := s.cur.core
  let k := s.cur.slot
  .next (match s.firing c k with
    | none => s
    | some f => if s.yieldOver c f then s.setFiring c k { f with wait := .none, ready := none } else s)

end Sys2Proof.Machine
end

