-- ==== Sys2Proof/Machine/HelperCore.lean ====
section
/-! DEFINITION. The helper cores (R202, R203, R205): their registers, memory map, exceptions and RV32IMC instructions. -/

namespace Sys2Proof.Machine

/-! ### Parts -/

def Core.helper (x : Core) (h : Nat) : Helper := if q : h < 2 then x.helpers[h] else {}
def State.helper (s : State) (c h : Nat) : Helper := (s.core c).helper h
def State.setHelper (s : State) (c h : Nat) (x : Helper) : State :=
  let k := s.core c
  if q : h < 2 then s.setCore c { k with helpers := k.helpers.set h x } else s

/-- A helper register; `x0` reads zero. -/
def Helper.rx (x : Helper) (r : BitVec 5) : BitVec 32 := if r = 0 then 0 else x.x[r.toNat]
def Helper.wx (x : Helper) (r : BitVec 5) (v : BitVec 32) : Helper := if r = 0 then x else { x with x := x.x.set r.toNat v }

/-- Whether the helper executes: its image holds code, and it neither halts nor sleeps (R202, R204, R205). -/
def Helper.runs (x : Helper) : Bool := !x.held && !x.halted && x.asleep.isNone

/-- The helpers that may execute an instruction. -/
def State.runnable (s : State) : List (Cur × Nat) :=
  s.cores.flatMap fun c => (if c.2.disabled || c.2.fenced then [] else [0, 1]).filterMap fun h =>
    if (c.2.helper h).runs then some ({ core := c.1, hart := h }, h) else none

/-- The word that a helper fetches: zero beyond its instruction store. -/
def State.helperWord (s : State) (c h : Nat) : BitVec 32 :=
  let pc := (s.helper c h).pc.toNat
  BitVec.ofNat 32 (ofLe (memRead s.mem (Loc.hcode c h pc) (min 4 (16384 - pc))))

/-- Whether a fetch of `n` bytes at the pc leaves the instruction store. -/
def Helper.fetchOut (x : Helper) (n : Nat) : Bool := 16384 < x.pc.toNat + n

/-! ### Exceptions (R205) -/

/-- The helper-halt record. -/
def haltRecord (h cause : Nat) (pc val : BitVec 32) : EvRecord :=
  { w0 := wd (0x04 * 2 ^ 56 + cause % 256 * 2 ^ 48 + h * 2 ^ 40), w1 := wd pc.toNat, w2 := wd val.toNat }

/-- A helper exception: to `mtvec`, or a halt with its record where that is 0. -/
def State.helperTrap (s : State) (c h cause : Nat) (val : BitVec 32) : State :=
  let x := s.helper c h
  if x.mtvec = 0 then
    (s.setHelper c h { x with halted := true }).post c (haltRecord h cause x.pc val)
  else
    let mie := x.mstatus.getLsbD 3
    s.setHelper c h { x with mepc := x.pc, mcause := BitVec.ofNat 32 cause, mtval := val, pc := x.mtvec,
                             mstatus := if mie then 0x1880 else 0x1800 }

/-- Retire an instruction: the next pc, and one more in `minstret`. -/
def State.retire (s : State) (c h : Nat) (x : Helper) (pc : BitVec 32) : State :=
  s.setHelper c h { x with pc, minstret := x.minstret + 1 }

/-! ### Memory (R202) -/

/-- A place of the helper's map. -/
inductive HPlace where
  | code (a : Nat)
  | data (a : Nat)
  | scratch (a : Nat)
  | none
deriving DecidableEq, Repr

/-- Where `n` bytes at an address stand. -/
def State.helperPlace (s : State) (c a n : Nat) : HPlace :=
  if a + n ≤ 0x4000 then .code a
  else if 0x10000 ≤ a && a + n ≤ 0x12000 then .data (a - 0x10000)
  else if 0x10000000 ≤ a && a + n ≤ 0x10100000 then
    let o := a - 0x10000000
    if (s.core c).tasks.any fun r => r.2.helpers && r.2.spBase ≤ o && o + n ≤ r.2.spBase + r.2.spSize then .scratch o else .none
  else .none

/-- The address of a place in the byte store. -/
def HPlace.loc (p : HPlace) (c h : Nat) : Option Nat :=
  match p with
  | .code a => some (Loc.hcode c h a)
  | .data a => some (Loc.hdata c h a)
  | .scratch a => some (Loc.sp c a)
  | .none => Option.none

/-- A helper consumes an uncorrectable error: access fault cause 1 (R208). -/
def State.helperPoison (s : State) (c h : Nat) (a : BitVec 32) : State :=
  { s with fenceReq := s.fenceReq ++ [c] }.helperTrap c h 1 a

/-! ### Arithmetic -/

/-- Quotient and remainder of RV32M. -/
def rvDiv (u : Bool) (a b : BitVec 32) : BitVec 32 := if b = 0 then BitVec.allOnes 32 else if u then a / b else a.sdiv b
def rvRem (u : Bool) (a b : BitVec 32) : BitVec 32 := if b = 0 then a else if u then a % b else a.srem b

end Sys2Proof.Machine

namespace Sys2Proof

/-- The RV32IM operations. -/
def RvAlu.eval (o : RvAlu) (a b : BitVec 32) : BitVec 32 :=
  match o with
  | .add => a + b
  | .sub => a - b
  | .sll => a <<< (b.toNat % 32)
  | .slt => if a.slt b then 1 else 0
  | .sltu => if a.ult b then 1 else 0
  | .xor => a ^^^ b
  | .srl => a >>> (b.toNat % 32)
  | .sra => a.sshiftRight (b.toNat % 32)
  | .or => a ||| b
  | .and => a &&& b
  | .mul => a * b
  | .mulh => BitVec.ofInt 32 (a.toInt * b.toInt / 2 ^ 32)
  | .mulhsu => BitVec.ofInt 32 (a.toInt * b.toNat / 2 ^ 32)
  | .mulhu => BitVec.ofNat 32 (a.toNat * b.toNat / 2 ^ 32)
  | .div => Machine.rvDiv false a b
  | .divu => Machine.rvDiv true a b
  | .rem => Machine.rvRem false a b
  | .remu => Machine.rvRem true a b

/-- The branch conditions. -/
def RvCmp.eval (o : RvCmp) (a b : BitVec 32) : Bool :=
  match o with
  | .eq => a == b
  | .ne => a != b
  | .lt => a.slt b
  | .ge => !a.slt b
  | .ltu => a.ult b
  | .geu => !a.ult b

end Sys2Proof

namespace Sys2Proof.Machine

/-! ### CSRs (R203) -/

/-- `mcycle` counts the core's clocks: the field holds what is added to them. -/
def Helper.cycles (x : Helper) (clk : Nat) : Word := x.mcycle + wd clk

/-- The value of a CSR; `none` where the helper has no such CSR. -/
def State.csr (s : State) (c h n : Nat) : Option (BitVec 32) :=
  let x := s.helper c h
  if n = 0x300 then some x.mstatus
  else if n = 0x301 then some 0x40001104
  else if n = 0xF14 then some (BitVec.ofNat 32 h)
  else if n = 0x305 then some x.mtvec
  else if n = 0x341 then some x.mepc
  else if n = 0x342 then some x.mcause
  else if n = 0x343 then some x.mtval
  else if n = 0x340 then some x.mscratch
  else if n = 0xB00 then some ((x.cycles s.clk).truncate 32)
  else if n = 0xB80 then some ((x.cycles s.clk).extractLsb' 32 32)
  else if n = 0xB02 then some (x.minstret.truncate 32)
  else if n = 0xB82 then some (x.minstret.extractLsb' 32 32)
  else if n = 0x7C0 then some x.hsel
  else if 0x7C8 ≤ n && n ≤ 0x7CF then
    some (BitVec.ofNat 32 (((s.resident c (n - 0x7C8)).map (·.task)).getD 0))
  else none

/-- Whether a CSR refuses writes: `hres0` to `hres7` and `mhartid`. -/
def csrRo (n : Nat) : Bool := n == 0xF14 || (0x7C8 ≤ n && n ≤ 0x7CF)

/-- A counter with half of it written. -/
def half (hi : Bool) (x : Word) (v : BitVec 32) : Word :=
  if hi then setFld x 63 32 v.toNat else setFld x 31 0 v.toNat

/-- Write a CSR; the bits a CSR does not have keep their value. -/
def Helper.setCsr (x : Helper) (clk n : Nat) (v : BitVec 32) : Helper :=
  if n = 0x300 then { x with mstatus := (v &&& 0x88) ||| 0x1800 }
  else if n = 0x305 then { x with mtvec := v &&& ~~~3 }
  else if n = 0x341 then { x with mepc := v &&& ~~~1 }
  else if n = 0x342 then { x with mcause := v }
  else if n = 0x343 then { x with mtval := v }
  else if n = 0x340 then { x with mscratch := v }
  else if n = 0xB00 then { x with mcycle := half false (x.cycles clk) v - wd clk }
  else if n = 0xB80 then { x with mcycle := half true (x.cycles clk) v - wd clk }
  else if n = 0xB02 then { x with minstret := half false x.minstret v - 1 }
  else if n = 0xB82 then { x with minstret := half true x.minstret v - 1 }
  else if n = 0x7C0 then { x with hsel := v &&& 0x707FF }
  else x

/-- The value a CSR instruction writes. -/
def csrNew (o : RvCsrOp) (old v : BitVec 32) : BitVec 32 :=
  match o with
  | .rw => v
  | .rs => old ||| v
  | .rc => old &&& ~~~v

/-! ### The instructions -/

/-- A load (R202). -/
def rvLoad (s : State) (c h : Nat) (len : BitVec 32) (size : Nat) (sg : Bool) (rd rs : BitVec 5) (off : BitVec 32) : State :=
  let x := s.helper c h
  let a := x.rx rs + off
  if a.toNat % size != 0 then s.helperTrap c h 4 a
  else match (s.helperPlace c a.toNat size).loc c h with
    | none => s.helperTrap c h 5 a
    | some p =>
      if s.isBad p size then s.helperPoison c h a
      else
        let v := ofLe (memRead s.mem p size)
        let y := BitVec.ofInt 32 (readInt (!sg) (8 * size) v)
        s.retire c h (x.wx rd y) (x.pc + len)

/-- A store (R202); the instruction store refuses it. One to a scratchpad triggers monitors like another write there (R148;
notes/assumptions/149.md). -/
def rvStore (s : State) (c h : Nat) (len : BitVec 32) (size : Nat) (rs rt : BitVec 5) (off : BitVec 32) : State :=
  let x := s.helper c h
  let a := x.rx rs + off
  if a.toNat % size != 0 then s.helperTrap c h 6 a
  else match s.helperPlace c a.toNat size with
    | .code _ => s.helperTrap c h 7 a
    | p => match p.loc c h with
      | none => s.helperTrap c h 7 a
      | some p => (s.homeWrite 0 p (leBytes size (x.rx rt).toNat)).retire c h x (x.pc + len)

/-- A CSR instruction: set and clear with a zero source do not write. -/
def rvCsr (s : State) (c h : Nat) (len : BitVec 32) (o : RvCsrOp) (imm : Bool) (rd src : BitVec 5) (n : BitVec 12) : State :=
  let x := s.helper c h
  let bits := s.helperWord c h
  let writes := o == .rw || src != 0
  match s.csr c h n.toNat with
  | none => s.helperTrap c h 2 bits
  | some old =>
    if writes && csrRo n.toNat then s.helperTrap c h 2 bits
    else
      let v := if imm then src.zeroExtend 32 else x.rx src
      let y := if writes then x.setCsr s.clk n.toNat (csrNew o old v) else x
      s.retire c h (y.wx rd old) (x.pc + len)

/-- One RV32IMC instruction of `len` bytes. -/
def rvExec (s : State) (c h : Nat) (r : Rv) (len : Nat) : State :=
  let x := s.helper c h
  let l := BitVec.ofNat 32 len
  let go (y : Helper) : State := s.retire c h y (x.pc + l)
  if x.fetchOut len then s.helperTrap c h 1 x.pc
  else if s.isBad (Loc.hcode c h x.pc.toNat) len then s.helperPoison c h x.pc
  else match r with
  | .lui rd imm => go (x.wx rd imm)
  | .auipc rd imm => go (x.wx rd (x.pc + imm))
  | .jal rd off => s.retire c h (x.wx rd (x.pc + l)) (x.pc + off)
  | .jalr rd rs off => s.retire c h (x.wx rd (x.pc + l)) ((x.rx rs + off) &&& ~~~1)
  | .branch o rs rt off => s.retire c h x (if o.eval (x.rx rs) (x.rx rt) then x.pc + off else x.pc + l)
  | .load n sg rd rs off => rvLoad s c h l n sg rd rs off
  | .store n rs rt off => rvStore s c h l n rs rt off
  | .opImm o rd rs imm => go (x.wx rd (o.eval (x.rx rs) imm))
  | .op o rd rs rt => go (x.wx rd (o.eval (x.rx rs) (x.rx rt)))
  | .fence => go x
  | .ecall => s.helperTrap c h 11 0
  | .ebreak => s.helperTrap c h 3 0
  | .mret =>
    s.retire c h { x with mstatus := if x.mstatus.getLsbD 7 then 0x1888 else 0x1880 } x.mepc
  | .wfi => go x
  | .csr o imm rd src n => rvCsr s c h l o imm rd src n
  | .illegal w => s.helperTrap c h 2 w

/-- `RV32IMC_INSTRUCTION` (R202, R203, R205). -/
def execRv32imcInstruction (r : Rv) (len : Nat) (s : State) : Host.Outcome State Fault Refusal :=
  .next (rvExec s s.cur.core s.cur.hart r len)

/-- A helper word at the pc of the loader of core 0, whose turn it is. -/
def State.placeHelper (s : State) (w : Nat) : State :=
  let h := { s.helper 0 0 with held := false, halted := false, asleep := none }
  let s := { s with mem := memWrite s.mem (Loc.hcode 0 0 h.pc.toNat) (leBytes 4 w), inputs := [],
                    turn := .helper 0, cur := { core := 0, hart := 0 } }
  s.setHelper 0 0 h

end Sys2Proof.Machine
end

