-- ==== Sys2Proof/Machine/HelperOps.lean ====
section
/-! DEFINITION. The custom instructions of the helpers, and the end of `h.wait` (R203, R204). -/

namespace Sys2Proof.Machine

/-- `hsel`'s fields. -/
def Helper.rti (x : Helper) : Nat := (x.hsel.extractLsb' 16 3).toNat
def Helper.scope (x : Helper) : Nat := (x.hsel.extractLsb' 8 3).toNat
def Helper.hidx (x : Helper) : Nat := (x.hsel.extractLsb' 0 8).toNat

/-- A custom instruction of the current helper: its fetch, then what it does. -/
def hRun (s : State) (f : Nat → Nat → Helper → State) : Host.Outcome State Fault Refusal :=
  let c := s.cur.core
  let h := s.cur.hart
  let x := s.helper c h
  .next (if x.fetchOut 4 then s.helperTrap c h 1 x.pc
    else if s.isBad (Loc.hcode c h x.pc.toNat) 4 then s.helperPoison c h x.pc
    else f c h x)

/-- The next instruction, with a result in `rd`. -/
def State.hNext (s : State) (c h : Nat) (d : BitVec 5) (v : BitVec 32) : State :=
  let x := s.helper c h
  s.retire c h (x.wx d v) (x.pc + 4)

/-- The offset in the data store of an address of the helper's map with `n` bytes, aligned to them. -/
def dataOff (a : BitVec 32) (n : Nat) : Option Nat :=
  if a.toNat % n == 0 && 0x10000 ≤ a.toNat && a.toNat + n ≤ 0x12000 then some (a.toNat - 0x10000) else none

/-- The fault of a cause of R133 at `h.cadd`; a translation that cannot be made is given none there
(notes/assumptions/17.md). -/
def hCause (cause : Nat) (x : Helper) (off : BitVec 32) : Nat × BitVec 32 :=
  match cause with
  | 0x11 => (24, BitVec.ofNat 32 x.hidx)
  | 0x10 => (26, off)
  | 0x15 => (26, off)
  | 0x13 => (27, off)
  | _ => (25, BitVec.ofNat 32 x.hidx)

/-- `h.cadd`. -/
def execHCadd (b a : BitVec 5) (s : State) : Host.Outcome State Fault Refusal :=
  hRun s fun c h x =>
    let off := x.rx a
    match s.resident c x.rti with
    | none => s.helperTrap c h 24 (BitVec.ofNat 32 x.rti)
    | some r =>
      if x.scope = 0 || 6 ≤ x.scope then s.helperTrap c h 25 (BitVec.ofNat 32 x.scope)
      else match s.check c r 0 x.hidx off.toNat 8 8 .cadd [1, 2, 3, 4] true 0 with
        | .error (.trap 0x16) => s.helperPoison c h off
        | .error (.trap cause) => let (n, v) := hCause cause x off; s.helperTrap c h n v
        | .error (.nack die) => ((s.countNack die).endRunning r.task).hNext c h 0 0
        | .error _ => s
        | .ok (s, q) =>
          if s.segsBad q.segs then s.helperPoison c h off
          else
            let v := wd (x.rx b).toNat
            let (s, sat) := s.counterAdd q.key q.place v
            (if sat then s.post c (overflowRecord r.task q.device v) else s).hNext c h 0 0

/-- `h.push`: waits while the interface is full (R132). -/
def execHPush (b a : BitVec 5) (s : State) : Host.Outcome State Fault Refusal :=
  hRun s fun c h x =>
    match s.resident c x.rti with
    | none => s.helperTrap c h 24 (BitVec.ofNat 32 x.rti)
    | some r =>
      match dataOff (x.rx a) 128 with
      | none => s.helperTrap c h 26 (x.rx a)
      | some o =>
        let p := Loc.hdata c h o
        match s.dieTarget (dieOf c) r.task (wd (x.rx b).toNat) (entryOf (memRead s.mem p 128)) with
        | none => s.helperTrap c h 28 (x.rx b)
        | some m =>
          if s.isBad p 128 then s.helperPoison c h (x.rx a)
          else if (s.core c).nicFull then s
          else (s.nicPut c m).hNext c h 0 0

/-- `h.chap`: waits while the chain has no free slot (R216); an array chain that the task does not have is refused with
cause 25 (notes/assumptions/17.md). -/
def execHChap (b a d : BitVec 5) (s : State) : Host.Outcome State Fault Refusal :=
  hRun s fun c h x =>
    match s.resident c x.rti with
    | none => s.helperTrap c h 24 (BitVec.ofNat 32 x.rti)
    | some r =>
      match dataOff (x.rx a) 64 with
      | none => s.helperTrap c h 26 (x.rx a)
      | some o =>
        let e := (x.rx b).toNat
        let p := Loc.hdata c h o
        if 1 < e then s.helperTrap c h 28 (x.rx b)
        else if e = 0 && !r.arr then s.helperTrap c h 25 (x.rx b)
        else if s.isBad p 64 then s.helperPoison c h (x.rx a)
        else if (r.chain (e == 0)).room = 0 then s
        else
          let bs := memRead s.mem p 64
          let (n, s) := s.appendEntry c x.rti (e == 0) ((List.range 8).map (wordAt bs)) id
          s.hNext c h d (BitVec.ofNat 32 n)

/-- `h.evq`; it needs no task at `RTI` (R204; notes/assumptions/151.md). -/
def execHEvq (_b a d : BitVec 5) (s : State) : Host.Outcome State Fault Refusal :=
  hRun s fun c h x =>
    if h != 0 then s.helperTrap c h 2 (s.helperWord c h)
    else match dataOff (x.rx a) 32 with
      | none => s.helperTrap c h 26 (x.rx a)
      | some o =>
        match s.popEvent c fun _ => true with
        | (none, s) => s.hNext c h d 0
        | (some r, u) => if r.psn then s.helperPoison c h (x.rx a) else (u.homeWrite 0 (Loc.hdata c h o) r.bytes).hNext c h d (BitVec.ofNat 32 (fld r.w0 63 56))

/-- The pending wake causes of a helper among those selected; `dl` is its deadline. -/
def State.wakeCauses (s : State) (c h : Nat) (sel : BitVec 4) (dl : BitVec 32) : BitVec 4 :=
  let x := s.helper c h
  let now : BitVec 32 := (x.cycles s.clk).truncate 32
  let b (v : Bool) (i : Nat) : BitVec 4 := if v then (1 : BitVec 4) <<< i else 0
  sel &&& (b (!(s.core c).evq.isEmpty) 0 ||| b x.wake1 1 ||| b x.wake2 2 ||| b ((now - dl).toNat < 2 ^ 31) 3)

/-- Report wake causes: [1] and [2] are cleared, and the helper goes on. -/
def State.hReport (s : State) (c h : Nat) (d : BitVec 5) (p : BitVec 4) : State :=
  let x := s.helper c h
  (s.setHelper c h { x with asleep := none, wake1 := x.wake1 && !p.getLsbD 1, wake2 := x.wake2 && !p.getLsbD 2 }).hNext c h d (p.zeroExtend 32)

/-- `h.wait`; it needs no task at `RTI` (R204; notes/assumptions/151.md). -/
def execHWait (b a d : BitVec 5) (s : State) : Host.Outcome State Fault Refusal :=
  hRun s fun c h x =>
    let sel : BitVec 4 := (x.rx a).truncate 4
    let p := s.wakeCauses c h sel (x.rx b)
    if sel = 0 || p != 0 then s.hReport c h d p
    else s.setHelper c h { x with asleep := some (sel, x.rx b, d) }

/-- `HELPER_WAKE`: a cause that the sleeping helper selected is pending. -/
def execHelperWake (s : State) : Host.Outcome State Fault Refusal :=
  let c := s.cur.core
  let h := s.cur.hart
  .next (match (s.helper c h).asleep with
    | none => s
    | some (sel, dl, d) => let p := s.wakeCauses c h sel dl; if p = 0 then s else s.hReport c h d p)

/-- `h.pulse`; it needs no task at `RTI` (R204; notes/assumptions/151.md). -/
def execHPulse (s : State) : Host.Outcome State Fault Refusal :=
  hRun s fun c h _ => (s.pulse c (9 + h)).hNext c h 0 0

end Sys2Proof.Machine
end

