-- ==== Sys2Proof/Machine/JoinBatch.lean ====
section
/-! DEFINITION. The batcher (R362, R363), the join unit (R364, R365) and attention in the slices (R366 to R368). -/

namespace Sys2Proof.Machine

/-! ### The batcher (R362, R363) -/

/-- A node table entry (R362). -/
structure Node where
  tmpl  : Nat
  timer : Nat
  maxb  : Nat
  act   : Nat
  ch    : Nat
  tkey  : Nat
  tctx  : Nat
deriving DecidableEq, Repr

/-- The entry of a node of a die. -/
def State.node (s : State) (die n : Nat) : Node :=
  let a := Loc.phys (fld (s.die die).snode 51 12 * 4096 + 16 * n)
  let w0 := wordOf (memRead s.mem a 8)
  let w1 := wordOf (memRead s.mem (a + 8) 8)
  { tmpl := fld w0 56 0, timer := fld w1 31 16, maxb := fld w1 15 8, act := fld w1 7 2, ch := fld w1 1 0, tkey := fld w1 57 48, tctx := fld w1 41 32 }

/-- Whether a stream is in a batch that has been formed and has not ended. -/
def State.batched (s : State) (g : Nat) : Bool := s.allTasks.any fun t => t.2.state != .flushing && t.2.batch.contains g

/-- Put a stream into the order of readiness. -/
def byReadiness (x : Nat × Stream) (ys : List (Nat × Stream)) : List (Nat × Stream) :=
  match ys with
  | [] => [x]
  | y :: t => if x.2.readyAt < y.2.readyAt || (x.2.readyAt == y.2.readyAt && x.1 < y.1) then x :: y :: t else y :: byReadiness x t

/-- The streams that a node's next batch is formed from, in order. -/
def State.gathered (s : State) (die n : Nat) : List (Nat × Stream) :=
  if n = 0xFFFF then []
  else ((s.liveStreams die).filter fun e => e.2.state == .ready && e.2.node == n && !s.batched e.1).foldr byReadiness []

/-- Whether enough streams are ready at a node. -/
def State.batchFull (s : State) (die n : Nat) : Bool := (s.node die n).maxb + 1 ≤ (s.gathered die n).length

/-- Whether the node's timer has run out. -/
def State.batchLate (s : State) (die n : Nat) : Bool :=
  match s.gathered die n, (s.node die n).timer with
  | [], _ => false
  | _ :: _, 0 => false
  | e :: _, t => e.2.readyAt + t * 2250 ≤ s.clk

/-- Whether a node's `ACT` and `CH` name a channel that takes a batch. -/
def State.batchChan (s : State) (t : Task) (n : Node) : Bool :=
  match (t.roles.headD none).bind fun i => ((mget s.pkg.images i).getD {}).actors[n.act]? with
  | none => false
  | some a => a.ins.any fun i => i.ch == n.ch && i.rate == 1 && n.maxb + 1 ≤ i.depth

/-- The batch task of a node, judged; `none` where its template is refused. -/
def State.batchTask (s : State) (die : Nat) (n : Node) (queue : Option Nat) : Option Task :=
  match (if s.keyLoaded n.tkey then s.devRead die n.tctx n.tkey n.tmpl 128 else .error .xlate) with
  | .error _ => none
  | .ok hdr => match s.devRead die n.tctx n.tkey n.tmpl (128 + 32 * min 16 (fld (wordAt hdr 0) 51 47)) with
    | .error _ => none
    | .ok bs => match s.judge { die, ctx := n.tctx, keyOk := fun _ => true, queue } 0 (wordsOf bs) with
      | .error _ => none
      | .ok (_, t) => if s.batchChan t n then some t else none

/-- Form a batch of the first streams at a node. -/
def State.formBatch (s : State) (die k : Nat) : State :=
  let n := s.node die k
  let ms := (s.gathered die k).take (n.maxb + 1)
  if ms.isEmpty || !(s.die die).on then s
  else match s.batchTask die n ((ms.head?).bind (·.2.queue)) with
    | none => ms.foldl (fun s m => s.setStream m.1 (m.2.atNode 0xFFFF s.clk)) s
    | some t => (s.enter die { t with sid := 0, batch := ms.map (·.1), batchAct := some (n.act, n.ch) }).2

/-- `BATCH_FORM`: node `k` of die `n` has a full batch. -/
def execBatchForm (s : State) : Host.Outcome State Fault Refusal :=
  .next (if s.batchFull s.cur.n s.cur.k then s.formBatch s.cur.n s.cur.k else s)

/-- `BATCH_TIMER_EXPIRY`: the oldest ready stream at node `k` of die `n` has waited for `TIMER`. -/
def execBatchTimerExpiry (s : State) : Host.Outcome State Fault Refusal :=
  .next (if s.batchLate s.cur.n s.cur.k then s.formBatch s.cur.n s.cur.k else s)

/-! ### The join unit (R364, R365) -/

/-- Score and value of a returned stream, as codes. -/
def Stream.score (e : Stream) : Nat := fld e.rval 31 0
def Stream.value (e : Stream) : Nat := fld e.rval 63 32

/-- Whether the first ranks above the second. -/
def ranksAbove (a b : Stream) : Bool :=
  let x := decodeF 0 false a.score
  let y := decodeF 0 false b.score
  if x.isNan || y.isNan then (if x.isNan && y.isNan then a.cidx < b.cidx else y.isNan)
  else if x.same y then a.cidx < b.cidx
  else y.lt false x

/-- Insert into a list by an order. -/
def insertBy (p : Stream → Stream → Bool) (x : Nat × Stream) (ys : List (Nat × Stream)) : List (Nat × Stream) :=
  match ys with
  | [] => [x]
  | y :: t => if p x.2 y.2 then x :: y :: t else y :: insertBy p x t

/-- The sum of the values in ascending `CIDX`, each addition rounded. -/
def joinSum (mode : Nat) (ftz : Bool) (es : List Stream) : Nat × BitVec 7 :=
  match es with
  | [] => (0, 0)
  | e :: t =>
    t.foldl (fun (a : Nat × BitVec 7) e =>
      let (c, fl) := roundS mode ftz (exSum mode [decodeF 0 ftz a.1, decodeF 0 ftz e.value])
      (c, a.2 ||| fl)) (roundS mode ftz (decodeF 0 ftz e.value, 0))

/-- The values weighted by the softmax of the scores. -/
def joinSoftmax (mode : Nat) (ftz : Bool) (es : List Stream) : Nat × BitVec 7 :=
  let xs := es.map fun e => decodeF 0 ftz e.score
  if xs.any (·.isNan) then (0x7FC00000, 0)
  else
    let m := xs.foldl exMax (.inf true)
    let ws := xs.map fun x => if x.same m then ((some (.fin false 1 1) : Option Ex), (0 : BitVec 7)) else triWeight mode ftz x m
    let (l, f1) := roundS mode ftz (exSum mode (ws.filterMap (·.1)))
    let (q, f2) := triSum mode ftz ((ws.map (·.1)).zip (es.map fun e => decodeF 0 ftz e.value))
    let fl := ws.foldl (fun a w => a ||| w.2) (f1 ||| f2)
    if (decodeF 0 ftz l).isZero then (0x7FC00000, fl ||| Fl.nv)
    else
      let (r, f3) := roundS mode ftz ((decodeF 0 ftz q).div (decodeF 0 ftz l))
      (r, fl ||| f3)

/-- The result of a group (R364): `es` in rank order. -/
def joinResult (op mode : Nat) (ftz : Bool) (es : List Stream) : Nat × BitVec 7 :=
  match op with
  | 0 => match es with
    | e :: _ => (if (decodeF 0 false e.score).isNan then 0x7FC00000 else e.score, 0)
    | [] => (0, 0)
  | 1 => (((es.head?).map (·.cidx)).getD 0, 0)
  | 2 => joinSum mode ftz ((es.foldr (fun e ys => insertBy (fun a b => a.cidx < b.cidx) (0, e) ys) []).map (·.2))
  | _ => joinSoftmax mode ftz es

/-- The join record (R365). -/
def joinRecord (p : Nat) (e : Stream) (ranked kept : List (Nat × Stream)) : List Byte :=
  let m := rmOf (e.cfmode.zeroExtend 64)
  let (r, fl) := joinResult e.op (if m = 5 then 0 else m) (ftzOf (e.cfmode.zeroExtend 64)) (ranked.map (·.2))
  let best := match ranked with
    | x :: _ => if (decodeF 0 false x.2.score).isNan then 0x7FC00000 else x.2.score
    | [] => 0
  bytesOf [wd (7 * 2 ^ 56 + e.op * 2 ^ 45 + ranked.length * 2 ^ 40 + kept.length * 2 ^ 35 + p), wd r, wd (best + (fl &&& 0x1F).toNat * 2 ^ 32), 0] ++
    kept.flatMap (fun c => leBytes 4 c.1) ++ zeros (96 - 4 * kept.length)

/-- Write bytes at places in order. -/
def State.writePlaces (s : State) (key : Nat) (xs : List (Option Nat × Nat)) (bs : List Byte) : State :=
  match xs with
  | [] => s
  | (p, n) :: t => (match p with
    | some a => s.homeWrite key a (bs.take n)
    | none => s).writePlaces key t (bs.drop n)

/-- The counter add of a group, a release after its record. -/
def State.joinAdd (s : State) (e : Stream) : State :=
  match e.cplace with
  | none => s
  | some a =>
    s.unlessLost e.cadr [(some a, 8)] fun s =>
      let v := wd (fld e.jkey 17 10)
      let (s, sat) := s.counterAdd (fld e.jkey 9 0) a v
      if sat then s.post s.columnCore (overflowRecord 0 e.cadr v) else s

/-- The members of a group that count: those that are not pruned (R364). -/
def State.members (s : State) (p : Nat) : List (Nat × Stream) := (s.children p).filter fun c => c.2.state != .pruned

/-- Whether the group of snapshot `p` reduces: it is armed, and every member that counts has returned and is counted in `NRET` (R364). -/
def State.joins (s : State) (p : Nat) (e : Stream) : Bool :=
  e.state == .snapshot && e.arm && !(s.members p).isEmpty && (s.members p).all fun c => c.2.state == .returned && c.2.counted

/-- A kept child goes on: running while a task acts for it, else ready. -/
def State.keepChild (s : State) (g : Nat) (e : Stream) : State :=
  s.setStream g { e with state := if s.actedFor g 0 then .running else .ready, counted := false, readyAt := s.clk }

/-- `JOIN_REDUCE`: the group of snapshot `n`. -/
def execJoinReduce (s : State) : Host.Outcome State Fault Refusal :=
  let p := s.cur.n
  .next (match s.stream p with
    | none => s
    | some e =>
      if !s.joins p e then s
      else
        let ranked := (s.members p).foldr (insertBy ranksAbove) []
        let kept := ranked.take e.kk
        let s := s.unlessLost e.radr e.rsegs fun s => s.writePlaces (fld e.jkey 9 0) e.rsegs (joinRecord p e ranked kept)
        let s := s.joinAdd e
        let s := (s.children p).foldl (fun s c => s.setStream c.1 { c.2 with counted := false }) s
        let s := s.setStream p { e with arm := false, nret := 0, absorbing := e.absorbing || e.kk == 1 }
        let s := kept.foldl (fun s c => s.keepChild c.1 c.2) s
        (ranked.drop e.kk).foldl (fun s c => s.startRelease c.1) s)

/-! ### Attention in the slices (R366 to R368) -/

/-- Bytes of an element of a format that `SATTN` takes: 1 BF16, 3 E4M3, 4 E5M2. -/
def attnBytes (fmt : Nat) : Nat := if fmt = 1 then 2 else 1

/-- Whether a descriptor breaks the limits of R366. -/
def attnBad (ws : List Word) : Bool :=
  let w0 := dw ws 0
  let w4 := dw ws 4
  let fmt := fld w0 50 48
  let d := 64 * 2 ^ fld w0 47 46
  let t := fld w4 15 0
  fld w0 63 51 != 0 || 1 < fld w0 47 46 || !(fmt == 1 || fmt == 3 || fmt == 4) || fld w0 19 0 % 16 != 0 || fld w0 39 20 % 16 != 0 ||
  fld (dw ws 1) 63 32 != 0 || fld (dw ws 2) 63 40 != 0 || fld (dw ws 3) 63 40 != 0 || fld w4 63 48 != 0 ||
  dw ws 5 != 0 || dw ws 6 != 0 || dw ws 7 != 0 ||
  !(64 ≤ t && t ≤ 32768 && 2 ^ Nat.log2 t == t) || t < fld w4 31 16 + d * attnBytes fmt || t < fld w4 47 32 + d * attnBytes fmt

/-- The slice of each block that holds a visited token; an unmapped block has none and counts as 48. A page that is promoted is waited for at its new
home (R405); one that moves away keeps the firing. -/
def State.tokenBlocks (s : State) (g : Nat) (bs : List Nat) : Except Bar (State × SMap Nat) :=
  match bs with
  | [] => .ok (s, [])
  | b :: t =>
    match s.bucketNack 8 g b with
    | some die => .error (.nack die)
    | none => match s.readBlock g b with
      | .refuse c => .error (.trap c)
      | .moved p k => .error (.moved p k)
      | .hold u =>
        match s.resolveBlock 8 g b 0 with
        | none => .error (.hold u)
        | some (_, m) =>
          if !s.landing m then .error (.hold u)
          else match u.tokenBlocks g t with
            | .error e => .error e
            | .ok (u, xs) => .ok (u, (b, m.place 0 / 2 ^ 15 % 2 ^ 23 % 48) :: xs)
      | .at_ pl s => match s.tokenBlocks g t with
        | .error e => .error e
        | .ok (s, m) => .ok (s, (b, match pl with
          | some a => a / 2 ^ 15 % 2 ^ 23 % 48
          | none => 48) :: m)

/-- The pieces of a list, `n` bytes each. -/
def chunks (n k : Nat) (bs : List Byte) : List (List Byte) := (List.range k).map fun i => (bs.drop (i * n)).take n

/-- The result bytes of one query. -/
def attnResult (t : Nat × Nat × List Nat) : List Byte := leBytes 4 t.1 ++ leBytes 4 t.2.1 ++ zeros 8 ++ t.2.2.flatMap (leBytes 4)

/-- `g[D]` of `SATTN` (R368). -/
def attnWord (fl : BitVec 7) (n : Nat) : Word := wd ((fl &&& 0x1F).toNat + n % 2 ^ 32 * 2 ^ 16)

/-- `SATTN` with its descriptor, its queries and its result range checked. -/
def attnStart (x : Ctx) (s : State) (ws : List Word) (qs : List Byte) (out : Acc) : Body :=
  let w0 := dw ws 0
  let w4 := dw ws 4
  let fmt := fld w0 50 48
  let dim := 64 * 2 ^ fld w0 47 46
  let nq := fld w0 45 40 + 1
  let tstr := fld w4 15 0
  x.withStream s (x.g x.w.b) fun g e =>
    let t0 := fld (dw ws 2) 39 0
    let n := min (fld (dw ws 3) 39 0) (e.len / tstr) - t0
    let empty : Nat × Nat × List Nat := (0xFF800000, 0, List.replicate dim 0)
    if n = 0 then .ok { s := s.write out ((List.replicate nq empty).flatMap attnResult), writes := [.g x.w.d (attnWord 0 0)] }
    else if !covered (((s.task (x.res s).task).getD {}).admitting .watch spStrm g) 17 (t0 * tstr) (n * tstr) then x.give s (refused Ref.undecl)
    else if !s.keyLoaded e.key then .trap 0x12 (handleVal (hidx x.w.imm) x.off) 0
    else
      let b0 := t0 * tstr / 32768
      match s.tokenBlocks g ((List.range (((t0 + n) * tstr - 1) / 32768 - b0 + 1)).map (· + b0)) with
      | .error b => barBody s (hidx x.w.imm) x.off 0 b
      | .ok (s, blocks) =>
        let m := rmOf x.f.fmode
        let slices := (List.range 49).filter fun k => blocks.any fun b => b.2 == k
        let j : Attn := { slot := x.k, task := (x.res s).task, d := x.w.d, sid := g, key := s.pinned e.key, mode := if m = 5 then 0 else m, ftz := ftzOf x.f.fmode, nanpol := bit x.f.fmode 7,
                          fmt, dim, scale := fld (dw ws 1) 31 0, tstr, kofs := fld w4 31 16, vofs := fld w4 47 32, t0, n, blocks,
                          queries := chunks (dim * attnBytes fmt) nq qs, out := out.segs,
                          left := slices.flatMap fun k => (List.range nq).map fun q => (k, q), accs := List.replicate nq empty }
        let k := s.core x.c
        .ok { s := s.setCore x.c { k with attns := k.attns ++ [j] }, writes := [.g x.w.d 0], await := true }

/-- `SATTN` (R366). -/
def sattnBody (x : Ctx) (s : State) : Body :=
  let hi := hidx x.w.imm
  let r := x.res s
  let one (off n align : Nat) (k : Kind) (go : State → Acc → Body) : Body :=
    match s.check x.c r x.sid hi off n align k [1, 2] true 0 with
    | .error b => barBody s hi off 0 b
    | .ok (s, a) => go s a
  let rd (s : State) (a : Acc) (off : Nat) (go : State → List Byte → Body) : Body :=
    match s.read a with
    | none => .trap 0x16 (handleVal hi off) 0
    | some (s, bs) => go s bs
  if !(s.die (sidDie (x.streamId (x.g x.w.b)))).on then x.give s (refused Ref.off)
  else one x.off 64 64 .rmw fun s a => rd s a x.off fun s bs =>
    let ws := wordsOf bs
    if attnBad ws then x.give s (refused Ref.parm)
    else
      let w0 := dw ws 0
      let dim := 64 * 2 ^ fld w0 47 46
      let nq := fld w0 45 40 + 1
      one (fld w0 19 0) (nq * dim * attnBytes (fld w0 50 48)) 16 .load fun s qa => rd s qa (fld w0 19 0) fun s qs =>
        one (fld w0 39 20) (nq * (16 + 4 * dim)) 16 .store fun _ oa => attnStart x s ws qs oa

/-- The elements of bytes, decoded. -/
def attnElems (fmt : Nat) (ftz : Bool) (n : Nat) (bs : List Byte) : List Ex :=
  (List.range n).map fun i => decodeF fmt ftz (ofLe ((bs.drop (i * attnBytes fmt)).take (attnBytes fmt)))

/-- Merge code triples (R367). -/
def Attn.merge (j : Attn) (a b : Nat × Nat × List Nat) : (Nat × Nat × List Nat) × BitVec 7 :=
  let e (c : Nat) := decodeF 0 j.ftz c
  triMerge j.nanpol j.mode j.ftz (e a.1) (e a.2.1) (e b.1) (e b.2.1) ((a.2.2.map e).zip (b.2.2.map e))

/-- One token: its key and value bytes merged into a slice's triple of a query. -/
def Attn.token (j : Attn) (q : List Ex) (a : (Nat × Nat × List Nat) × BitVec 7) (kv : List Byte × List Byte) : (Nat × Nat × List Nat) × BitVec 7 :=
  let ps := (q.zip (attnElems j.fmt j.ftz j.dim kv.1)).map fun p => p.1.mul p.2
  let (dot, f1) := exSum j.mode (ps.map (·.1))
  let (x, f2) := (decodeF 0 j.ftz j.scale).mul dot
  let (s, f3) := roundS j.mode j.ftz (x, ps.foldl (fun a p => a ||| p.2) (f1 ||| f2))
  let vs := (attnElems j.fmt j.ftz j.dim kv.2).map fun v => (convertF 0 0 false j.ftz 0 v).1
  let (t, f4) := j.merge a.1 (s, 0x3F800000, vs)
  (t, a.2 ||| f3 ||| f4)

/-- What reading a slice's tokens gives. -/
inductive Tokens where
  | got (s : State) (xs : List (List Byte × List Byte))
  | wait (s : State)
  /-- They cannot be read; `consumed`: one holds an uncorrectable error. -/
  | bad (consumed : Bool)
  /-- The home of one is fenced (R443). -/
  | nack (die : Nat)

/-- Read the tokens of a slice at their frame homes. -/
def State.attnTokens (s : State) (j : Attn) (ts : List Nat) : Tokens :=
  match ts with
  | [] => .got s []
  | t :: r =>
    let a := t * j.tstr
    let n := j.dim * attnBytes j.fmt
    match s.readBlock j.sid (a / 32768) with
    | .hold s => .wait s
    | .refuse _ => .bad false
    | .moved _ _ => .bad false
    | .at_ pl s =>
      let home := homeOf spStrm 0 a pl
      if s.sliceFenced home.1 home.2 then .nack home.1
      else
      let o := a % 32768
      let kv : Option (List Byte × List Byte) := match pl with
        | none => some (zeros n, zeros n)
        | some p =>
          if s.isBad (p + o + j.kofs) n || s.isBad (p + o + j.vofs) n then none
          else some (s.homeRead j.key (p + o + j.kofs) n, s.homeRead j.key (p + o + j.vofs) n)
      match kv with
      | none => .bad true
      | some kv => match s.attnTokens j r with
        | .got s xs => .got s (kv :: xs)
        | .wait s => .wait s
        | .bad b => .bad b
        | .nack die => .nack die

/-- Give the awaited result of register `d` of a slot its value. -/
def State.fillResult (s : State) (c k : Nat) (d : BitVec 6) (v : Word) : State :=
  match s.firing c k with
  | none => s
  | some f => s.setFiring c k { f with flight := f.flight.map fun r =>
      if r.await && r.load == 0 && (r.writes.any (fun w => w.reg == (0, d.toNat)) || r.writes.isEmpty) then { r with await := false, writes := if r.writes.isEmpty then [] else [.g d v] } else r }

/-- Replace a request of a core, or take it out. -/
def State.setAttn (s : State) (c n : Nat) (j : Option Attn) : State :=
  let x := s.core c
  s.setCore c { x with attns := match j with
    | some j => x.attns.set n j
    | none => x.attns.eraseIdx n }

/-- Write results into scratchpads: one of a fenced core answers negatively, and the task that asked is ended (R443). -/
def State.unlessWalled (s : State) (task : Nat) (xs : List (Option Nat × Nat)) (act : State → State) : State :=
  match xs.findSome? fun x => x.1.bind fun a => let c := (a - Loc.sp 0 0) / (Loc.sp 1 0 - Loc.sp 0 0)
      if (s.core c).fenced && !s.inColumn c then some (dieOf c) else none with
  | some die => (s.countNack die).endRunning task
  | none => act s

/-- `ATTN_TRIPLE_MERGE`: the triple of slice `k` ÷ 64 for query `k` mod 64 of request `n` of the current core arrives (R367). -/
def execAttnTripleMerge (s : State) : Host.Outcome State Fault Refusal :=
  let c := s.cur.core
  let sl := s.cur.k / 64
  let q := s.cur.k % 64
  .next (match (s.core c).attns[s.cur.n]? with
    | none => s
    | some j =>
      if !j.left.contains (sl, q) then s
      else
        match s.attnTokens j (((List.range j.n).map (· + j.t0)).filter fun t => mget j.blocks (t * j.tstr / 32768) == some sl) with
        | .wait s => s
        | .nack die => ((s.countNack die).fillResult c j.slot j.d (refused Ref.poison)).setAttn c s.cur.n none
        | .bad consumed =>
          let s := if consumed then { s with fenceReq := s.fenceReq ++ [c] } else s
          (s.fillResult c j.slot j.d (refused Ref.poison)).setAttn c s.cur.n none
        | .got s xs =>
          let qx := attnElems j.fmt j.ftz j.dim (j.queries.getD q [])
          let empty : Nat × Nat × List Nat := (0xFF800000, 0, List.replicate j.dim 0)
          let (tri, f1) := xs.foldl (j.token qx) (empty, 0)
          let (acc, f2) := j.merge (j.accs.getD q empty) tri
          let j := { j with left := j.left.erase (sl, q), accs := j.accs.set q acc, flags := j.flags ||| f1 ||| f2 }
          if !j.left.isEmpty then s.setAttn c s.cur.n (some j)
          else ((s.unlessWalled j.task j.out fun s => s.writePlaces 0 j.out (j.accs.flatMap attnResult)).fillResult c j.slot j.d (attnWord j.flags j.n)).setAttn c s.cur.n none)

def execSattn (w : Tolog) (s : State) := issue 0xE8 w s (atStream (·.b) sattnBody)

end Sys2Proof.Machine
end

