-- ==== Sys2Proof/Machine/Services.lean ====
section
/-! DEFINITION. Firmware services: `ECALL` (R124), the services of R429, and a table walk as a step of its own (R320 to R322). -/

namespace Sys2Proof.Machine

/-- Firmware does not run: the column restarts (R434), or its rectangle is fenced (R441). -/
def State.fwAway (s : State) : Bool := s.pkg.restarting || (dieCores 0).any fun c => s.inColumn c && (s.core c).fenced

/-- `ECALL`: a request outside the column meets the firewall (R431); a service that is not offered answers all ones. -/
def ecallBody (x : Ctx) (s : State) : Body :=
  let svc := fld x.w.imm 15 0
  let t := (s.task (x.res s).task).getD {}
  if !s.inColumn x.c && !bit (s.die 0).fwin 0 then
    .gone (s.raiseOpen x.c x.k 0x12)
  else if svc = 0 || 5 < svc then
    if s.fwAway then .wait s else .ok { s, writes := [.g x.w.d (BitVec.allOnes 64)] }
  else
    let k := s.core x.c
    let j : Call := { slot := x.k, d := x.w.d, svc, a := x.g x.w.a, b := x.g x.w.b, key := t.key, ctx := t.ctx }
    .ok { s := s.setCore x.c { k with calls := k.calls ++ [j] }, writes := [.g x.w.d 0], await := true }

def execEcall (w : Tolog) (s : State) := issue 0x30 w s ecallBody

/-- Answer request `n` of the current core, which asks for service `svc`, by `act`. -/
def serve (svc : Nat) (act : State → Nat → Call → Word × State) (s : State) : Host.Outcome State Fault Refusal :=
  let c := s.cur.core
  .next (match (s.core c).calls[s.cur.n]? with
    | none => s
    | some j =>
      if j.svc != svc || s.fwAway then s
      else
        let (v, s) := act s c j
        let k := s.core c
        (s.setCore c { k with calls := k.calls.eraseIdx s.cur.n }).fillResult c j.slot j.d v)

/-! ### The tables (R319, R320, R429) -/

/-- The level that holds the leaves of a page size. -/
def sizeLevel (size : Nat) : Nat := if size = 0 then 4 else if size = 1 then 3 else 2

/-- A table of its own for firmware: where it stands is a free value. -/
def State.newTable (s : State) : Nat × State :=
  let (fv, s) := s.free
  let a := fv % (1536 * 2 ^ 30 / 4096) * 4096
  (a, s.homeWrite 0 (Loc.phys a) (zeros 4096))

/-- Write a word of a table. -/
def State.setEntry (s : State) (a v : Nat) : State := s.homeWrite 0 (Loc.phys a) (leBytes 8 v)

/-- Whether a table at level `lvl` maps anything: a table of level 4 has 32 entries, another 512 (R320). -/
def State.mapsAny (s : State) (fuel lvl tbl : Nat) : Bool :=
  match fuel with
  | 0 => false
  | f + 1 => (List.range (if lvl = 4 then 32 else 512)).any fun i =>
    let e := wordOf (memRead s.mem (Loc.phys (tbl + 8 * i)) 8)
    bit e 0 && (bit e 1 || s.mapsAny f (lvl + 1) (fld e 51 8 * 256))

/-- Write a leaf at level `target` below the table at `tbl`; `none` where the address is mapped already. -/
def State.putLeaf (s : State) (fuel lvl target tbl va leaf : Nat) : Option State :=
  match fuel with
  | 0 => none
  | f + 1 =>
    let a := tbl + 8 * levelIdx lvl va
    let e := wordOf (memRead s.mem (Loc.phys a) 8)
    if lvl = target then
      (if bit e 0 && (bit e 1 || s.mapsAny f (lvl + 1) (fld e 51 8 * 256)) then none else some (s.setEntry a leaf))
    else if bit e 0 then (if bit e 1 then none else s.putLeaf f (lvl + 1) target (fld e 51 8 * 256) va leaf)
    else
      let (n, s) := s.newTable
      (s.setEntry a (n + 1)).putLeaf f (lvl + 1) target n va leaf

/-- Clear the leaf at level `target` that maps an address. -/
def State.dropLeaf (s : State) (fuel lvl target tbl va : Nat) : State :=
  match fuel with
  | 0 => s
  | f + 1 =>
    let a := tbl + 8 * levelIdx lvl va
    let e := wordOf (memRead s.mem (Loc.phys a) 8)
    if !bit e 0 then s
    else if lvl = target then (if bit e 1 then s.setEntry a 0 else s)
    else if bit e 1 then s
    else s.dropLeaf f (lvl + 1) target (fld e 51 8 * 256) va

/-- The root table of a context, which firmware makes where there is none. -/
def State.rootTable (s : State) (die ctx : Nat) : Nat × State :=
  let a := fld (s.die die).xlctx 51 12 * 4096 + 8 * ctx
  let e := wordOf (memRead s.mem (Loc.phys a) 8)
  if bit e 0 then (fld e 51 12 * 4096, s)
  else
    let (n, s) := s.newTable
    (n, s.setEntry a (n + 1))

/-- Whether [pa, pa + n) lies in a range allotted to a key. -/
def State.allotted (s : State) (key pa n : Nat) : Bool := (mgetD s.pkg.allot key []).any fun r => r.1 ≤ pa && pa + n ≤ r.1 + r.2

/-- `MAP` for a call from core `c`. The spec gives no reply for the size code 11: it is a free value. -/
def mapService (s : State) (c : Nat) (j : Call) : Word × State :=
  let size := fld j.b 1 0
  let va := fld j.a 56 0
  let pa := fld j.b 51 8 * 256
  let n := leafSize (sizeLevel size)
  if size = 3 then
    let (v, s) := s.free
    (wd v, s)
  else if pa % n != 0 || !s.allotted j.key pa n then (1, s)
  else
    let (root, s) := s.rootTable (dieOf c) j.ctx
    match s.putLeaf 5 0 (sizeLevel size) root va (pa + fld j.b 3 2 * 4 + 3) with
    | some s => (0, s)
    | none => (2, s)

/-- `UNMAP` for a call from core `c`: the entry goes, and every TLB's copy (R324). -/
def unmapService (s : State) (c : Nat) (j : Call) : Word × State :=
  let size := fld j.b 1 0
  let va := fld j.a 56 0
  if size = 3 then
    let (v, s) := s.free
    (wd v, s)
  else
    let a := fld (s.die (dieOf c)).xlctx 51 12 * 4096 + 8 * j.ctx
    let e := wordOf (memRead s.mem (Loc.phys a) 8)
    let s := if bit e 0 then s.dropLeaf 5 0 (sizeLevel size) (fld e 51 12 * 4096) va else s
    (0, s.invalidateTlbs j.ctx va (some (leafSize (sizeLevel size))))

/-- Restart the helpers that a mask names: at address 0 with their stores unchanged; a held one stays held (R46, R205). -/
def Core.restartHelpers (x : Core) (mask : Nat) : Core :=
  { x with helpers := Vector.ofFn fun (h : Fin 2) =>
      let y := x.helpers[h]
      if mask / 2 ^ h.val % 2 = 1 && !y.held then { held := false } else y }

/-- `MAP`: request `n` of the current core. -/
def execMap (s : State) : Host.Outcome State Fault Refusal := serve 1 mapService s
/-- `UNMAP`. -/
def execUnmap (s : State) : Host.Outcome State Fault Refusal := serve 2 unmapService s
/-- `KEYQ`. -/
def execKeyq (s : State) : Host.Outcome State Fault Refusal := serve 3 (fun s _ j => (wb (s.keyLoaded j.a.toNat), s)) s
/-- `HRST`: the helpers of the calling core. -/
def execHrst (s : State) : Host.Outcome State Fault Refusal :=
  serve 4 (fun s c j => (0, s.setCore c ((s.core c).restartHelpers (fld j.b 1 0)))) s
/-- `PREEMPT`: a task of the caller's key. -/
def execPreempt (s : State) : Host.Outcome State Fault Refusal :=
  serve 5 (fun s _ j => match s.task j.a.toNat with
    | none => (1, s)
    | some t =>
      if t.key != j.key then (1, s)
      else match s.requestPreempt j.a.toNat with
        | (.refused, s) => (1, s)
        | (_, s) => (0, s)) s

/-- `TABLE_WALK`: a walk for a party of the current core fills its TLBs, or fails (R320 to R322). -/
def execTableWalk (ctx va : Nat) (wr ilv : Bool) (s : State) : Host.Outcome State Fault Refusal :=
  .next (match s.xlate s.cur.core ctx va (!wr) wr ilv with
    | .ok (s, _) => s
    | .error _ => s)

end Sys2Proof.Machine
end

