-- ==== Sys2Proof/Machine/Loader.lean ====
section
/-! DEFINITION. Loading a container (R46, R427, R428) and measuring it (R432). -/

namespace Sys2Proof

open Sys2Proof.Machine

/-! ### What the sections hold (R427) -/

/-- The type number of a section. -/
def Section.code (x : Section) : Nat :=
  match x with
  | .image _ _ _ => 1
  | .roles _ => 2
  | .placement _ => 3
  | .bootTree _ => 4
  | .signatures _ _ => 5
  | .types _ => 6
  | .graphs => 7
  | .handles _ => 8
  | .helpers _ _ _ _ _ => 9
  | .garbled => 0

/-- What a section adds to image `i`: signatures, and the contents of the helpers' stores. -/
def Section.toImage (x : Section) (i : Nat) (m : Image) : Image :=
  match x with
  | .signatures k bs => if k = i then { m with sigs := m.sigs ++ bs } else m
  | .helpers k a b c d => if k = i then { m with ldCode := a, ldData := b, stCode := c, stData := d } else m
  | _ => m

def Section.images (x : Section) : List Image := match x with
  | .image code data actors => [{ code, data, actors }]
  | _ => []
def Section.roleList (x : Section) : List (Nat × Nat) := match x with
  | .roles rs => rs
  | _ => []
def Section.places (x : Section) : List Placement := match x with
  | .placement ps => ps
  | _ => []
def Section.tree (x : Section) : List (Nat × Nat × Nat × Nat) := match x with
  | .bootTree es => es
  | _ => []
def Section.typeList (x : Section) : List (Nat × List Word) := match x with
  | .types ts => ts
  | _ => []
def Section.tables (x : Section) : List HandleImage := match x with
  | .handles ts => ts
  | _ => []

/-- The images, each with its signatures and helper images. -/
def Container.images (x : Container) : List Image :=
  let ms := x.sections.flatMap Section.images
  (ms.zip (List.range ms.length)).map fun m => x.sections.foldl (fun a b => b.toImage m.2 a) m.1
def Container.roles (x : Container) : List (Nat × Nat) := x.sections.flatMap Section.roleList
def Container.places (x : Container) : List Placement := x.sections.flatMap Section.places
def Container.boot (x : Container) : List (Nat × Nat × Nat × Nat) := x.sections.flatMap Section.tree
def Container.types (x : Container) : List (Nat × List Word) := x.sections.flatMap Section.typeList
def Container.tables (x : Container) : List HandleImage := x.sections.flatMap Section.tables

/-- The container as far as its first `n` sections go, but with every image and role. -/
def Container.upTo (x : Container) (n : Nat) : Container :=
  { x with sections := x.sections.take n ++ (x.sections.drop n).filter fun a => [1, 2, 5, 9].contains a.code }

/-- The first section with which a check fails: `bad n` judges the first `n`. -/
def Container.failing (x : Container) (bad : Nat → Bool) : Option Nat := (List.range x.sections.length).find? fun i => bad (i + 1)

/-! ### Checks (R428) -/

/-- Whether an output breaks R75 against the images of its container: its rate is at least 1 and at most the depth of the input it is bound to. -/
def outputBad (ms : List Image) (o : OutDecl) : Bool :=
  o.rate == 0 || 4 ≤ o.ch || 4 ≤ o.tch || match (ms[o.image]?).bind fun m => (m.actors[o.actor]?).bind fun a => a.ins.find? (·.ch == o.tch) with
    | some i => i.depth < o.rate
    | none => true

/-- Whether an image's channels break R75. -/
def channelsBad (ms : List Image) (actors : List ActorDecl) : Bool :=
  actors.any fun a => a.ins.any (fun i => i.rate == 0 || i.depth < i.rate || 256 < i.depth || 4 ≤ i.cls || 4 ≤ i.ch) || a.outs.any (outputBad ms)

/-- Whether a list holds an element twice. -/
def hasTwice (xs : List Nat) : Bool :=
  match xs with
  | [] => false
  | x :: t => t.contains x || hasTwice t

/-- Whether a handle-table image is malformed (R427): an index twice or beyond 255, or a task that the container does not have. -/
def HandleImage.bad (h : HandleImage) (graphs : List Graph) : Bool :=
  hasTwice (h.entries.map (·.1)) || h.entries.any (fun e => 256 ≤ e.1) || h.addr % 32 != 0 || match graphs[h.graph]? with
    | some g => g.tasks.length ≤ h.task
    | none => true

/-- Whether a section is malformed: channels, a role without an image, a placement of no role, signatures or helpers of no image, and
handle-table images. -/
def Container.malformed (x : Container) (graphs : List Graph) (a : Section) : Bool :=
  match a with
  | .image _ _ actors => channelsBad x.images actors
  | .roles rs => rs.any fun r => x.images.length ≤ r.2
  | .placement ps => ps.any fun p => !x.roles.any fun r => r.1 == p.role
  | .bootTree _ => false
  | .signatures i _ => x.images.length ≤ i
  | .types _ => false
  | .graphs => false
  | .handles ts => ts.any (·.bad graphs)
  | .helpers i _ _ _ _ => x.images.length ≤ i
  | .garbled => true

/-- Whether a placement lies on its die. -/
def Placement.ok (p : Placement) : Bool := p.die < 8 && p.x0 ≤ p.x1 && p.x1 < 16 && p.y0 ≤ p.y1 && p.y1 < 12

/-- The cores of a placement. -/
def Placement.cores (p : Placement) : List CoreId :=
  (List.range (p.y1 + 1 - p.y0)).flatMap fun dy => (List.range (p.x1 + 1 - p.x0)).map fun dx => coreAt p.die (p.y0 + dy) (p.x0 + dx)

/-- The image of a role, by its index in the container. -/
def Container.roleImage (x : Container) (r : Nat) : Option Nat := (x.roles.find? (·.1 == r)).map (·.2)

/-- The cores placed, each with its image. -/
def Container.placed (x : Container) : List (CoreId × Nat) :=
  x.places.flatMap fun p => match x.roleImage p.role with
    | some i => p.cores.map fun c => (c, i)
    | none => []

/-- The cores that an entry of the boot tree forwards to. -/
def bootSends (e : Nat × Nat × Nat × Nat) : List CoreId :=
  (List.range 4).filterMap fun d => if e.2.2.2 / 2 ^ d % 2 = 1 then neighbour (coreAt e.1 e.2.2.1 e.2.1) d else none

/-- The core of an entry. -/
def bootCore (e : Nat × Nat × Nat × Nat) : CoreId := coreAt e.1 e.2.2.1 e.2.1

/-- The cores that the boot tree reaches from `seen` on. -/
def bootReach (tree : List (Nat × Nat × Nat × Nat)) (fuel : Nat) (seen : List CoreId) : List CoreId :=
  match fuel with
  | 0 => seen
  | f + 1 =>
    let next := (tree.filter fun e => seen.contains (bootCore e)).flatMap bootSends
    let new := (next.filter fun c => !seen.contains c).eraseDups
    if new.isEmpty then seen else bootReach tree f (seen ++ new)

/-- Whether a placed core is reached twice, or not at all. -/
def Container.treeBad (x : Container) : Bool :=
  let sent := x.boot.flatMap bootSends
  let roots := (x.boot.map bootCore).filter fun c => !sent.contains c
  let seen := bootReach x.boot 1537 roots
  let arrives := (x.boot.filter fun e => seen.contains (bootCore e)).flatMap bootSends
  x.placed.any fun c => !seen.contains c.1 || 1 < arrives.count c.1 + (if roots.contains c.1 then 1 else 0)

/-- The images as they are kept: their numbers begin at `base`. -/
def Container.kept (x : Container) (base : Nat) : List (Nat × Image) :=
  (x.images.zip (List.range x.images.length)).map fun m => (base + m.2, { m.1 with
    actors := m.1.actors.map fun a => { a with outs := a.outs.map fun o => { o with image := base + o.image } } })

/-- A task-type entry of the container (R282). -/
def Container.typeOf (x : Container) (base owner : Nat) (ws : List Word) : TaskType :=
  { words := ws, owner, roles := (List.range 16).map fun b => (x.roleImage (tyF ws (2 + b / 8) (8 * (b % 8) + 7) (8 * (b % 8)))).map (base + ·) }

/-- Whether a graph breaks R422. -/
def Graph.bad (g : Graph) : Bool :=
  g.tasks.isEmpty || 4096 < g.tasks.length || 4096 < g.np || 2 ^ 57 ≤ g.gdone || 2 ^ 57 ≤ g.grec || g.grec % 64 != 0 ||
  (g.tasks.zip (List.range g.tasks.length)).any fun t => 8 < t.1.npred || 16 ≤ t.1.dsel || t.1.desc.length != 80 || t.1.preds.any fun p => t.2 ≤ p

end Sys2Proof

namespace Sys2Proof.Machine

/-! ### The bytes of a container (R422, R427) -/

/-- The word at a physical address of HBM, as a key reads it. -/
def State.hbmWord (s : State) (key pa : Nat) : Word := dw (wordsOf (s.homeRead key (Loc.phys pa) 8)) 0

/-- Entry `i` of the section table, which follows header word 0: type, offset and length. -/
def State.sectionAt (s : State) (key pa i : Nat) : Nat × Nat × Nat :=
  let w := s.hbmWord key (pa + 8 + 16 * i)
  (fld w 63 56, fld w 55 0, (s.hbmWord key (pa + 16 + 16 * i)).toNat)

/-- The first section that the header or the section table gets wrong: version 1, a length within HBM that holds the table, and sections of
the operand's types within the length. A header that is wrong counts for section 0. -/
def State.headerBad (s : State) (key pa : Nat) (x : Container) : Option Nat :=
  let w := s.hbmWord key pa
  let len := 4096 * fld w 31 0
  if fld w 63 48 != 1 || 1536 * 2 ^ 30 < pa + len || len < 8 + 16 * fld w 47 32 then some 0
  else if fld w 47 32 != x.sections.length then some 0
  else (List.range x.sections.length).find? fun i =>
    let e := s.sectionAt key pa i
    len < e.2.1 + e.2.2 || match x.sections[i]? with
      | some a => a.code != e.1
      | none => true

/-- The task entry of a graph object at `a` (R422). -/
def State.graphTask (s : State) (key a : Nat) : GraphTask :=
  let w := s.hbmWord key (a + 640)
  let ps := (List.range 8).map fun i => fld (s.hbmWord key (a + 648 + 8 * (i / 4))) (16 * (i % 4) + 15) (16 * (i % 4))
  { desc := (List.range 80).map fun i => s.hbmWord key (a + 8 * i)
    dsel := fld w 11 8
    npred := fld w 3 0
    preds := ps.take (fld w 3 0) }

/-- The graph object at `a` (R422). -/
def State.graphAt (s : State) (key a : Nat) : Graph :=
  let w := s.hbmWord key a
  { np := fld w 47 32
    gdone := (s.hbmWord key (a + 8)).toNat
    gval := s.hbmWord key (a + 16)
    grec := (s.hbmWord key (a + 24)).toNat
    tasks := (List.range (fld w 63 48)).map fun t => s.graphTask key (a + 64 + 768 * t) }

/-- The graph objects in `n` bytes at `a`; `none` where the bytes end within one. -/
def State.graphsIn (s : State) (key fuel a n : Nat) : Option (List Graph) :=
  match fuel with
  | 0 => if n = 0 then some [] else none
  | f + 1 =>
    let size := 64 + 768 * fld (s.hbmWord key a) 63 48
    if n = 0 then some []
    else if n < 64 || n < size then none
    else (s.graphsIn key f (a + size) (n - size)).map (s.graphAt key a :: ·)

/-- The graph objects of section `i`, if it holds any. -/
def State.sectionGraphs (s : State) (key pa i : Nat) : Option (List Graph) :=
  let e := s.sectionAt key pa i
  if e.1 != 7 then some [] else s.graphsIn key (e.2.2 / 64) (pa + e.2.1) e.2.2

/-- The graph objects of the first `n` sections. -/
def State.graphsOf (s : State) (key pa n : Nat) : List Graph := (List.range n).flatMap fun i => (s.sectionGraphs key pa i).getD []

/-! ### What refuses a container (R428) -/

/-- Whether the placement is refused. -/
def State.placesBad (s : State) (x : Container) : Bool :=
  x.places.any (fun p => !p.ok) || hasTwice (x.placed.map (·.1)) ||
  x.placed.any fun c => !s.inColumn c.1 && match x.images[c.2]? with
    | some m => m.actors.any (·.priv)
    | none => false

/-- Whether an entry with `V` = 1 is refused. -/
def State.typeBad (s : State) (x : Container) (images : SMap Image) (base owner : Nat) (t : Nat × List Word) : Bool :=
  bit (t.2.getD 0 0) 63 && (1024 ≤ t.1 || !typeOk images (x.typeOf base owner t.2) || match mget s.pkg.types t.1 with
    | some o => o.owner != owner
    | none => false)

/-- The lowest run of `n` free graph ids. -/
def Pkg.graphRun (p : Pkg) (n : Nat) : Option Nat :=
  let i := p.graphs.foldl (fun i g => if i + n ≤ g.1 then i else g.1 + 1) 0
  if i + n ≤ 4096 then some i else none

/-- The number that the images of a container begin at. -/
def Pkg.nextImage (p : Pkg) : Nat := p.images.foldl (fun m i => max m (i.1 + 1)) 0

/-- Whether a container is signed: its signature verifies under a key that the configuration table lists (R430), and its bytes can be read. -/
def State.containerSigned (s : State) (key pa : Nat) (x : Container) : Bool :=
  (match x.signer with
  | some k => s.pkg.boot.signers.contains k
  | none => false) && !s.isBad (Loc.phys pa) (4096 * fld (s.hbmWord key pa) 31 0)

/-- The first section that is malformed. -/
def State.malformedAt (s : State) (key pa : Nat) (x : Container) : Option Nat :=
  match s.headerBad key pa x with
  | some i => some i
  | none =>
    let gs := s.graphsOf key pa x.sections.length
    (List.range x.sections.length).find? fun i => (s.sectionGraphs key pa i).isNone || match x.sections[i]? with
      | some a => x.malformed gs a
      | none => true

/-- Why the container at `pa` is refused: its status and the first section that fails. -/
def State.containerBad (s : State) (key pa : Nat) (x : Container) : Option (Nat × Nat) :=
  let base := s.pkg.nextImage
  let images := s.pkg.images ++ x.kept base
  let types (n : Nat) : Bool := (x.upTo n).types.any (s.typeBad x images base key)
  let graphs (n : Nat) : Bool := (s.graphsOf key pa n).any Graph.bad || (s.pkg.graphRun (s.graphsOf key pa n).length).isNone
  if !s.containerSigned key pa x then some (1, 0)
  else match s.malformedAt key pa x, x.failing fun n => s.placesBad (x.upTo n) with
    | some i, _ => some (2, i)
    | none, some i => some (3, i)
    | none, none =>
      if x.treeBad then some (4, (x.sections.findIdx? (·.code == 4)).getD 0)
      else match x.failing types, x.failing graphs with
        | some i, _ => some (5, i)
        | none, some i => some (6, i)
        | none, none => none

/-! ### Loading -/

/-- Fill a store of `n` bytes. -/
def State.fillStore (s : State) (a n : Nat) (bs : List Byte) : State :=
  { s with mem := memWrite (memZero s.mem a n) a (bs.take n), bad := s.bad.filter fun b => !(a ≤ b && b < a + n) }

/-- A helper whose stores have been filled: held where its image carries no code (R46). -/
def State.startHelper (s : State) (c h : Nat) (code data : List Byte) : State :=
  let s := (s.fillStore (Loc.hcode c h 0) 16384 code).fillStore (Loc.hdata c h 0) 8192 data
  let x := s.core c
  s.setCore c { x with helpers := Vector.ofFn fun (i : Fin 2) => if i.val = h then { held := code.isEmpty } else x.helpers[i] }

/-- Load an image into a core. -/
def State.loadCore (s : State) (c i : Nat) (m : Image) : State :=
  let s := s.fillStore (Loc.istore c 0) 262144 m.code
  let s := (s.startHelper c 0 m.ldCode m.ldData).startHelper c 1 m.stCode m.stData
  { s with pkg := { s.pkg with placed := mset s.pkg.placed c i } }

/-- `NH` of a handle-table image: it reaches to its highest entry. -/
def tableSize (h : HandleImage) : Nat := h.entries.foldl (fun n e => max n (e.1 + 1)) 0

/-- The words of a handle-table image; an index without an entry holds zeros, which are invalid (R183). -/
def tableWords (h : HandleImage) : List Word :=
  (List.range (tableSize h)).flatMap fun i => match h.entries.find? (·.1 == i) with
    | some e => (List.range 4).map fun k => dw e.2 k
    | none => List.replicate 4 0

/-- Firmware writes a handle-table image under the queue's key (R45; where it stands is notes/assumptions/123.md). -/
def State.writeHandles (s : State) (ctx key : Nat) (h : HandleImage) : State :=
  s.unlessFenced h.addr (32 * tableSize h) fun s => (s.devWrite 0 ctx key h.addr (bytesOf (tableWords h))).getD s

/-- Fill `HTAB`, `KEY` and `NH` of the task that a handle-table image is for (R45). -/
def fillTask (key g : Nat) (hs : List HandleImage) (t : Nat) (x : GraphTask) : GraphTask :=
  match hs.find? fun h => h.graph == g && h.task == t with
  | none => x
  | some h => { x with desc := (x.desc.set 2 (wd h.addr)).set 3 (wd (key % 1024 * 2 ^ 54 + tableSize h)) }

/-- Fill the tasks of the container's graph `i`. -/
def fillGraph (key : Nat) (hs : List HandleImage) (i : Nat) (g : Graph) : Graph :=
  { g with tasks := (g.tasks.zip (List.range g.tasks.length)).map fun t => fillTask key i hs t.2 t.1 }

/-- Measure an accepted container (R432): the first 237 at 16 to 252; each later one extends the chain at 253, which begins with zeros, by its
digest (notes/assumptions/125.md). -/
def State.measure (s : State) (bs : List Byte) : State :=
  let n := s.pkg.measured
  let d := sha3 bs
  let m := if n < 237 then mset s.pkg.meas (16 + n) d else mset s.pkg.meas 253 (sha3 (leBytes 64 (mgetD s.pkg.meas 253 0) ++ leBytes 64 d))
  { s with pkg := { s.pkg with meas := m, measured := n + 1 } }

/-- Load an accepted container, with its graphs and its bytes, for a queue: the first graph id and the state. -/
def State.accept (s : State) (ctx key : Nat) (x : Container) (gs : List Graph) (bs : List Byte) : Nat × State :=
  let base := s.pkg.nextImage
  let g0 := (s.pkg.graphRun gs.length).getD 0
  let ms := x.kept base
  let types := (x.types.filter fun t => bit (t.2.getD 0 0) 63).foldl (fun m t => mset m t.1 (x.typeOf base key t.2)) s.pkg.types
  let graphs := (gs.zip (List.range gs.length)).foldl (fun m g => mset m (g0 + g.2) ({ graph := fillGraph key x.tables g.2 g.1, owner := key } : GraphObj)) s.pkg.graphs
  let s := { s with pkg := { s.pkg with
    images := s.pkg.images ++ ms
    types := types
    graphs := graphs } }
  let s := x.placed.foldl (fun s c => match mget ms (base + c.2) with
    | some m => s.loadCore c.1 (base + c.2) m
    | none => s) s
  let s := x.tables.foldl (fun s h => s.writeHandles ctx key h) s
  (g0, s.measure bs)

/-- The load record. -/
def loadRecord (status sect count first : Nat) : List Byte :=
  leBytes 8 (0x09 * 2 ^ 56 + status % 256 * 2 ^ 48 + sect % 256 * 2 ^ 40 + count % 4096 * 2 ^ 16 + first % 4096)

/-- `LOAD`: an entry of queue `n`, whose container is `x`. It waits while firmware is away (R434, R441). -/
def execLoad (x : Container) (s : State) : Host.Outcome State Fault Refusal :=
  queueStep 5 (fun s _ q ws =>
    let pa := fld (dw ws 1) 51 0
    let rec_ := fld (dw ws 2) 56 0
    if s.fwAway then .wait
    else if pa % 4096 != 0 || 1536 * 2 ^ 30 < pa + 4096 || rec_ % 64 != 0 then .refuse 0x05 s
    else match s.rangeNack rec_ 64, s.hostPlace q.ctx q.key rec_ with
      | some die, _ => .refuse 0x05 (s.countNack die)
      | none, none => .refuse 0x05 s
      | none, some a => match s.containerBad q.key pa x with
        | some (st, sect) => .refuse 0x07 (s.homeWrite q.key a (loadRecord st sect 0 0))
        | none =>
          let gs := s.graphsOf q.key pa x.sections.length
          let (g0, s) := s.accept q.ctx q.key x gs (s.homeRead q.key (Loc.phys pa) (4096 * fld (s.hbmWord q.key pa) 31 0))
          .done (s.homeWrite q.key a (loadRecord 0 0 gs.length g0))) s

end Sys2Proof.Machine
end

