-- ==== Sys2Proof/Machine/Park.lean ====
section
/-! DEFINITION. Parking: `SPARK` and `SWAKE` (R398, R406), wakes (R399, R401), the timers and moves of the talus ladder (R402, R403)
and staged promotion (R404, R405, R409). -/

namespace Sys2Proof.Machine

/-! ### Records -/

/-- The own frames of a stream (R397). -/
def State.ownFrames (s : State) (g : Nat) : List Mapping := (s.die (sidDie g)).ipt.filter fun m => m.holder == g && !m.al && m.rc == 1

/-- Write a record with its counts as they are now (R396, R402). -/
def State.putPark (s : State) (i : Nat) (p : Park) : State :=
  let own := s.ownFrames p.sid
  s.setPark i (some { p with
    nloc := (own.filter fun m => m.tier < 2).length
    ncxl := (own.filter fun m => m.tier == 2).length
    nfl := (own.filter fun m => m.tier == 3).length })

/-- Insert a number in ascending order. -/
def inOrder (b : Nat) (bs : List Nat) : List Nat :=
  match bs with
  | [] => [b]
  | c :: t => if b ≤ c then b :: c :: t else c :: inOrder b t

/-- The blocks of own frames that `p` admits, ascending. -/
def State.ownBlocks (s : State) (g : Nat) (p : Mapping → Bool) : List Nat := (((s.ownFrames g).filter p).map (·.block)).foldr inOrder []

/-- `park(S)` of R398. -/
def State.parkNow (s : State) (i : Nat) (p : Park) : State :=
  match s.stream p.sid with
  | none => s
  | some e => (s.setStream p.sid { e with state := .parked }).putPark i { p with state := 2, stage := 0, anchor := usOf s.clk, steps := 0, todo := [] }

/-- A free park record; which is a free choice (R341). -/
def State.freePark (s : State) : Option (Nat × State) :=
  let (fv, s) := s.free
  let n := 1048576
  match mfree s.pkg.parks (fv % n) (s.pkg.parks.length + 1) with
  | some i => if i < n then some (i, s) else ((mfree s.pkg.parks 0 (s.pkg.parks.length + 1)).filter (· < n)).map fun i => (i, s)
  | none => none

/-- `SPARK` (R398). -/
def sparkBody (x : Ctx) (s : State) : Body :=
  let hi := hidx x.w.imm
  let v := x.g x.w.c
  let t := x.g x.w.e
  if !(s.die (sidDie (x.streamId (x.g x.w.b)))).on then x.give s (refused Ref.off)
  else match s.check x.c (x.res s) x.sid hi x.off 1 1 .watch [4] true 0 with
    | .error b => barBody s hi x.off 0 b
    | .ok (s1, a) => x.withStream s (x.g x.w.b) fun g e =>
      let tcx := if fld t 31 0 = 0 then fld s.pkg.pktcxl 31 0 else fld t 31 0
      let tfl := if fld t 63 32 = 0 then fld s.pkg.pktflash 31 0 else fld t 63 32
      if !bit s.pkg.pkcfg 0 || (e.state != .ready && e.state != .running) || e.ppnd || (s.parkOf g).isSome then x.give s (refused Ref.state)
      else if 7 < e.qcnt then x.give s (refused Ref.full)
      else if tfl ≤ tcx || fld v 63 41 != 0 || fld v 31 25 != 0 || 256 < fld v 40 32 then x.give s (refused Ref.parm)
      else match s1.freePark with
        | none => x.give s (refused Ref.full)
        | some (i, s) =>
          let p : Park := { state := 1, sid := g, wake := a.addr / 64 * 64, tfl, tcx, hcnt := fld v 40 32, hfirst := fld v 24 0, key := e.key,
                            place := a.place / 64 * 64, lineKey := a.key % 1024 }
          let s := (s.putPark i p).addWatch p.wake p.place i
          x.give (if e.state = .ready then s.parkNow i p else s) (wd i)

/-! ### Wakes (R399, R401) -/

/-- A promotion begins (R404). -/
def Park.promote (p : Park) (state : Nat) : Park := { p with state, stage := 1, todo := p.todo.take (if p.kept.isEmpty then 0 else 1), wanted := [], ext := none }

/-- The stream is ready at its node, and the batcher may gather it. -/
def State.streamReady (s : State) (g : Nat) : State :=
  match s.stream g with
  | some e => if e.state == .parked then s.setStream g { e with state := .ready, readyAt := s.clk } else s
  | none => s

/-- Whether the stream of a record is on its way to another package: the record's timers stop, and a wake waits (R462). -/
def State.leaving (s : State) (p : Park) : Bool := match s.stream p.sid with
  | some e => e.state == .migrating
  | none => false

/-- Note a wake that is still to act. -/
def State.noteWake (s : State) (i : Nat) : State :=
  if s.pkg.wakes.contains i then s else { s with pkg := { s.pkg with wakes := s.pkg.wakes ++ [i] } }

/-- What a wake does to its record (R401). -/
def State.wake (s : State) (i : Nat) : State :=
  match mget s.pkg.parks i with
  | none => s
  | some p =>
    if s.leaving p then s.noteWake i
    else match p.state with
    | 1 => ((s.dropWatch i).setPark i none).streamIdle 0 p.sid
    | 2 => (s.dropWatch i).putPark i (p.promote 4)
    | 3 =>
      let s := (s.dropWatch i).putPark i { p with state := 3 + p.stage }
      if p.stage = 3 then s.streamReady p.sid else s
    | _ => s

/-- The park index that the watch of a stub carries, from its old id on (R464). -/
def stubMark : Nat := 2 ^ 20

/-- The wake of a stub's line goes to the stream's new package, once its park index there is known (R464). -/
def State.wakeStub (s : State) (g : Nat) : State :=
  match s.stub g with
  | none => s
  | some t => match t.pidx with
    | none => s.noteWake (stubMark + g)
    | some i => s.fabSend { cls := 4, dpkg := t.pkg, spkg := s.pkgId, part := fld s.pkg.fabcfg 47 32, key := t.key, pidx := i, data := zeros 64 }

/-- `WAKE`: the wake of park record `n`, or of a stub, once its line has been written. -/
def execWake (s : State) : Host.Outcome State Fault Refusal :=
  let n := s.cur.n
  .next (if s.pkg.wakes.contains n then
      let s := { s with pkg := { s.pkg with wakes := s.pkg.wakes.erase n } }
      if n < stubMark then s.wake n else s.wakeStub (n - stubMark)
    else s)

/-- `SWAKE` (R406). -/
def swakeBody (act : State → Nat → Park → State) (x : Ctx) (s : State) : Body :=
  .ok { s := match x.stream s (x.g x.w.a) with
    | .error _ => s.pkRefused
    | .ok (g, _) => match s.parkOf g with
      | none => s.pkRefused
      | some (i, p) => act s i p }

/-- `SWAKE.pre`. -/
def State.prePromote (s : State) (i : Nat) (p : Park) : State := if p.state = 2 then s.putPark i (p.promote 3) else s

/-- `SWAKE.ext` by `us` microseconds. -/
def State.extendPark (s : State) (us i : Nat) (p : Park) : State :=
  match p.state with
  | 2 => s.putPark i { p with anchor := (usOf s.clk + us) % 2 ^ 48, steps := 0, todo := p.todo.take (if p.kept.isEmpty then 0 else 1) }
  | 3 => s.putPark i { p with ext := some us }
  | _ => s

/-- Whether a pending record parks its stream now (R398). -/
def State.parkDue (s : State) (p : Park) : Bool :=
  p.state == 1 && match s.stream p.sid with
    | some e => e.state == .running && !e.ppnd && !s.actedFor p.sid 0
    | none => false

/-- `PENDING_PARK`: record `n`. -/
def execPendingPark (s : State) : Host.Outcome State Fault Refusal :=
  .next (match mget s.pkg.parks s.cur.n with
    | none => s
    | some p => if s.parkDue p then s.parkNow s.cur.n p else s)

/-! ### Timers and moves (R402, R403) -/

/-- Begin a step of R402 toward a tier; one that moves nothing leaves the moves of the step before as they are. -/
def State.climb (s : State) (i : Nat) (p : Park) (step : Nat) (on : Bool) : State :=
  let tier := step + 1
  let late := p.todo.take (if p.kept.isEmpty then 0 else 1)
  if on then s.putPark i { p with steps := step, dest := tier, todo := late ++ s.ownBlocks p.sid fun m => m.tier < tier }
  else s.putPark i { p with steps := step }

/-- Whether the time of a step has come. -/
def Park.tcxDue (p : Park) (clk : Nat) : Bool := p.state == 2 && p.steps == 0 && p.anchor + p.tcx ≤ usOf clk
def Park.tflDue (p : Park) (clk : Nat) : Bool := p.state == 2 && p.steps == 1 && p.anchor + p.tfl ≤ usOf clk

/-- `PARK_TCX_EXPIRY`: record `n`. -/
def execParkTcxExpiry (s : State) : Host.Outcome State Fault Refusal :=
  .next (match mget s.pkg.parks s.cur.n with
    | none => s
    | some p => if p.tcxDue s.clk && !s.leaving p then s.climb s.cur.n p 1 (bit s.pkg.pkcfg 1) else s)

/-- `PARK_TFL_EXPIRY`: record `n`. -/
def execParkTflExpiry (s : State) : Host.Outcome State Fault Refusal :=
  .next (match mget s.pkg.parks s.cur.n with
    | none => s
    | some p => if p.tflDue s.clk && !s.leaving p then s.climb s.cur.n p 2 (bit s.pkg.pkcfg 2) else s)

/-- Where a slot stands. -/
def slotAt (tier n : Nat) : Nat := if tier = 2 then Loc.phys (2 ^ 44 + n * 32768) else Loc.slot 1 n 0

/-- The slots of a tier. -/
def State.slotCount (s : State) (tier : Nat) : Nat :=
  if tier = 2 then min s.pkg.cxlSize (2 ^ 43) / 32768 + min s.pkg.cxlSize1 (2 ^ 43) / 32768 else 2 ^ 34

/-- The number of the `k`-th slot of a tier: those of CXL port 1 begin at 2^28 (R393, R394). -/
def State.slotNo (s : State) (tier k : Nat) : Nat :=
  let first := min s.pkg.cxlSize (2 ^ 43) / 32768
  if tier = 2 && first ≤ k then 2 ^ 28 + (k - first) else k

/-- Which slot of its tier a number names. -/
def State.slotRank (s : State) (tier n : Nat) : Nat := if tier = 2 && 2 ^ 28 ≤ n then min s.pkg.cxlSize (2 ^ 43) / 32768 + (n - 2 ^ 28) else n

/-- The first number from `n` on that is not in a list. -/
def firstUnused (used : List Nat) (n fuel : Nat) : Nat :=
  match fuel with
  | 0 => n
  | f + 1 => if used.contains n then firstUnused used (n + 1) f else n

/-- A free slot of a tier and a free descriptor of a die; which are free choices (R341, R403). -/
def State.takeSlot (s : State) (die tier : Nat) : Option (Nat × Nat × State) :=
  let used := s.dies.flatMap fun d => (d.2.descs.filter fun x => x.2.tier == tier).map fun x => s.slotRank tier x.2.slot
  let count := s.slotCount tier
  let (fv, s) := s.free
  if count ≤ used.length then none
  else
    let n := firstUnused used (fv % count) (used.length + 1)
    let n := s.slotNo tier (if n < count then n else firstUnused used 0 (used.length + 1))
    let ds := (s.die die).descs
    match mfree ds (fv % 2 ^ 24) (ds.length + 1) with
    | some d => if d < 2 ^ 24 then some (n, d, s) else ((mfree ds 0 (ds.length + 1)).filter (· < 2 ^ 24)).map fun d => (n, d, s)
    | none => none

/-- The bytes of a frame as a read under a key returns them. -/
def State.pageBytes (s : State) (key a : Nat) : List Host.Cell :=
  if (mcut s.keyTags a 32768).all (·.2 == s.keyInst key) then memCut s.mem a 32768 else memWrite [] 0 (s.homeRead key a 32768)

/-- Tag a page's bytes. -/
def tagPage (m : SMap Nat) (a i : Nat) : SMap Nat :=
  (m.filter fun c => c.1 < a) ++ (List.range 32768).map (fun k => (a + k, i)) ++ (m.filter fun c => a + 32768 ≤ c.1)

/-- Write a page, tagged where its place is encrypted or a slot, with the errors it carries. -/
def State.putPage (s : State) (a : Nat) (cs : List Host.Cell) (inst : Option Nat) (errs : List Nat) : State :=
  { s with
    mem := memPaste (memZero s.mem a 32768) a cs
    keyTags := match inst with
      | some i => tagPage s.keyTags a i
      | none => mclear s.keyTags a 32768
    bad := (s.bad.filter fun b => !(a ≤ b && b < a + 32768)) ++ errs.map (· + a)
    lowErr := s.lowErr.filter fun b => !(a ≤ b && b < a + 32768)
    hdrErr := s.hdrErr.filter fun b => !(a ≤ b && b < a + 32768) }

/-- The offsets of a page's bytes in error. -/
def State.pageErrs (s : State) (a : Nat) : List Nat := (s.bad.filter fun b => a ≤ b && b < a + 32768).map (· - a)

/-- The number of a slot among the write counters. -/
def slotKey (tier n : Nat) : Nat := tier * 2 ^ 40 + n

/-- The tags on the path of descriptor `n`, by level and number: a group of 256 bytes of the table, and of each level below, has one at the next
level; the 32 at level 5 are the top tags (R395). -/
def treePath (n : Nat) : List (Nat × Nat) := (List.range 5).map fun l => (l + 1, n / 8 / 16 ^ l)

/-- Whether every tag on the path of a descriptor verifies (R395): none has been altered, and the descriptors of its group stand in memory as they
were written, the free ones as zeros, none in error. -/
def State.treeOk (s : State) (die n : Nat) : Bool :=
  let d := s.die die
  (treePath n).all (fun t => !d.treeErr.contains t) && (List.range 8).all fun k =>
    let i := n / 8 * 8 + k
    !s.isBad (s.descAt die i) 32 && memRead s.mem (s.descAt die i) 32 == match mget d.descs i with
      | some x => bytesOf x.words
      | none => zeros 32

/-- Whether a slot passes its check: tree, key and bytes as they were written, none in error (R395). -/
def State.slotOk (s : State) (die n key : Nat) (d : Desc) : Bool :=
  let a := slotAt d.tier d.slot
  s.treeOk die n && d.ctr == mgetD s.pkg.slotCtr (slotKey d.tier d.slot) 0 && !d.psn && d.inst == s.keyInst key && s.keyLoaded key && !s.isBad a 32768 &&
  (mcut s.keyTags a 32768).length == 32768 && (mcut s.keyTags a 32768).all (·.2 == d.mark)

/-- The 96-bit initialization vector and the additional data of a page's tag (R395). -/
def slotIv (die n ctr : Nat) : Nat := die % 8 * 2 ^ 93 + n % 2 ^ 24 * 2 ^ 69 + ctr % 2 ^ 64 * 2 ^ 5
def slotAd (m : Mapping) : Nat := m.holder * 2 ^ 32 + m.block

/-- Write the page of a mapping to a slot (R395): its counter rises, its bytes carry a new mark. -/
def State.writeSlot (s : State) (die n key : Nat) (d : Desc) (m : Mapping) (cs : List Host.Cell) (errs : List Nat) : State :=
  let tag (ctr : Nat) : Nat := Config.gcmTag (s.keyInst key) (slotIv die n ctr) (slotAd m) cs
  let ctr := mgetD s.pkg.slotCtr (slotKey d.tier d.slot) 0 + 1
  let mark := s.pkg.nextKey
  let s := { s with pkg := { s.pkg with slotCtr := mset s.pkg.slotCtr (slotKey d.tier d.slot) ctr, nextKey := mark + 1 } }
  (s.putPage (slotAt d.tier d.slot) cs (some mark) errs).setDesc die n (some { d with ctr, tag := tag ctr, inst := s.keyInst key, mark })

/-- A move's steps 1 and 2: a slot and a descriptor are taken, and the page is not present. -/
def State.startMove (s : State) (i : Nat) (p : Park) (m : Mapping) (rest : List Nat) : State :=
  let die := sidDie p.sid
  match s.takeSlot die p.dest with
  | none => s.pkSkip.putPark i { p with todo := rest }
  | some (n, d, s) =>
    let (tag, s) := s.free
    let s := (s.setDesc die d (some { tier := p.dest, slot := n, ctr := mgetD s.pkg.slotCtr (slotKey p.dest n) 0, tag })).putMapping { m with present := false }
    s.putPark i { p with kept := mset p.kept m.block d }

/-- A move's steps 3 and 4; where the read or the write fails, the page stays where it is. -/
def State.endMove (s : State) (i : Nat) (p : Park) (m : Mapping) (n : Nat) (rest : List Nat) : State :=
  let die := sidDie p.sid
  let p' := { p with todo := rest, kept := mdel p.kept m.block }
  let back (s : State) : State := ((s.setDesc die n none).putMapping { m with present := true }).pkErr.putPark i p'
  match mget (s.die die).descs n with
  | none => s.putPark i p'
  | some d =>
    let from_ : Option Nat := if m.tier < 2 then some (m.place 0) else match mget (s.die die).descs m.frame with
      | some o => if s.slotOk die m.frame p.key o then some (slotAt o.tier o.slot) else none
      | none => none
    match from_ with
    | none => back s
    | some a =>
      if s.isBad (slotAt d.tier d.slot) 32768 then back s
      else
        let cs := if m.tier < 2 then s.pageBytes p.key a else memCut s.mem a 32768
        let s := s.writeSlot die n p.key d m cs (s.pageErrs a)
        let s := s.repoint m d.tier n
        let s := if m.tier < 2 then s.giveFrame die m.frame else s.setDesc die m.frame none
        s.putPark i p'

/-- `FRAME_MOVE`: the next steps of the moves of record `n` (R403). -/
def execFrameMove (s : State) : Host.Outcome State Fault Refusal :=
  let i := s.cur.n
  .next (match mget s.pkg.parks i with
    | none => s
    | some p => match p.todo with
      | [] => s
      | b :: rest => match s.mapping p.sid b with
        | none => s.putPark i { p with todo := rest, kept := mdel p.kept b }
        | some m => match mget p.kept b with
          | some n => s.endMove i p m n rest
          | none =>
            if p.state != 2 || m.al || m.rc != 1 || p.dest ≤ m.tier then s.putPark i { p with todo := rest }
            else s.startMove i p m rest)

/-! ### Promotion (R404, R405, R409) -/

/-- Whether the stream of a record has been pruned or released meanwhile. -/
def State.lost (s : State) (p : Park) : Bool :=
  match s.stream p.sid with
  | some e => e.state == .pruned
  | none => true

/-- The record cannot be read: its stream is pruned, and the loss reported (R409). -/
def State.loseRecord (s : State) (i : Nat) (p : Park) : State :=
  let s := (s.endPark i p).startRelease p.sid
  s.pkErr.relEvent (sidDie p.sid) 7 (i * 2 ^ 24 + p.sid)

/-- The entry that counts the frame which page `b` of a record comes back to: its stream's, or that of an alias once its stream has gone (R350, R404). -/
def State.landsIn (s : State) (p : Park) (b : Nat) : Option Mapping :=
  match s.mapping p.sid b with
  | some m => some m
  | none => (mget p.frames b).bind fun f => (s.die (sidDie p.sid)).ipt.find? fun m => !m.al && m.block == b && m.frame == f && m.tier == 0 && !m.present

/-- The stream of a record has gone: pages that other entries count by now still land, in stage C; else the record ends. -/
def State.leavePark (s : State) (i : Nat) (p : Park) : State :=
  if p.kept.any fun k => (s.landsIn p k.1).isSome then
    if p.stage = 3 && p.state = 6 then s else s.putPark i { p with stage := 3, state := 6, todo := [] }
  else s.endPark i p

/-- `STAGE_A`: the next page of record `n` is re-pointed, or the stage ends. -/
def execStageA (s : State) : Host.Outcome State Fault Refusal :=
  let i := s.cur.n
  .next (match mget s.pkg.parks i with
    | none => s
    | some p =>
      if p.stage != 1 || !p.todo.isEmpty then s
      else if s.lost p then s.leavePark i p
      else if s.isBad (fld s.pkg.pkbase 51 12 * 4096 + 64 * i) 64 then s.loseRecord i p
      else
        let die := sidDie p.sid
        match (s.ownFrames p.sid).find? fun m => 2 ≤ m.tier with
        | none => s.putPark i { p with stage := 2, state := if p.state = 3 then 3 else 5 }
        | some m => match s.takeHbm die with
          | none => s
          | some (f, s) => (s.putMapping { m with tier := 0, frame := f, present := false }).putPark i { p with kept := mset p.kept m.block m.frame, frames := mset p.frames m.block f })

/-- The pages that a stage has under way: those that are waited for first, then ascending, sixteen at once. -/
def Park.landing (p : Park) : List Nat :=
  let bs := p.kept.map (·.1)
  let hot := bs.filter fun b => p.hfirst ≤ b && b < p.hfirst + p.hcnt
  (if p.stage = 2 then hot else bs.filter p.wanted.contains ++ bs.filter fun b => !p.wanted.contains b).take 16

/-- Bring a page in: its slot is read and checked, or its frame is poisoned (R404, R409). -/
def State.land (s : State) (i : Nat) (p : Park) (b n : Nat) : State :=
  let die := sidDie p.sid
  let p' := { p with kept := mdel p.kept b, wanted := p.wanted.filter (· != b) }
  match s.landsIn p b, mget (s.die die).descs n with
  | some m, some d =>
    let a := m.place 0
    let s := if s.slotOk die n p.key d then
        (s.putPage a (memCut s.mem (slotAt d.tier d.slot) 32768) (some (s.keyInst p.key)) []).setDesc die n none
      else ((s.putPage a [] (some (s.keyInst p.key)) (List.range 32768)).setDesc die n (some { d with psn := true })).pkErr
    (s.repoint m m.tier m.frame).putPark i p'
  | _, _ => (s.setDesc die n none).putPark i p'

/-- One page of a stage, or what `done` does once none is left. -/
def State.stageStep (s : State) (stage i b : Nat) (done : State → Park → State) : State :=
  match mget s.pkg.parks i with
  | none => s
  | some p =>
    if p.stage != stage then s
    else if s.lost p && (p.stage != 3 || p.state != 6 || !p.kept.any fun k => (s.landsIn p k.1).isSome) then s.leavePark i p
    else if p.landing.isEmpty then done s p
    else if !p.landing.contains b then s
    else match mget p.kept b with
      | some n => s.land i p b n
      | none => s

/-- `STAGE_B`: block `k` of record `n` lands, or the stage ends. -/
def execStageB (s : State) : Host.Outcome State Fault Refusal :=
  let i := s.cur.n
  .next (s.stageStep 2 i s.cur.k fun s p =>
    let s := s.putPark i { p with stage := 3, state := if p.state = 3 then 3 else 6 }
    if p.state = 3 then s else s.streamReady p.sid)

/-- `STAGE_C`: block `k` of record `n` lands, or the promotion ends: the record is freed, or parked again. -/
def execStageC (s : State) : Host.Outcome State Fault Refusal :=
  let i := s.cur.n
  .next (s.stageStep 3 i s.cur.k fun s p =>
    if p.state = 3 then
      s.putPark i { p with state := 2, stage := 0, steps := 0, anchor := (usOf s.clk + p.ext.getD 0) % 2 ^ 48, ext := none, wanted := [] }
    else s.setPark i none)

def execSpark (w : Tolog) (s : State) := issue 0xEA w s (atStream (·.b) sparkBody)
def execSwakeWake (w : Tolog) (s : State) := issue 0xEB w s (atStream (·.a) (swakeBody fun s i _ => s.wake i))
def execSwakePre (w : Tolog) (s : State) := issue 0xEB w s (atStream (·.a) (swakeBody State.prePromote))
def execSwakeExt (w : Tolog) (s : State) := issue 0xEB w s (atStream (·.a) fun x => swakeBody (fun s => s.extendPark (fld x.w.imm 31 0)) x)

end Sys2Proof.Machine
end

