-- ==== Sys2Proof/Machine/Migration.lean ====
section
/-! DEFINITION. Stream migration: `SMIG` (R461, R462), its packets, commit and abort (R463), and stubs (R464). -/

namespace Sys2Proof.Machine

def State.outMig (s : State) (g : Nat) : Option OutMig := mget (s.die (sidDie g)).outMigs g
def State.setOutMig (s : State) (g : Nat) (m : Option OutMig) : State :=
  let d := s.die (sidDie g)
  s.setDie (sidDie g) { d with outMigs := match m with
    | some m => mset d.outMigs g m
    | none => mdel d.outMigs g }

/-- The entry on its way in from a package under an old id, with its new id. -/
def State.inMig (s : State) (die pkg old : Nat) : Option (Nat × InMig) := (s.die die).inMigs.find? fun m => m.2.pkg == pkg && m.2.old == old
def State.setInMig (s : State) (g : Nat) (m : Option InMig) : State :=
  let d := s.die (sidDie g)
  s.setDie (sidDie g) { d with inMigs := match m with
    | some m => mset d.inMigs g m
    | none => mdel d.inMigs g }

/-- A packet of class `MIG` of stream `g`, from this package. -/
def State.migPacket (s : State) (op pkg die g key task : Nat) : Packet :=
  { cls := 5, op, dpkg := pkg, spkg := s.pkgId, part := s.fabPart, key, die, sid := g, srcTask := task }

/-! ### `SMIG` -/

/-- Whether a stream may begin to leave: ready, or parked with its record parked; no parent, no prune pending (R462). -/
def State.mayLeave (s : State) (g : Nat) (e : Stream) : Bool :=
  e.parent == 0 && !e.ppnd && (e.state == .ready || (e.state == .parked && match s.parkOf g with
    | some (_, p) => p.state == 2
    | none => false))

/-- Whether a die has a stub entry free, beside those that migrations under way will take (R464). -/
def Die.stubFree (d : Die) : Bool := d.stubs.length + (d.outMigs.filter fun m => !m.2.committed).length < 4096

/-- The mappings of a stream in ascending block order. -/
def State.ownBlockList (s : State) (g : Nat) : List Nat := (((s.die (sidDie g)).ipt.filter fun m => m.holder == g).map (·.block)).foldr inOrder []

/-- `SMIG` (R462). -/
def smigBody (x : Ctx) (s : State) : Body :=
  let b := x.g x.w.b
  let w := x.g x.w.c
  let stub := if fld x.w.imm 23 0 = 0 then fld s.pkg.fabcfg 31 16 else fld x.w.imm 23 0
  x.withStream s (x.g x.w.a) fun g e =>
    if fld b 63 19 != 0 then x.give s (refused Ref.parm)
    else match x.joinCounter s w with
      | none => x.give s (refused Ref.ctr)
      | some (_, none) => x.give s (refused Ref.ctr)
      | some (t, some place) =>
        if !s.fabOn || !torusOk s.pkg.fabid (fld b 15 0) || fld b 15 0 == s.pkgId then x.give s (refused Ref.parm)
        else if !s.mayLeave g e then x.give s (refused Ref.state)
        else if !(s.die (sidDie g)).stubFree then x.give s (refused Ref.full)
        else
          let task := (x.res s).task
          let h := ((x.res s).handle (fld w 63 56)).getD {}
          let m : OutMig := { pkg := fld b 15 0, die := fld b 18 16, stub, prev := e.state, start := s.clk, core := x.c, slot := x.k, d := x.w.d, task,
                              key := e.key, cplace := place, ckey := h.key, caddr := h.base + fld w 44 0, cval := wd (fld w 55 48),
                              cdev := if h.space = spDev then some (((s.task task).getD {}).ctx, h.ilv) else none }
          let park := match (if e.state == .parked then s.parkOf g else none) with
            | some (_, p) => p.words
            | none => []
          let p : Packet := { s.migPacket 1 m.pkg m.die g e.key task with words := e.words g ++ park, val := (s.ownBlockList g).length }
          .ok { s := ((t.setStream g { e with state := .migrating }).setOutMig g (some m)).fabSend p, writes := [.g x.w.d 0], await := true }

def execSmig (w : Tolog) (s : State) := issue 0xEC w s (atStream (·.a) smigBody)

/-! ### The destination takes an entry (R462) -/

/-- The entry that `SXREQ` describes. -/
def streamOf (ws : List Word) (queue : Option Nat) : Stream :=
  let w (i : Nat) : Word := ws.getD i 0
  { state := .migrating, cls := bit (w 0) 60, kv := bit (w 0) 58, node := fld (w 1) 63 48, len := fld (w 1) 47 0, horiz := fld (w 2) 63 48,
    qhead := fld (w 2) 37 35, qcnt := fld (w 2) 34 31, key := fld (w 2) 9 0, act := Vector.ofFn fun i => w (8 + i.val), queue }

/-- Ask for the blocks of a stream on its way in, sixteen at once; once all have landed, say so. -/
def State.pullBlocks (s : State) (fuel g : Nat) (m : InMig) (key : Nat) : State :=
  if m.landed = m.count then (s.setInMig g (some { m with finished := true })).fabSend (s.migPacket 6 m.pkg 0 m.old key 0)
  else match fuel with
    | 0 => s.setInMig g (some m)
    | f + 1 =>
      if m.asked < m.count && m.asked < m.landed + 16 then
        (s.fabSend { s.migPacket 4 m.pkg 0 m.old key 0 with block := m.asked }).pullBlocks f g { m with asked := m.asked + 1 } key
      else s.setInMig g (some m)

/-- Take the entry, or refuse. -/
def State.takeStream (s : State) (p : Packet) : FabOut :=
  let key := fld (p.words.getD 2 0) 9 0
  let no (code : Nat) : FabOut := .done ((s.ack p).fabSend { s.migPacket 3 p.spkg 0 p.sid key 0 with val := code })
  if !(s.die p.die).on then no Ref.off
  else if !s.fabKey key then no Ref.auth
  else match (s.die p.die).freeRun 1 with
    | none => no Ref.full
    | some i =>
      let gen := ((s.die p.die).entry i).gen
      let g := p.die * 2 ^ 21 + gen * 2 ^ 16 + i
      let s := s.setStream g { streamOf p.words none with gen }
      let s := (s.ack p).fabSend { s.migPacket 2 p.spkg 0 p.sid key 0 with val := g }
      .done (s.pullBlocks 17 g { pkg := p.spkg, old := p.sid, count := p.val, park := p.words.drop 16 } key)

/-- `SXREQ`. -/
def execSxreq (p : Packet) (s : State) : Host.Outcome State Fault Refusal := fabStep 5 (some 1) State.takeStream p s

/-- The stream that a packet of its destination names, while it is on its way out to there. -/
def State.leavingTo (s : State) (p : Packet) : Option OutMig := match s.outMig p.sid with
  | some m => if m.pkg == p.spkg then some m else none
  | none => none

/-- `SXACK`: `SMIG` gives the new id. -/
def execSxack (p : Packet) (s : State) : Host.Outcome State Fault Refusal :=
  fabStep 5 (some 2) (fun s p => match s.leavingTo p with
    | none => .done (s.ack p)
    | some m =>
      if m.told then .done (s.ack p)
      else .done (((s.setOutMig p.sid (some { m with told := true, new := p.val })).fillResult m.core m.slot m.d
        (wd (m.pkg * 2 ^ 24 + p.val % 2 ^ 24))).ack p)) p s

/-- A stream that was on its way out goes on as before: its park timers resume where they stopped (R462, R463), and the reset of its queue, which
passed it over, prunes it now (R421). -/
def State.stays (s : State) (g : Nat) (m : OutMig) (e : Stream) : State :=
  let s := (s.setStream g { e with state := m.prev, readyAt := s.clk }).setOutMig g none
  let s := match (if m.prev == .parked then s.parkOf g else none) with
    | some (i, p) => s.putPark i { p with anchor := (p.anchor + usOf s.clk - usOf m.start) % 2 ^ 48 }
    | none => s
  match e.queue with
  | some q => if (s.hostQueue q).rst then s.prune 9 g else s
  | none => s

/-- `SXNAK`: the stream stays, and `SMIG` gives the code. -/
def execSxnak (p : Packet) (s : State) : Host.Outcome State Fault Refusal :=
  fabStep 5 (some 3) (fun s p => match s.leavingTo p, s.stream p.sid with
    | some m, some e =>
      if m.told || m.committed then .done (s.ack p)
      else .done (((s.stays p.sid m e).fillResult m.core m.slot m.d (refused p.val)).ack p)
    | _, _ => .done (s.ack p)) p s

/-! ### Blocks (R462) -/

/-- The entry that counts the mappings of a mapping's frame. -/
def State.counter (s : State) (m : Mapping) : Option Mapping :=
  if m.al then (s.die (sidDie m.holder)).ipt.find? fun o => !o.al && o.frame == m.frame && o.tier == m.tier else some m

/-- Raise or drop the transfer hold of a block. -/
def State.holdBlock (s : State) (g b : Nat) (up : Bool) : State :=
  match (s.mapping g b).bind s.counter with
  | some o => s.putMapping { o with rc := if up then o.rc + 1 else o.rc - 1 }
  | none => s

/-- A block's bytes as they go out: checked under R395 where it lies in an outer tier; a page in error goes out poisoned. -/
def State.outBytes (s : State) (key : Nat) (m : Mapping) : List Byte × Bool :=
  if m.tier < 2 then
    if s.isBad (m.place 0) 32768 then ([], true) else (s.homeRead key (m.place 0) 32768, false)
  else match mget (s.die (sidDie m.holder)).descs m.frame with
    | some d => if s.slotOk (sidDie m.holder) m.frame key d then (memRead s.mem (slotAt d.tier d.slot) 32768, false) else ([], true)
    | none => ([], true)

/-- `SXPULL`: block number `p.block` in ascending order is held, read and sent; one on the move is waited for. -/
def execSxpull (p : Packet) (s : State) : Host.Outcome State Fault Refusal :=
  fabStep 5 (some 4) (fun s p => match s.leavingTo p with
    | none => .done (s.ack p)
    | some m =>
      if m.committed then .done (s.ack p)
      else match ((s.ownBlockList p.sid)[p.block]?).bind (s.mapping p.sid) with
        | none => .done (s.ack p)
        | some q =>
          if !q.present then .wait
          else
            let s := if m.held.contains q.block then s else (s.holdBlock p.sid q.block true).setOutMig p.sid (some { m with held := q.block :: m.held })
            let (bs, bad) := s.outBytes m.key q
            .done ((s.ack p).fabSend { s.migPacket 5 m.pkg m.die p.sid m.key m.task with block := q.block, val := if bad then 1 else 0, data := bs })) p s

/-- `SXDATA`: the block lands in a new HBM frame under the stream's key. -/
def execSxdata (p : Packet) (s : State) : Host.Outcome State Fault Refusal :=
  fabStep 5 (some 5) (fun s p => match s.inMig p.die p.spkg p.sid with
    | none => .done (s.ack p)
    | some (g, m) => match s.stream g with
      | none => .done (s.ack p)
      | some e =>
        if m.finished || (s.mapping g p.block).isSome then .done (s.ack p)
        else match s.takeHbm p.die with
          | none => .wait
          | some (f, s) =>
            let q : Mapping := { holder := g, block := p.block, frame := f, key := e.key, dirty := true }
            let a := q.place 0
            let s := if p.val = 1 then s.putPage a [] (some (s.keyInst e.key)) (List.range 32768) else (s.zeroFrame p.die f).homeWrite e.key a p.data
            .done (((s.addMapping q).ack p).pullBlocks 17 g { m with landed := m.landed + 1 } e.key)) p s

/-! ### Commit and abort (R463) -/

/-- The watch of a parked stream's line, and a wake of it that waits, stay under the stub (R464). -/
def State.watchUnderStub (s : State) (g i : Nat) : State :=
  let move (k : Nat) : Nat := if k = i then stubMark + g else k
  { s with pkg := { s.pkg with
      watches := s.pkg.watches.map fun (w : Nat × Watch) => (w.1, { w.2 with park := move w.2.park })
      wakes := s.pkg.wakes.map move } }

/-- The source commits: the mappings and holds go, the entry is freed, a stub takes its place, and `SXFIN` is sent. -/
def State.commitMig (s : State) (g : Nat) (m : OutMig) (e : Stream) : State :=
  let s := m.held.foldl (fun s b => s.holdBlock g b false) s
  let s := (s.ownBlockList g).foldl (fun s b => s.unmapBlock g b) (s.dropCopies g)
  let s : State := match s.parkOf g with
    | some (i, _) => (if m.prev == StreamState.parked then s.watchUnderStub g i else s).setPark i none
    | none => s
  let s := s.freeStream g e
  let d := s.die (sidDie g)
  let s := s.setDie (sidDie g) { d with stubs := d.stubs ++ [{ old := g, pkg := m.pkg, new := m.new, ends := s.clk + m.stub * msClk, key := m.key }] }
  (s.setOutMig g (some { m with committed := true, held := [] })).fabSend (s.migPacket 7 m.pkg m.die g m.key m.task)

/-- `SXDONE`: within `TMO` of the request, the source commits. -/
def execSxdone (p : Packet) (s : State) : Host.Outcome State Fault Refusal :=
  fabStep 5 (some 6) (fun s p => match s.leavingTo p, s.stream p.sid with
    | some m, some e => if m.committed || !m.told || m.start + s.tmoClk < s.clk then .done (s.ack p) else .done ((s.ack p).commitMig p.sid m e)
    | _, _ => .done (s.ack p)) p s

/-- The completion add of a migration, a release at system scope. -/
def State.migAdd (s : State) (m : OutMig) : State :=
  s.unlessLost m.caddr [(some m.cplace, 8)] fun s =>
    let (s, sat) := s.counterAdd m.ckey m.cplace m.cval
    if sat then s.post m.core (overflowRecord m.task m.caddr m.cval) else s

/-- `SXFIN`: the stream is ready at its node, or parked under a new record, whose index the acknowledge carries. -/
def State.finishIn (s : State) (p : Packet) : FabOut :=
  match s.inMig p.die p.spkg p.sid with
  | none => .done (s.ack p)
  | some (g, m) => match s.stream g with
    | none => .done ((s.setInMig g none).ack p)
    | some e =>
      if m.park.isEmpty then .done (((s.setStream g { e with state := .ready, readyAt := s.clk }).setInMig g none).ack p)
      else match s.freePark with
        | none => .wait
        | some (i, s) =>
          let w (i : Nat) : Word := m.park.getD i 0
          let r : Park := { state := 2, sid := g, anchor := usOf s.clk, tfl := fld (w 3) 63 32, tcx := fld (w 3) 31 0, hcnt := fld (w 4) 40 32,
                            hfirst := fld (w 4) 24 0, key := e.key }
          .done ((((s.setStream g { e with state := .parked }).setInMig g none).putPark i r).ack p fun q => { q with words := [wd i] })

/-- `SXFIN`. -/
def execSxfin (p : Packet) (s : State) : Host.Outcome State Fault Refusal := fabStep 5 (some 7) State.finishIn p s

/-- Give up an entry on its way in. -/
def State.dropIn (s : State) (g : Nat) (e : Stream) : State :=
  (((s.ownBlockList g).foldl (fun s b => s.unmapBlock g b) s).freeStream g e).setInMig g none

/-- `SXABORT`. -/
def execSxabort (p : Packet) (s : State) : Host.Outcome State Fault Refusal :=
  fabStep 5 (some 8) (fun s p => match s.inMig p.die p.spkg p.sid with
    | none => .done (s.ack p)
    | some (g, _) => match s.stream g with
      | none => .done ((s.setInMig g none).ack p)
      | some e => .done ((s.dropIn g e).ack p)) p s

/-- Whether the time of a migration has run out. -/
def State.migLate (s : State) (m : OutMig) : Bool := !m.committed && m.start + s.tmoClk < s.clk

/-- `SMIG_TIMEOUT`: the migration of stream `n` is given up. A result that is still open is not stated. -/
def execSmigTimeout (s : State) : Host.Outcome State Fault Refusal :=
  let g := s.cur.n
  .next (match s.outMig g, s.stream g with
    | some m, some e =>
      if !s.migLate m then s
      else
        let s := m.held.foldl (fun s b => s.holdBlock g b false) s
        let s := s.stays g m e
        let (v, s) := s.free
        let s := if m.told then s else s.fillResult m.core m.slot m.d (wd v)
        (s.fabSend (s.migPacket 8 m.pkg m.die g m.key m.task)).migAdd m
    | _, _ => s.setOutMig g none)

/-- The destination has acknowledged `SXFIN`: the stub learns the park index, and the completion add is made. -/
def State.endMig (s : State) (g : Nat) (q : Packet) : State :=
  match s.outMig g with
  | none => s
  | some m =>
    if !m.committed then s
    else
      let d := s.die (sidDie g)
      let s := s.setDie (sidDie g) { d with stubs := d.stubs.map fun t => if t.old == g then { t with pidx := q.words.head?.map (·.toNat) } else t }
      (s.setOutMig g none).migAdd m

/-- `RSP_ACKNOWLEDGE`: an acknowledge, or the result of a replayed access. -/
def execRspAcknowledge (p : Packet) (s : State) : Host.Outcome State Fault Refusal :=
  .next (match (if p.op = 3 then fabStep 7 (some 3) else fabStep 7 (some 1)) (fun s q => match s.settle q with
      | none => .done s
      | some (o, s) => .done (
          if q.op = 3 then s.giveReply q { cause := q.y, bytes := q.data, lost := q.x = 1 }
          else if o.cls = 3 && !q.words.isEmpty then
            s.post o.srcCore { w0 := q.words.getD 0 0, w1 := q.words.getD 1 0, w2 := q.words.getD 2 0, w3 := q.words.getD 3 0 }
          else if o.cls = 5 && o.op = 7 then s.endMig o.sid q
          else s)) p s with
    | .next t => t
    | _ => s)

/-- `STUB_EXPIRY`: stub `k` of die `n` ends, and with it the watch of its line (R464). -/
def execStubExpiry (s : State) : Host.Outcome State Fault Refusal :=
  let d := s.die s.cur.n
  .next (match d.stubs[s.cur.k]? with
    | none => s
    | some t => if s.clk < t.ends then s else (s.dropWatch (stubMark + t.old)).setDie s.cur.n { d with stubs := d.stubs.eraseIdx s.cur.k })

end Sys2Proof.Machine
end

