-- ==== Sys2Proof/Machine/ScalarAlu.lean ====
section
/-! DEFINITION. The scalar ALU, opcodes 0x00 to 0x1E (R107 to R111). -/

namespace Sys2Proof.Machine

/-- `MOD[1]`: unsigned. -/
def Ctx.n (x : Ctx) : Bool := x.w.mod.getLsbD 1

/-- One scalar result. -/
def gRes (f : Ctx → Word) (x : Ctx) : List RegWrite := [.g x.w.d (f x)]

/-- The integer of a word, read as `N` says. -/
def Ctx.int (x : Ctx) (a : Word) : Int := readInt x.n 64 a.toNat

/-- Shift results (R109): `n` is the amount. -/
def shl64 (a : Word) (n : Nat) : Word := if n < 64 then a <<< n else 0
def shr64 (a : Word) (n : Nat) : Word := if n < 64 then a >>> n else 0
def sar64 (a : Word) (n : Nat) : Word := a.sshiftRight (min n 63)

/-- The shift amount of R109. -/
def Ctx.amount (x : Ctx) : Nat := fld x.b 7 0

/-- Quotient and remainder of R110. -/
def divWord (u : Bool) (a b : Word) : Word :=
  if b = 0 then BitVec.allOnes 64 else if u then a / b else a.sdiv b
def remWord (u : Bool) (a b : Word) : Word :=
  if b = 0 then a else if u then a % b else a.srem b

/-- Position and width of `BFX` and `BFI` (R111). -/
def Ctx.pos (x : Ctx) : Nat := fld x.w.imm 5 0
def Ctx.wid (x : Ctx) : Nat := fld x.w.imm 14 8

/-- `BFX` (R111). -/
def bfx (u : Bool) (a : Word) (pos wid : Nat) : Word :=
  wi (readInt u wid (a.toNat / 2 ^ pos % 2 ^ wid))

/-- `BFI` (R111). -/
def bfi (d a : Word) (pos wid : Nat) : Word := setFld d (pos + wid - 1) pos a.toNat

/-- A truth table of two bits (R108). -/
def lutBit (lut : BitVec 8) (a b : Bool) : Bool := lut.getLsbD (2 * a.toNat + b.toNat)

def execNop (w : Tolog) (s : State) := issue 0x00 w s (pureBody fun _ => [])
def execIadd (w : Tolog) (s : State) := issue 0x01 w s (pureBody (gRes fun x => x.g w.a + x.b))
def execIsub (w : Tolog) (s : State) := issue 0x02 w s (pureBody (gRes fun x => x.g w.a - x.b))
def execImul (w : Tolog) (s : State) := issue 0x03 w s (pureBody (gRes fun x => x.g w.a * x.b))
def execImulh (w : Tolog) (s : State) := issue 0x04 w s (pureBody (gRes fun x => wi (x.int (x.g w.a) * x.int x.b / 2 ^ 64)))
def execIdiv (w : Tolog) (s : State) := issue 0x05 w s (pureBody (gRes fun x => divWord x.n (x.g w.a) x.b))
def execIrem (w : Tolog) (s : State) := issue 0x06 w s (pureBody (gRes fun x => remWord x.n (x.g w.a) x.b))
def execImin (w : Tolog) (s : State) := issue 0x07 w s (pureBody (gRes fun x => wi (min (x.int (x.g w.a)) (x.int x.b))))
def execImax (w : Tolog) (s : State) := issue 0x08 w s (pureBody (gRes fun x => wi (max (x.int (x.g w.a)) (x.int x.b))))
def execIabs (w : Tolog) (s : State) := issue 0x09 w s (pureBody (gRes fun x => wi (sx (x.g w.a)).natAbs))
def execAnd (w : Tolog) (s : State) := issue 0x0A w s (pureBody (gRes fun x => x.g w.a &&& x.b))
def execOr (w : Tolog) (s : State) := issue 0x0B w s (pureBody (gRes fun x => x.g w.a ||| x.b))
def execXor (w : Tolog) (s : State) := issue 0x0C w s (pureBody (gRes fun x => x.g w.a ^^^ x.b))
def execAndn (w : Tolog) (s : State) := issue 0x0D w s (pureBody (gRes fun x => x.g w.a &&& ~~~x.b))
def execShl (w : Tolog) (s : State) := issue 0x0E w s (pureBody (gRes fun x => shl64 (x.g w.a) x.amount))
def execShr (w : Tolog) (s : State) := issue 0x0F w s (pureBody (gRes fun x => shr64 (x.g w.a) x.amount))
def execSar (w : Tolog) (s : State) := issue 0x10 w s (pureBody (gRes fun x => sar64 (x.g w.a) x.amount))
def execRot (w : Tolog) (s : State) := issue 0x11 w s (pureBody (gRes fun x =>
  if w.mod.getLsbD 5 then (x.g w.a).rotateRight (x.amount % 64) else (x.g w.a).rotateLeft (x.amount % 64)))
def execClz (w : Tolog) (s : State) := issue 0x12 w s (pureBody (gRes fun x => wd (clz 64 (x.g w.a).toNat)))
def execPopc (w : Tolog) (s : State) := issue 0x13 w s (pureBody (gRes fun x => wd (popc 64 (x.g w.a).toNat)))
def execBfx (w : Tolog) (s : State) := issue 0x14 w s (pureBody (gRes fun x => bfx x.n (x.g w.a) x.pos x.wid))
def execBfi (w : Tolog) (s : State) := issue 0x15 w s (pureBody (gRes fun x => bfi (x.g w.d) (x.g w.a) x.pos x.wid))
def execSext (w : Tolog) (s : State) := issue 0x16 w s (pureBody (gRes fun x =>
  let n := 8 * 2 ^ (w.mod.extractLsb' 5 3).toNat
  wi (readInt x.n n ((x.g w.a).toNat % 2 ^ n))))
def execMovi (w : Tolog) (s : State) := issue 0x17 w s (pureBody (gRes fun x =>
  if w.len = 2 then w.imm else if x.n then w.imm &&& 0xFFFFFFFF else sext32 w.imm))
def execMov (w : Tolog) (s : State) := issue 0x18 w s (pureBody (gRes fun x => x.g w.a))
def execSel (w : Tolog) (s : State) := issue 0x19 w s (pureBody (gRes fun x => if x.p w.c then x.g w.a else x.g w.b))
def execIcmp (w : Tolog) (s : State) := issue 0x1A w s (pureBody fun x =>
  [.p w.d.toNat (ccHolds (w.mod.extractLsb' 2 3).toNat x.n 64 (x.g w.a).toNat x.b.toNat)])
def execPlog (w : Tolog) (s : State) := issue 0x1B w s (pureBody fun x =>
  [.p w.d.toNat (lutBit w.mod (x.p w.a) (x.p w.b))])
def execLea (w : Tolog) (s : State) := issue 0x1C w s (pureBody (gRes fun x =>
  x.g w.a + (x.b <<< (w.mod.extractLsb' 5 3).toNat)))
def execImad (w : Tolog) (s : State) := issue 0x1D w s (pureBody (gRes fun x => x.g w.a * x.g w.b + x.g w.c))
def execIadds (w : Tolog) (s : State) := issue 0x1E w s (pureBody (gRes fun x =>
  wi (clampInt x.n 64 (x.int (x.g w.a) + x.int x.b))))

end Sys2Proof.Machine
end

