-- ==== Sys2Proof/Machine/TaskSteps.lean ====
section
/-! DEFINITION. The task engine's steps: queueing (R292), dispatch (R295, R296), pre-emption by age (R297), saving and restoring a task
(R99, R211 to R213, R308 to R310), and stage balancing (R312). -/

namespace Sys2Proof.Machine

/-- `TASK_QUEUED`: waiting task `n` (R292). -/
def execTaskQueued (s : State) : Host.Outcome State Fault Refusal :=
  let id := s.cur.n
  .next (match s.task id with
    | none => s
    | some t => if t.state == .waiting && s.waitMet id t then s.enqueue id else s)

/-! ### Dispatch (R295, R296) -/

/-- The lowest of tasks by `p`. -/
def leastTask (p : Nat × Task → Nat × Task → Bool) (xs : List (Nat × Task)) : Option (Nat × Task) :=
  xs.foldl (fun m x => match m with
    | none => some x
    | some y => if p x y then some x else some y) none

def State.classTasks (s : State) (die k : Nat) (st : TaskState) : List (Nat × Task) := (s.die die).tasks.filter fun t => t.2.cls == k && t.2.state == st

/-- The head of a class queue. -/
def State.queueHead (s : State) (die k : Nat) : Option (Nat × Task) := leastTask (fun a b => a.2.qpos < b.2.qpos) (s.classTasks die k .queued)

/-- The heads of a class queue that are not admissible become held. -/
def State.holdHeads (s : State) (die k fuel : Nat) : State :=
  match fuel with
  | 0 => s
  | f + 1 => match s.queueHead die k with
    | some (id, t) => if s.admissible id t false then s else (s.setTask id { t with state := .held }).holdHeads die k f
    | none => s

/-- The first candidate of a class: a saved task, an admissible held one, or the head of the queue (R295, R301, R310). -/
def State.firstCandidate (s : State) (die k : Nat) : Option (Nat × Task) :=
  leastTask keyBelow (s.classTasks die k .saved) <|>
  leastTask keyBelow ((s.classTasks die k .held).filter fun t => s.admissible t.1 t.2 true) <|>
  (s.queueHead die k).filter fun t => s.admissible t.1 t.2 false

/-- The cores that a band of a task may take: a task saved with a gang keeps its members' places in their cluster (R256). -/
def State.bandCore (s : State) (t : Task) (b c : Nat) : Bool :=
  let mine := t.saved.filter fun x => x.band == b
  s.placeable c && (!t.saved.any (fun x => x.firings.any fun f => f.2.span != 1) || mine.any fun x => localK x.core == localK c)

/-- Where a task fits now (R296). -/
def State.fits (s : State) (die id : Nat) (t : Task) : Option (List Grant) :=
  s.plan die (List.range (tyBands t.tw)) (s.bandCore t) s.core t.tw t.roles id

/-- Streams that become running when a task is placed (R290, R339). -/
def State.streamsRun (s : State) (t : Task) : State :=
  t.acts.foldl (fun s g => match s.stream g with
    | some e => if e.state == .ready then s.setStream g { e with state := .running } else s
    | none => s) s

/-- Place a task on granted cores: a saved one is to be restored there. -/
def State.placeTask (s : State) (id : Nat) (t : Task) (gs : List Grant) : State :=
  let t' := { t with state := if t.state == .saved then .restoring else .placed, placedAt := s.clk, waitingSince := none }
  let qs := t.queues
  let s := (s.install id t' gs).streamsRun t
  match t.state, s.task id with
  | .saved, some u => s.setTask id { u with queues := qs }
  | _, _ => s

/-- The weight of a class in `TEWGT` (R298). -/
def Die.weight (d : Die) (k : Nat) : Nat := fld d.tewgt (4 * k + 3) (4 * k)

/-- What each class's first candidate fits on. -/
def State.fitting (s : State) (die : Nat) : List (Nat × Nat × Task × Option (List Grant)) :=
  (List.range 4).filterMap fun k => (s.firstCandidate die k).map fun c => (k, c.1, c.2, s.fits die c.1 c.2)

/-- Note the clock since which first candidates have not fitted (R297). -/
def State.noteWaiting (s : State) (xs : List (Nat × Nat × Task × Option (List Grant))) : State :=
  xs.foldl (fun s x => if x.2.2.2.isNone && x.2.2.1.waitingSince.isNone then s.setTask x.2.1 { x.2.2.1 with waitingSince := some s.clk } else s) s

/-- One placement of a die's dispatcher (R295). -/
def State.dispatch (s : State) (die : Nat) : State :=
  let s := (List.range 4).foldl (fun s k => s.holdHeads die k 4097) s
  let xs := s.fitting die
  let s := s.noteWaiting xs
  let able := xs.filterMap fun x => x.2.2.2.map fun gs => (x.1, x.2.1, x.2.2.1, gs)
  let d := s.die die
  let credit (v : Vector Nat 4) (k : Nat) : Nat := v.toList.getD k 0
  let loaded := if able.any (fun x => 0 < credit d.credits x.1) then d.credits else Vector.ofFn fun k => d.weight k.val
  match able.find? fun x => 0 < credit loaded x.1 with
  | none => s
  | some (k, id, t, gs) =>
    let s := s.setDie die { d with credits := if h : k < 4 then loaded.set k (loaded[k] - 1) else loaded }
    s.placeTask id t gs

/-- Whether a die's dispatcher has anything to do. -/
def State.dispatchDue (s : State) (die : Nat) : Bool :=
  (List.range 4).any (fun k => match s.queueHead die k with
    | some (id, t) => !s.admissible id t false
    | none => false) ||
  (s.fitting die).any fun x => x.2.2.2.isSome || x.2.2.1.waitingSince.isNone

/-- `TASK_DISPATCH`: die `n`. -/
def execTaskDispatch (s : State) : Host.Outcome State Fault Refusal := .next (s.dispatch s.cur.n)

/-! ### Pre-emption by age (R297) -/

/-- Put a task into a list in descending order of dispatch. -/
def byDispatch (t : Nat × Task) (xs : List (Nat × Task)) : List (Nat × Task) :=
  match xs with
  | [] => [t]
  | u :: r => if u.2.placedAt ≤ t.2.placedAt then t :: u :: r else u :: byDispatch t r

/-- The tasks that may be victims in a cluster of a die, latest dispatched first. -/
def State.victims (s : State) (die cl k : Nat) : List (Nat × Task) :=
  ((s.die die).tasks.filter fun t => t.2.state == .running && k < t.2.cls && !tyBit t.2.tw 44 && !tyBit t.2.tw 46 && s.saveRoom t.1 t.2 &&
    t.2.places.any fun p => clusterOf p.core == cl).foldr byDispatch []

/-- The fewest victims, of `xs` in order, without which the task fits. -/
def State.victimsFor (s : State) (die id : Nat) (t : Task) (xs : List (Nat × Task)) (n : Nat) : Option (List Nat) :=
  match xs with
  | [] => none
  | v :: rest =>
    let s := s.unplace v.1 v.2
    if (s.fits die id t).isSome then some [v.1] else (s.victimsFor die id t rest (n + 1)).map (v.1 :: ·)

/-- The victims in the cluster that needs the fewest. -/
def State.chooseVictims (s : State) (die id : Nat) (t : Task) : List Nat :=
  ((List.range 12).filterMap fun cl => s.victimsFor die id t (s.victims die cl t.cls) 0).foldl (fun (m : List Nat) v =>
    if m.isEmpty || v.length < m.length then v else m) []

/-- A first candidate of a die that has waited for `TEPAGE`, and its victims. -/
def State.aged (s : State) (die : Nat) : Option (Nat × List Nat) :=
  let age := fld (s.die die).tepage 31 0
  if age = 0 then none
  else (s.fitting die).findSome? fun x => match x.2.2.2, x.2.2.1.waitingSince with
    | none, some w =>
      if nsOf (s.clk - w) < age || (s.die die).tasks.any (fun u => u.2.state == .preempting && x.1 < u.2.cls) then none
      else
        let vs := s.chooseVictims die x.2.1 x.2.2.1
        if vs.isEmpty then none else some (x.2.1, vs)
    | _, _ => none

/-- `TASK_AGE_PREEMPT`: die `n`. -/
def execTaskAgePreempt (s : State) : Host.Outcome State Fault Refusal :=
  .next (match s.aged s.cur.n with
    | none => s
    | some (_, vs) => vs.foldl (fun s v => (s.requestPreempt v).2) s)

/-! ### Saving (R211 to R213, R308) -/

/-- Whether a firing can be stopped: no access of its instruction is under way, and no result is still to be given. -/
def Firing.stoppable (f : Firing) : Bool := !f.stopped && f.asked.isEmpty && f.issued.isEmpty && f.flight.all fun r => !r.await

/-- `PREEMPT_WAIT_EXPIRY`: the firings of task `n` that are still present stop between instructions (R27, R308). -/
def execPreemptWaitExpiry (s : State) : Host.Outcome State Fault Refusal :=
  .next (match s.task s.cur.n with
    | none => s
    | some t =>
      if t.state != .preempting || s.clk < t.saveAt then s
      else (s.taskFirings t).foldl (fun s x => if x.2.2.stoppable then s.setFiring x.1 x.2.1 { x.2.2.drain s.clk with stopped := true } else s) s)

/-- Whether the image of a task can be saved (R308). -/
def State.mayBeSaved (s : State) (id : Nat) (t : Task) : Bool :=
  t.state == .preempting && !s.attending id t && (s.taskFirings t).all (fun x => x.2.2.stopped) && !s.movable id && !s.linkWords t && !s.phaseOver id t &&
  (s.residents t).all fun r => !r.achain.active && !r.cchain.active

/-- Number of a core among a task's places. -/
def Task.placeIdx (t : Task) (c : Nat) : Nat := (t.places.findIdx? fun p => p.core == c).getD 0

/-- The actor index of an entry of a core's table; 64 for none. -/
def State.idxAt (s : State) (c e : Nat) : Nat := ((s.actor c e).map (·.idx)).getD 64

/-- An output as an image holds it: the place and the actor index of its target. -/
def State.packOut (s : State) (t : Task) (o : OutChan) : OutChan := { o with tcore := t.placeIdx o.tcore, tactor := s.idxAt o.tcore o.tactor }

/-- A waiting firing's state in an image: a `GANG` asks again, a `YIELD` ends (R99, R256). -/
def Wait.packed (w : Wait) : Wait :=
  match w with
  | .gang n _ => .gang n Option.none
  | .ganging n => .gang n Option.none
  | .yield _ _ _ => .none
  | w => w

/-- A firing in an image; its monitors go, which its next `MWAIT` will say, unless one had triggered (R149, R150). -/
def State.packFiring (s : State) (c k : Nat) (f : Firing) : Firing :=
  let mine := (s.core c).monitors.filter fun m => m.slot == k
  let armed := !mine.isEmpty || match f.wait with
    | .mwait _ _ => true
    | _ => false
  { f with actor := s.idxAt c f.actor, parity := f.parity.filter (fun r => !f.clean.contains r), clean := [], wait := f.wait.packed, restored := f.restored || armed, woken := f.woken || mine.any (·.fired) }

/-- A chain in an image: its entries name the actors that appended them by index. -/
def State.packChain (s : State) (c : Nat) (x : Chain) : Chain := { x with tags := x.tags.map fun t => { t with actor := s.idxAt c t.actor } }

/-- The errors that an image takes of `n` bytes from `a` on: a line that nothing has written since the restore keeps what the image holds of it (R212). -/
def State.imageErrs (s : State) (first : Bool) (a n : Nat) : List Nat :=
  let bs := s.bad.filter fun b => a ≤ b && b < a + n
  if first then bs
  else bs.filter (fun b => (mget s.clean (b / 256)).isNone) ++ (s.clean.filter fun l => a / 256 ≤ l.1 && l.1 * 256 < a + n).flatMap (·.2)

/-- A channel in an image: entries that were there at the restore are clean, and keep the errors that they had (R212). -/
def InChan.packed (i : InChan) (first : Bool) : InChan :=
  if first then i else { i with err := (i.err.filter fun e => i.cleanTo ≤ e / 16) ++ i.cleanErr }

/-- One core's part of a task's image (R211): the first save takes every component, a later one what has changed since the restore (R212). -/
def State.saveCore (s : State) (id : Nat) (t : Task) (p : Place) : SavedCore :=
  let x := s.core p.core
  let r := (mget x.tasks p.rti).getD { task := id }
  let first := t.preempts == 0
  { band := p.band
    member := p.member
    core := p.core
    res := { r with achain := s.packChain p.core r.achain, cchain := s.packChain p.core r.cchain }
    actors := (x.actors.filter fun a => a.2.task == id).map fun a =>
      { a.2 with outs := a.2.outs.map (s.packOut t), ins := a.2.ins.map (·.packed first), readyAt := none }
    firings := (List.range 8).filterMap fun k => match s.firing p.core k with
      | some f => if f.rti == p.rti then some (k, s.packFiring p.core k f) else none
      | none => none
    sp := memCut s.mem (Loc.sp p.core r.spBase) r.spSize
    sl := (List.range 32).flatMap fun l => (memCut s.mem (Loc.slice p.core l r.slBase) r.slSize).map fun c => (l * 4096 + c.1, c.2)
    spErr := (s.imageErrs first (Loc.sp p.core r.spBase) r.spSize).map (· - Loc.sp p.core r.spBase)
    slErr := (List.range 32).flatMap fun l => (s.imageErrs first (Loc.slice p.core l r.slBase) r.slSize).map fun b => l * 4096 + (b - Loc.slice p.core l r.slBase)
    accErr := if r.arr then (s.imageErrs first (Loc.acc p.core 0) 131072).map (· - Loc.acc p.core 0) else []
    array := if r.arr then some x.array else none
    bfmt := r.banks.map fun b => (b, (x.bfmt.toList).getD b 0)
    xbar := if r.xbar then some x.xbar else none
    fwd := if r.links then some x.fwd else none
    fifos := if r.links then x.fifos.toList else []
    linkPsn := if r.links then x.linkPsn else []
    msgs := (x.nic.filter fun m => m.ofTask id).map fun m => match m with
      | .actor q c e ch d => .actor q (t.placeIdx c) (s.idxAt c e) ch d
      | m => m }

/-- The queues of a balanced band in an image: held entries name the place and slot of their holder. -/
def packQueues (f : Nat → Nat) (qs : SMap (List InChan)) : SMap (List InChan) :=
  qs.map fun q => (q.1, q.2.map fun i => { i with lent := i.lent.map fun e => (e.1, f e.2.1, e.2.2) })

/-- Take a saved task off a place: its slots, its gang's followers, its resident record. -/
def State.leavePlace (s : State) (id : Nat) (p : Place) : State :=
  let s := (List.range 8).foldl (fun s k => match s.firing p.core k with
    | some f =>
      if f.rti != p.rti then s
      else
        let s := if f.span = 1 then s else ((gangCores p.core f.span).drop 1).foldl (fun s c => s.setCore c { s.core c with follows := none }) s
        s.setCore p.core (((s.core p.core).disarm k).setSlot k none)
    | none => s) s
  s.freePlace id p

/-- `PREEMPT_SAVE`: task `n`. -/
def execPreemptSave (s : State) : Host.Outcome State Fault Refusal :=
  let id := s.cur.n
  .next (match s.task id with
    | none => s
    | some t =>
      if !s.mayBeSaved id t then s
      else
        let s := t.regions.foldl (fun s r => if r.exits then (s.flushCores t.l1Cores r.space t.ctx r.lo r.hi).1 else s) s
        let saved := t.places.map (s.saveCore id t)
        let regions := (t.regions.zip (List.range 16)).map fun q => { q.1 with high := s.highWater t q.2 }
        let bytes := imageBytes t.tw
        let u : Task := { t with
          state := .saved
          saved
          regions
          queues := packQueues (fun h => t.placeIdx (h / 8) * 8 + h % 8) t.queues
          reserved := bytes
          preempts := t.preempts + 1
          preempt := false
          former := t.l1Cores
          windows := t.windows ++ s.openWindows t
          places := [] }
        let s := t.places.foldl (fun s p => s.leavePlace id p) (s.setTask id { t with windows := u.windows })
        let keep (m : OutMsg) : Bool := !m.ofTask id
        let s := { s with cores := s.cores.map fun (c : Nat × Core) => (c.1, { c.2 with nic := c.2.nic.filter keep }) }
        let d := s.die (id / 2 ^ 29)
        let s := s.setDie (id / 2 ^ 29) { d with saveUsed := d.saveUsed + (if t.reserved = 0 then bytes else 0) }
        (s.setTask id u).requestDone id)

/-! ### Restoring (R99, R256, R310) -/

/-- The slots that saved firings take on a core: their own where free, else the lowest free. -/
def newSlots (x : Core) (used : List Nat) (ks : List Nat) : List (Nat × Nat) :=
  match ks with
  | [] => []
  | k :: t =>
    let isFree (n : Nat) : Bool := !used.contains n && (if h : n < 8 then x.slots[n].isNone else false)
    let n := if isFree k then k else ((List.range 8).find? isFree).getD k
    (k, n) :: newSlots x (n :: used) t

/-- The place that a byte of a saved range stands at now. -/
def State.relocate (s : State) (t : Task) (a : Nat) : Nat :=
  (t.saved.findSome? fun c =>
    let lo := Loc.sp c.core c.res.spBase
    if lo ≤ a && a < lo + c.res.spSize then
      (t.places.find? fun p => p.band == c.band && p.member == c.member).bind fun p =>
        (s.resident p.core p.rti).map fun r => Loc.sp p.core r.spBase + (a - lo)
    else none).getD a

/-- A chain of an image on a core whose scratchpad range begins at `new`, with the new slots and entries of its firings. -/
def State.unpackChain (s : State) (c id old new : Nat) (ks : List (Nat × Nat)) (x : Chain) : Chain :=
  { x with
    cfg := if x.cfg = 0 then 0 else setFld x.cfg 13 0 (fld x.cfg 13 0 + new / 64 - old / 64)
    tags := x.tags.map fun t => { t with
      slot := t.slot.bind fun k => (ks.find? fun q => q.1 == k).map (·.2)
      actor := ((s.actorOf c id t.actor).map (·.1)).getD 64 } }

/-- The registers of a firing, by space and number. -/
def allRegs : List (Nat × Nat) := [(0, 64), (1, 32), (2, 8), (3, 8), (4, 8)].flatMap fun p => (List.range p.2).map fun r => (p.1, r)

/-- The lines of `n` bytes from `a` on are clean: a restore has written them (R212). -/
def State.cleaned (s : State) (a n : Nat) : State :=
  if n = 0 then s
  else { s with clean := (List.range ((a + n - 1) / 256 - a / 256 + 1)).foldl (fun m i =>
    mset m (a / 256 + i) (s.bad.filter fun b => b / 256 == a / 256 + i)) s.clean }

/-- The crossbar of an image at clock `clk`: what had pulsed or fired goes on from there, and the timer keeps its period. -/
def Xbar.resumed (x : Xbar) (clk : Nat) : Xbar :=
  let p := fld x.timer 31 0
  { x with
    pulses := x.pulses.map fun q => (q.1, clk)
    fired := x.fired.map fun q => (q.1, clk)
    timerAt := if p = 0 || clk < x.timerAt then x.timerAt else x.timerAt + ((clk - x.timerAt) / p + 1) * p }

/-- A channel of an image on its core. -/
def InChan.unpacked (i : InChan) : InChan := { i with cleanTo := i.ord + i.fifo.length, cleanErr := i.err }

/-- Write one core's part of an image (R310). -/
def State.restoreCore (s : State) (id : Nat) (t : Task) (v : SavedCore) : State :=
  match t.places.find? fun p => p.band == v.band && p.member == v.member with
  | none => s
  | some p => match s.resident p.core p.rti with
    | none => s
    | some r =>
      let ks := newSlots (s.core p.core) [] (v.firings.map (·.1))
      let entryOf (c idx : Nat) : Nat := ((s.actorOf c id idx).map (·.1)).getD 64
      let at_ (i : Nat) : Nat := ((t.places[i]?).map (·.core)).getD p.core
      let res : Resident := { v.res with
        spBase := r.spBase
        chBase := r.chBase
        slBase := r.slBase
        achain := s.unpackChain p.core id v.res.spBase r.spBase ks v.res.achain
        cchain := s.unpackChain p.core id v.res.spBase r.spBase ks v.res.cchain }
      let mem := memPaste (memZero s.mem (Loc.sp p.core r.spBase) r.spSize) (Loc.sp p.core r.spBase) v.sp
      let mem := (List.range 32).foldl (fun m l => memZero m (Loc.slice p.core l r.slBase) r.slSize) mem
      let mem := v.sl.foldl (fun m c => memSet m (Loc.slice p.core (c.1 / 4096) (r.slBase + c.1 % 4096)) c.2) mem
      let bad := (List.range 32).foldl (fun b l => badLeft b (Loc.slice p.core l r.slBase) r.slSize) (badLeft s.bad (Loc.sp p.core r.spBase) r.spSize)
      let bad := bad ++ v.spErr.map (Loc.sp p.core r.spBase + ·) ++ v.slErr.map fun a => Loc.slice p.core (a / 4096) (r.slBase + a % 4096)
      let s := ({ s with mem, bad }).setResident p.core p.rti res
      let x := s.core p.core
      let acts := x.actors.map fun a => if a.2.task != id then a else match v.actors.find? (·.idx == a.2.idx) with
        | some b => (a.1, { b with rti := p.rti, ins := b.ins.map (·.unpacked), outs := b.outs.map fun o => { o with tcore := at_ o.tcore, tactor := entryOf (at_ o.tcore) o.tactor } })
        | none => a
      let x : Core := { x with
        actors := acts
        nic := x.nic ++ v.msgs.map fun m => match m with
          | .actor q i e ch d => .actor q (at_ i) (entryOf (at_ i) e) ch d
          | m => m }
      let x : Core := match v.array with
        | some a => { x with array := a }
        | none => x
      let s := if v.array.isSome then { s with bad := badLeft s.bad (Loc.acc p.core 0) (32768 * 4) ++ v.accErr.map (Loc.acc p.core 0 + ·) } else s
      let x := r.banks.foldl (fun x b => x.setBfmt b 0) x
      let x := v.bfmt.foldl (fun x b =>
        let n := b.1 + r.spBase / 65536 - v.res.spBase / 65536
        if r.banks.contains n then x.setBfmt n b.2 else x) x
      let x : Core := match v.xbar with
        | some q => { x with xbar := q.resumed s.clk }
        | none => x
      let x : Core := match v.fwd with
        | some w => { x with fwd := w, fifos := Vector.ofFn fun i => v.fifos.getD i.val [], linkPsn := v.linkPsn }
        | none => x
      let s := (s.setCore p.core x).cleaned (Loc.sp p.core r.spBase) r.spSize
      let s := (List.range 32).foldl (fun s l => s.cleaned (Loc.slice p.core l r.slBase) r.slSize) s
      let s := if v.array.isSome then s.cleaned (Loc.acc p.core 0) 131072 else s
      v.firings.foldl (fun s f =>
        match ks.find? fun q => q.1 == f.1 with
        | none => s
        | some (_, k) =>
          let g : Firing := { f.2 with
            actor := entryOf p.core f.2.actor
            rti := p.rti
            stopped := false
            clean := allRegs.filter fun r => !f.2.parity.contains r
            tried := none
            nextIssue := max f.2.nextIssue (s.clk + 1)
            ready := none
            wait := match f.2.wait with
              | .cwait a key n d y e => .cwait (s.relocate t a) key n d y e
              | w => w }
          let s := s.setFiring p.core k g
          if g.gang = 1 then s else ((gangCores p.core g.gang).drop 1).foldl (fun s c => s.setCore c { s.core c with follows := some p.core }) s) s

/-- The new holder of a queue's entry: place and slot of the image become core and slot. -/
def State.newHolder (s : State) (t : Task) (h : Nat) : Nat :=
  match t.places[h / 8]? with
  | none => h
  | some p =>
    let v := t.saved.find? fun c => c.band == p.band && c.member == p.member
    let ks := (v.map fun v => newSlots (s.core p.core) [] (v.firings.map (·.1))).getD []
    holder p.core (((ks.find? fun q => q.1 == h % 8).map (·.2)).getD (h % 8))

/-- `TASK_RESTORE`: task `n`: its image written, the invalidation of its entry edge replayed, its waits judged again. -/
def execTaskRestore (s : State) : Host.Outcome State Fault Refusal :=
  let id := s.cur.n
  .next (match s.task id with
    | none => s
    | some t =>
      if t.state != .restoring then s
      else
        let qs := packQueues (s.newHolder t) t.queues
        let s := t.saved.foldl (fun s v => s.restoreCore id t v) s
        let s := t.regions.foldl (fun s r => s.enterRegion id t false r) s
        let s := s.setTask id { t with saved := [], queues := qs }
        let s := s.beginRunning id
        t.places.foldl (fun s p => (s.wakeChain p.core p.rti true).wakeChain p.core p.rti false) s)

/-! ### Stage balancing (R312) -/

/-- The entries in a queue, and the most that a channel of a stage holds. -/
def InChan.held (i : InChan) : Nat := i.fifo.length + i.back.length + i.lent.length

/-- The replicas of a stage: core, entry and actor, in ascending k. -/
def State.replicas (s : State) (id : Nat) (t : Task) (stage : Nat) : List (CoreId × Nat × Actor) :=
  t.places.flatMap fun p => (s.core p.core).actors.filterMap fun a => if a.2.task == id && a.2.stage == stage then some (p.core, a.1, a.2) else none

/-- The stages that the balancer chooses: the idle one and the congested one. -/
def State.balancePair (s : State) (id : Nat) (t : Task) : Option (Nat × Nat) :=
  let full := t.queues.filterMap fun q =>
    let n := q.2.foldl (fun m i => if (3 * i.depth + 3) / 4 < i.held then max m i.held else m) 0
    if n = 0 then none else some (q.1, n)
  let pick := full.foldl (fun (m : Option (Nat × Nat)) x => match m with
    | none => some x
    | some y => if y.2 < x.2 then some x else some y) none
  let idle := t.queues.find? fun q => !q.2.isEmpty && q.2.all (fun i => i.held == 0) && 2 ≤ (s.replicas id t q.1).length
  match idle, pick with
  | some p, some q => some (p.1, q.1)
  | _, _ => none

/-- Rebind the lowest idle replica of stage `a` to the handler and channels of stage `b` on its core. -/
def State.rebind (s : State) (id : Nat) (t : Task) (a b : Nat) : State :=
  match (s.replicas id t a).find? fun r => !r.2.2.busy with
  | none => s
  | some (c, e, x) =>
    let like := (s.core c).actors.find? fun y => y.2.task == id && y.2.idx == b
    let decl := (mget s.pkg.images x.image).bind fun m => m.actors[b]?
    match like, decl with
    | some (_, y), some d =>
      let outs := s.bindOuts t id { band := 0, member := 0, core := c, rti := x.rti } d.outs
      s.setActor c e { x with stage := b, entry := d.entry, cls := if d.ins.isEmpty then y.cls else d.ins.foldl (fun m i => min m i.cls) 3, outs := outs, ins := y.ins.map fun i => { i with fifo := [], reserved := 0 }, held := false, readyAt := none }
    | _, _ => s

/-- Whether the balancer of a task looks in this clock: every 4 µs. -/
def Task.balanceDue (t : Task) (clk : Nat) : Bool := t.state == .running && tyBit t.tw 42 && t.balancedAt + 9000 ≤ clk

/-- `STAGE_BALANCE`: task `n`. -/
def execStageBalance (s : State) : Host.Outcome State Fault Refusal :=
  let id := s.cur.n
  .next (match s.task id with
    | none => s
    | some t =>
      if !t.balanceDue s.clk then s
      else
        let s := s.setTask id { t with balancedAt := s.clk }
        match s.balancePair id t with
        | some (a, b) => s.rebind id t a b
        | none => s)

end Sys2Proof.Machine
end

