-- ==== Sys2Proof/Machine/VectorInt.lean ====
section
/-! DEFINITION. Vector integer instructions and lane masks, opcodes 0x60 to 0x7E (R159 to R166). -/

namespace Sys2Proof.Machine

/-! ### Elements -/

/-- A factor of the multiply instructions (R160). -/
def Ctx.factor (x : Ctx) (r : BitVec 6) (e : Nat) : Int :=
  let w := x.ew
  if w = 32 && !x.m3 then readInt x.un 24 (elem (x.v r) w e % 2 ^ 24) else x.ie x.un r e

/-- The exact product (R160). -/
def Ctx.prod (x : Ctx) (e : Nat) : Int := x.factor x.w.a e * x.factor x.w.b e

/-- Wrap, or clamp with `SAT`. -/
def Ctx.fit (x : Ctx) (i : Int) : Int := if x.sat then clampInt x.un x.ew i else i

/-- A `.w32` form occupies the multipliers (R160). -/
def mulBody (f : Ctx → List RegWrite) (x : Ctx) (s : State) : Body :=
  let s := if x.ew = 32 && x.m3 then s.setCore x.c { s.core x.c with mulFree := s.clk + 4 } else s
  .ok { s, writes := f x }

/-- The amount of a shift (R161). -/
def Ctx.shAmt (x : Ctx) (e : Nat) : Nat :=
  if x.m3 then fld (x.g x.w.b) 7 0 else elem (x.v x.w.b) x.ew e % 256

/-- `VSHL`, `VSHR`, `VSAR` of one element (R161). -/
def vshl (sat u : Bool) (w n a : Nat) : Int :=
  if sat then clampInt u w (readInt u w a * 2 ^ n) else if w ≤ n then 0 else (a * 2 ^ n : Nat)
def vshr (w n a : Nat) : Int := if w ≤ n then 0 else (a / 2 ^ n : Nat)
def vsar (w n a : Nat) : Int := readInt false w a / 2 ^ (min n w)

/-- `VRQ` of one lane (R162). -/
def vrq (o4 u : Bool) (sh : Nat) (zp a m : Int) : Nat :=
  let p := a * m
  let p := if sh = 0 then p else (p + 2 ^ (sh - 1)) / 2 ^ sh
  let w := if o4 then 4 else 8
  wrapInt w (clampInt u w (p + zp))

def vrqRes (x : Ctx) : List RegWrite :=
  let c := x.g x.w.c
  let pos := fld c 18 16
  let (w, sh) := if x.m3 then (4, 4 * pos) else (8, 8 * (pos % 4))
  let y (i : Nat) : Nat := vrq x.m3 x.un (fld c 5 0) (readInt false 8 (fld c 15 8)) (x.ie false x.w.a i) (x.ie false x.w.b i)
  [.v x.w.d.toNat (packV 32 ((List.range x.lanes).map fun i => if x.on i then y i * 2 ^ sh else 0)) (x.mask ((2 ^ w - 1) * 2 ^ sh))]

/-- `VDOT4` of one lane (R163). -/
def vdot4 (x : Ctx) (i : Nat) : Nat :=
  let el (u : Bool) (r : BitVec 6) (j : Nat) : Int := readInt u 8 (elem (x.v r) 8 (4 * i + j))
  let ua := x.un || x.m3
  let c : Int := readInt x.un 32 (elem (x.v x.w.c) 32 i)
  let t := (List.range 4).foldl (fun t j => t + el ua x.w.a j * el x.un x.w.b j) c
  wrapInt 32 (if x.sat then clampInt x.un 32 t else t)

/-! ### Reductions (R165) -/

/-- The identity of an operation of R165. -/
def redId (op : Nat) (u : Bool) (w : Nat) : Int :=
  match op with
  | 1 => intMax u w
  | 2 => intMin u w
  | 3 => 2 ^ w - 1
  | _ => 0

/-- One step of a reduction. -/
def redStep (op : Nat) (w : Nat) (a b : Int) : Int :=
  match op with
  | 0 => a + b
  | 1 => min a b
  | 2 => max a b
  | 3 => ((wrapInt w a &&& wrapInt w b : Nat) : Int)
  | 4 => ((wrapInt w a ||| wrapInt w b : Nat) : Int)
  | _ => ((wrapInt w a ^^^ wrapInt w b : Nat) : Int)

def vredRes (x : Ctx) : List RegWrite :=
  let op := (x.w.mod.extractLsb' 3 3).toNat
  let u := x.un || 3 ≤ op
  [.g x.w.d (wi ((x.actives x.ew).foldl (fun t e => redStep op x.ew t (x.ie u x.w.a e)) (redId op u x.ew)))]

/-- The prefixes of the elements from `e` on, `t` being the prefix so far. -/
def scanGo (x : Ctx) (op : Nat) (excl : Bool) (es : List Nat) (t : Int) : List Nat :=
  match es with
  | [] => []
  | e :: r =>
    if x.onE x.ew e then
      let t' := redStep op x.ew t (x.ie x.un x.w.a e)
      wrapInt x.ew (if excl then t else t') :: scanGo x op excl r t'
    else 0 :: scanGo x op excl r t

def vscanRes (x : Ctx) : List RegWrite :=
  let op := (x.w.mod.extractLsb' 3 2).toNat
  [.v x.w.d.toNat (packV x.ew (scanGo x op (x.w.mod.getLsbD 5) (List.range (x.count x.ew)) (redId op x.un x.ew))) x.fullMask]

/-! ### Scalars and masks -/

def vextRes (x : Ctx) : List RegWrite :=
  [.g x.w.d (wi (x.ie x.un x.w.a ((x.g x.w.b).toNat % x.count x.ew)))]

def vinsRes (x : Ctx) : List RegWrite :=
  let e := (x.g x.w.b).toNat % x.count x.ew
  let m := BitVec.ofNat 8192 ((2 ^ x.ew - 1) * 2 ^ (e * x.ew))
  [.v x.w.d.toNat (BitVec.ofNat 8192 ((x.g x.w.a).toNat % 2 ^ x.ew * 2 ^ (e * x.ew))) m]

/-- A lane mask from the lanes that `p` holds for. -/
def Ctx.kOf (x : Ctx) (p : Nat → Bool) : KReg :=
  BitVec.ofNat 256 (packN 1 ((List.range x.lanes).map fun i => if p i then 1 else 0))

def klogRes (x : Ctx) : List RegWrite :=
  [.k x.w.d.toNat (x.kOf fun i => lut x.w.mod ((x.km x.w.a).getLsbD i) ((x.km x.w.b).getLsbD i))]
where lut (t : BitVec 8) (a b : Bool) : Bool := t.getLsbD (2 * a.toNat + b.toNat)

/-! ### The instructions -/

def execVadd (w : Tolog) (s : State) := issue 0x60 w s (pureBody fun x => x.ivec fun e => x.ie true w.a e + x.ie true w.b e)
def execVsub (w : Tolog) (s : State) := issue 0x61 w s (pureBody fun x => x.ivec fun e => x.ie true w.a e - x.ie true w.b e)
def execVmul (w : Tolog) (s : State) := issue 0x62 w s (mulBody fun x => x.ivec fun e => x.fit (x.prod e))
def execVmulh (w : Tolog) (s : State) := issue 0x63 w s (mulBody fun x => x.ivec fun e => x.prod e / 2 ^ x.ew)
def execVmad (w : Tolog) (s : State) := issue 0x64 w s (mulBody fun x => x.ivec fun e => x.fit (x.prod e + x.ie x.un w.c e))
def execVmin (w : Tolog) (s : State) := issue 0x65 w s (pureBody fun x => x.ivec fun e => min (x.ie x.un w.a e) (x.ie x.un w.b e))
def execVmax (w : Tolog) (s : State) := issue 0x66 w s (pureBody fun x => x.ivec fun e => max (x.ie x.un w.a e) (x.ie x.un w.b e))
def execVabs (w : Tolog) (s : State) := issue 0x67 w s (pureBody fun x => x.ivec fun e => x.fit (x.ie false w.a e).natAbs)
def execVand (w : Tolog) (s : State) := issue 0x68 w s (pureBody fun x => x.vec 32 fun e => elem (x.v w.a) 32 e &&& elem (x.v w.b) 32 e)
def execVor (w : Tolog) (s : State) := issue 0x69 w s (pureBody fun x => x.vec 32 fun e => elem (x.v w.a) 32 e ||| elem (x.v w.b) 32 e)
def execVxor (w : Tolog) (s : State) := issue 0x6A w s (pureBody fun x => x.vec 32 fun e => elem (x.v w.a) 32 e ^^^ elem (x.v w.b) 32 e)
def execVshl (w : Tolog) (s : State) := issue 0x6B w s (pureBody fun x => x.ivec fun e => vshl x.sat x.un x.ew (x.shAmt e) (elem (x.v w.a) x.ew e))
def execVshr (w : Tolog) (s : State) := issue 0x6C w s (pureBody fun x => x.ivec fun e => vshr x.ew (x.shAmt e) (elem (x.v w.a) x.ew e))
def execVsar (w : Tolog) (s : State) := issue 0x6D w s (pureBody fun x => x.ivec fun e => vsar x.ew (x.shAmt e) (elem (x.v w.a) x.ew e))
def execVclz (w : Tolog) (s : State) := issue 0x6E w s (pureBody fun x => x.ivec fun e => clz x.ew (elem (x.v w.a) x.ew e))
def execVpopc (w : Tolog) (s : State) := issue 0x6F w s (pureBody fun x => x.ivec fun e => popc x.ew (elem (x.v w.a) x.ew e))
def execVcmp (w : Tolog) (s : State) := issue 0x70 w s (pureBody fun x => x.ivec fun e =>
  if ccHolds (w.mod.extractLsb' 3 3).toNat x.un x.ew (elem (x.v w.a) x.ew e) (elem (x.v w.b) x.ew e) then -1 else 0)
def execVsel (w : Tolog) (s : State) := issue 0x71 w s (pureBody fun x => x.ivec fun e =>
  if (elem (x.v w.c) x.ew e).testBit (x.ew - 1) then x.ie true w.a e else x.ie true w.b e)
def execVrq (w : Tolog) (s : State) := issue 0x72 w s (pureBody vrqRes)
def execVadds (w : Tolog) (s : State) := issue 0x73 w s (pureBody fun x => x.ivec fun e =>
  clampInt x.un x.ew (x.ie x.un w.a e + x.ie x.un w.b e))
def execVsubs (w : Tolog) (s : State) := issue 0x74 w s (pureBody fun x => x.ivec fun e =>
  clampInt x.un x.ew (x.ie x.un w.a e - x.ie x.un w.b e))
def execVavg (w : Tolog) (s : State) := issue 0x75 w s (pureBody fun x => x.ivec fun e => (x.ie x.un w.a e + x.ie x.un w.b e + 1) / 2)
def execVdot4 (w : Tolog) (s : State) := issue 0x76 w s (pureBody fun x => x.vec 32 (vdot4 x))
def execVmov (w : Tolog) (s : State) := issue 0x77 w s (pureBody fun x => x.ivec fun e =>
  if w.len = 0 then x.ie true w.a e else (w.imm.toNat : Int))
def execVext (w : Tolog) (s : State) := issue 0x78 w s (pureBody vextRes)
def execVins (w : Tolog) (s : State) := issue 0x79 w s (pureBody vinsRes)
def execVred (w : Tolog) (s : State) := issue 0x7A w s (pureBody vredRes)
def execVscan (w : Tolog) (s : State) := issue 0x7B w s (pureBody vscanRes)
def execKlog (w : Tolog) (s : State) := issue 0x7C w s (pureBody klogRes)
def execKlogFromv (w : Tolog) (s : State) := issue 0x7C w s (pureBody fun x =>
  [.k w.d.toNat (x.kOf fun i => (x.v w.a).getLsbD (32 * i + 31))])
def execKpopc (w : Tolog) (s : State) := issue 0x7D w s (pureBody fun x => [.g w.d (wd (popc x.lanes (x.km w.a).toNat))])
def execViota (w : Tolog) (s : State) := issue 0x7E w s (pureBody fun x => x.ivec fun e => ((x.g w.a).toNat + e : Nat))

end Sys2Proof.Machine
end

