-- ==== Sys2Proof/Machine/Dispatch.lean ====
section
/-! DEFINITION. The meaning of every instruction: one arm a constructor. -/

namespace Sys2Proof.Machine

def exec (i : Instr) (s : State) : Host.Outcome State Fault Refusal :=
  match i with
  | .nop w => Sys2Proof.Machine.execNop w s
  | .iadd w => Sys2Proof.Machine.execIadd w s
  | .isub w => Sys2Proof.Machine.execIsub w s
  | .imul w => Sys2Proof.Machine.execImul w s
  | .imulh w => Sys2Proof.Machine.execImulh w s
  | .idiv w => Sys2Proof.Machine.execIdiv w s
  | .irem w => Sys2Proof.Machine.execIrem w s
  | .imin w => Sys2Proof.Machine.execImin w s
  | .imax w => Sys2Proof.Machine.execImax w s
  | .iabs w => Sys2Proof.Machine.execIabs w s
  | .and_ w => Sys2Proof.Machine.execAnd w s
  | .or_ w => Sys2Proof.Machine.execOr w s
  | .xor_ w => Sys2Proof.Machine.execXor w s
  | .andn w => Sys2Proof.Machine.execAndn w s
  | .shl w => Sys2Proof.Machine.execShl w s
  | .shr w => Sys2Proof.Machine.execShr w s
  | .sar w => Sys2Proof.Machine.execSar w s
  | .rot w => Sys2Proof.Machine.execRot w s
  | .clz w => Sys2Proof.Machine.execClz w s
  | .popc w => Sys2Proof.Machine.execPopc w s
  | .bfx w => Sys2Proof.Machine.execBfx w s
  | .bfi w => Sys2Proof.Machine.execBfi w s
  | .sext w => Sys2Proof.Machine.execSext w s
  | .movi w => Sys2Proof.Machine.execMovi w s
  | .mov w => Sys2Proof.Machine.execMov w s
  | .sel w => Sys2Proof.Machine.execSel w s
  | .icmp w => Sys2Proof.Machine.execIcmp w s
  | .plog w => Sys2Proof.Machine.execPlog w s
  | .lea w => Sys2Proof.Machine.execLea w s
  | .imad w => Sys2Proof.Machine.execImad w s
  | .iadds w => Sys2Proof.Machine.execIadds w s
  | .br w => Sys2Proof.Machine.execBr w s
  | .bri w => Sys2Proof.Machine.execBri w s
  | .call w => Sys2Proof.Machine.execCall w s
  | .ret w => Sys2Proof.Machine.execRet w s
  | .jtab w => Sys2Proof.Machine.execJtab w s
  | .loop w => Sys2Proof.Machine.execLoop w s
  | .fini w => Sys2Proof.Machine.execFini w s
  | .abort w => Sys2Proof.Machine.execAbort w s
  | .yield w => Sys2Proof.Machine.execYield w s
  | .trap w => Sys2Proof.Machine.execTrap w s
  | .ctlr w => Sys2Proof.Machine.execCtlr w s
  | .ctlw w => Sys2Proof.Machine.execCtlw w s
  | .fence w => Sys2Proof.Machine.execFence w s
  | .clock w => Sys2Proof.Machine.execClock w s
  | .getid w => Sys2Proof.Machine.execGetid w s
  | .tret w => Sys2Proof.Machine.execTret w s
  | .ecall w => Sys2Proof.Machine.execEcall w s
  | .chavl w => Sys2Proof.Machine.execChavl w s
  | .chrd w => Sys2Proof.Machine.execChrd w s
  | .chwr w => Sys2Proof.Machine.execChwr w s
  | .send w => Sys2Proof.Machine.execSend w s
  | .sendh w => Sys2Proof.Machine.execSendh w s
  | .sendv w => Sys2Proof.Machine.execSendv w s
  | .ld w => Sys2Proof.Machine.execLd w s
  | .st w => Sys2Proof.Machine.execSt w s
  | .ldp w => Sys2Proof.Machine.execLdp w s
  | .stp w => Sys2Proof.Machine.execStp w s
  | .pref w => Sys2Proof.Machine.execPref w s
  | .amo w => Sys2Proof.Machine.execAmo w s
  | .cas w => Sys2Proof.Machine.execCas w s
  | .incw w => Sys2Proof.Machine.execIncw w s
  | .faddb w => Sys2Proof.Machine.execFaddb w s
  | .cadd w => Sys2Proof.Machine.execCadd w s
  | .caddFab w => Sys2Proof.Machine.execCaddFab w s
  | .cwait w => Sys2Proof.Machine.execCwait w s
  | .cread w => Sys2Proof.Machine.execCread w s
  | .mon w => Sys2Proof.Machine.execMon w s
  | .mwait w => Sys2Proof.Machine.execMwait w s
  | .hld w => Sys2Proof.Machine.execHld w s
  | .hst w => Sys2Proof.Machine.execHst w s
  | .rgchk w => Sys2Proof.Machine.execRgchk w s
  | .flushr w => Sys2Proof.Machine.execFlushr w s
  | .invr w => Sys2Proof.Machine.execInvr w s
  | .ldbit w => Sys2Proof.Machine.execLdbit w s
  | .stbit w => Sys2Proof.Machine.execStbit w s
  | .vadd w => Sys2Proof.Machine.execVadd w s
  | .vsub w => Sys2Proof.Machine.execVsub w s
  | .vmul w => Sys2Proof.Machine.execVmul w s
  | .vmulh w => Sys2Proof.Machine.execVmulh w s
  | .vmad w => Sys2Proof.Machine.execVmad w s
  | .vmin w => Sys2Proof.Machine.execVmin w s
  | .vmax w => Sys2Proof.Machine.execVmax w s
  | .vabs w => Sys2Proof.Machine.execVabs w s
  | .vand w => Sys2Proof.Machine.execVand w s
  | .vor w => Sys2Proof.Machine.execVor w s
  | .vxor w => Sys2Proof.Machine.execVxor w s
  | .vshl w => Sys2Proof.Machine.execVshl w s
  | .vshr w => Sys2Proof.Machine.execVshr w s
  | .vsar w => Sys2Proof.Machine.execVsar w s
  | .vclz w => Sys2Proof.Machine.execVclz w s
  | .vpopc w => Sys2Proof.Machine.execVpopc w s
  | .vcmp w => Sys2Proof.Machine.execVcmp w s
  | .vsel w => Sys2Proof.Machine.execVsel w s
  | .vrq w => Sys2Proof.Machine.execVrq w s
  | .vadds w => Sys2Proof.Machine.execVadds w s
  | .vsubs w => Sys2Proof.Machine.execVsubs w s
  | .vavg w => Sys2Proof.Machine.execVavg w s
  | .vdot4 w => Sys2Proof.Machine.execVdot4 w s
  | .vmov w => Sys2Proof.Machine.execVmov w s
  | .vext w => Sys2Proof.Machine.execVext w s
  | .vins w => Sys2Proof.Machine.execVins w s
  | .vred w => Sys2Proof.Machine.execVred w s
  | .vscan w => Sys2Proof.Machine.execVscan w s
  | .klog w => Sys2Proof.Machine.execKlog w s
  | .klogFromv w => Sys2Proof.Machine.execKlogFromv w s
  | .kpopc w => Sys2Proof.Machine.execKpopc w s
  | .viota w => Sys2Proof.Machine.execViota w s
  | .vfadd w => Sys2Proof.Machine.execVfadd w s
  | .vfsub w => Sys2Proof.Machine.execVfsub w s
  | .vfmul w => Sys2Proof.Machine.execVfmul w s
  | .vfma w => Sys2Proof.Machine.execVfma w s
  | .vfmin w => Sys2Proof.Machine.execVfmin w s
  | .vfmax w => Sys2Proof.Machine.execVfmax w s
  | .vfneg w => Sys2Proof.Machine.execVfneg w s
  | .vfcmp w => Sys2Proof.Machine.execVfcmp w s
  | .vfdiv w => Sys2Proof.Machine.execVfdiv w s
  | .vfsqrt w => Sys2Proof.Machine.execVfsqrt w s
  | .vfrsq w => Sys2Proof.Machine.execVfrsq w s
  | .vfrcp w => Sys2Proof.Machine.execVfrcp w s
  | .vfexp2 w => Sys2Proof.Machine.execVfexp2 w s
  | .vflog2 w => Sys2Proof.Machine.execVflog2 w s
  | .vftrig w => Sys2Proof.Machine.execVftrig w s
  | .vftanh w => Sys2Proof.Machine.execVftanh w s
  | .vfsig w => Sys2Proof.Machine.execVfsig w s
  | .vfcvt w => Sys2Proof.Machine.execVfcvt w s
  | .vicvt w => Sys2Proof.Machine.execVicvt w s
  | .vfdotmx w => Sys2Proof.Machine.execVfdotmx w s
  | .vfscale w => Sys2Proof.Machine.execVfscale w s
  | .vfred w => Sys2Proof.Machine.execVfred w s
  | .vfclass w => Sys2Proof.Machine.execVfclass w s
  | .vftri w => Sys2Proof.Machine.execVftri w s
  | .vfpack w => Sys2Proof.Machine.execVfpack w s
  | .vfunpk w => Sys2Proof.Machine.execVfunpk w s
  | .vld w => Sys2Proof.Machine.execVld w s
  | .vst w => Sys2Proof.Machine.execVst w s
  | .vlds w => Sys2Proof.Machine.execVlds w s
  | .vsts w => Sys2Proof.Machine.execVsts w s
  | .vgath w => Sys2Proof.Machine.execVgath w s
  | .vscat w => Sys2Proof.Machine.execVscat w s
  | .vldb w => Sys2Proof.Machine.execVldb w s
  | .vstb w => Sys2Proof.Machine.execVstb w s
  | .vldl w => Sys2Proof.Machine.execVldl w s
  | .vstl w => Sys2Proof.Machine.execVstl w s
  | .vperm w => Sys2Proof.Machine.execVperm w s
  | .vrot w => Sys2Proof.Machine.execVrot w s
  | .vzip w => Sys2Proof.Machine.execVzip w s
  | .vuzp w => Sys2Proof.Machine.execVuzp w s
  | .vbcast w => Sys2Proof.Machine.execVbcast w s
  | .vcomp w => Sys2Proof.Machine.execVcomp w s
  | .vexpd w => Sys2Proof.Machine.execVexpd w s
  | .vamo w => Sys2Proof.Machine.execVamo w s
  | .bamov w => Sys2Proof.Machine.execBamov w s
  | .bamovRd w => Sys2Proof.Machine.execBamovRd w s
  | .baadd w => Sys2Proof.Machine.execBaadd w s
  | .mwld w => Sys2Proof.Machine.execMwld w s
  | .mswap w => Sys2Proof.Machine.execMswap w s
  | .mstrm w => Sys2Proof.Machine.execMstrm w s
  | .mdrain w => Sys2Proof.Machine.execMdrain w s
  | .mzero w => Sys2Proof.Machine.execMzero w s
  | .mspmap w => Sys2Proof.Machine.execMspmap w s
  | .cpy w => Sys2Proof.Machine.execCpy w s
  | .cpy2d w => Sys2Proof.Machine.execCpy2d w s
  | .chtail w => Sys2Proof.Machine.execChtail w s
  | .chseq w => Sys2Proof.Machine.execChseq w s
  | .chwait w => Sys2Proof.Machine.execChwait w s
  | .xbarw w => Sys2Proof.Machine.execXbarw w s
  | .xbarr w => Sys2Proof.Machine.execXbarr w s
  | .bfmt w => Sys2Proof.Machine.execBfmt w s
  | .help w => Sys2Proof.Machine.execHelp w s
  | .evqr w => Sys2Proof.Machine.execEvqr w s
  | .gang w => Sys2Proof.Machine.execGang w s
  | .disband w => Sys2Proof.Machine.execDisband w s
  | .bar w => Sys2Proof.Machine.execBar w s
  | .lnkcfg w => Sys2Proof.Machine.execLnkcfg w s
  | .lnkst w => Sys2Proof.Machine.execLnkst w s
  | .rsend w => Sys2Proof.Machine.execRsend w s
  | .rtree w => Sys2Proof.Machine.execRtree w s
  | .tspawn w => Sys2Proof.Machine.execTspawn w s
  | .tdone w => Sys2Proof.Machine.execTdone w s
  | .tdoneKill w => Sys2Proof.Machine.execTdoneKill w s
  | .tregRel w => Sys2Proof.Machine.execTregRel w s
  | .tregRo w => Sys2Proof.Machine.execTregRo w s
  | .tqry w => Sys2Proof.Machine.execTqry w s
  | .sfork w => Sys2Proof.Machine.execSfork w s
  | .sforkNew w => Sys2Proof.Machine.execSforkNew w s
  | .sret w => Sys2Proof.Machine.execSret w s
  | .sjoinArm w => Sys2Proof.Machine.execSjoinArm w s
  | .sjoinQ w => Sys2Proof.Machine.execSjoinQ w s
  | .sflat w => Sys2Proof.Machine.execSflat w s
  | .sattn w => Sys2Proof.Machine.execSattn w s
  | .sapp w => Sys2Proof.Machine.execSapp w s
  | .spark w => Sys2Proof.Machine.execSpark w s
  | .swakeWake w => Sys2Proof.Machine.execSwakeWake w s
  | .swakePre w => Sys2Proof.Machine.execSwakePre w s
  | .swakeExt w => Sys2Proof.Machine.execSwakeExt w s
  | .smig w => Sys2Proof.Machine.execSmig w s
  | .sprune w => Sys2Proof.Machine.execSprune w s
  | .sstep w => Sys2Proof.Machine.execSstep w s
  | .xlinvcWrite w => Sys2Proof.Machine.execXlinvcWrite w s
  | .fseedWrite w => Sys2Proof.Machine.execFseedWrite w s
  | .tepreqWrite w => Sys2Proof.Machine.execTepreqWrite w s
  | .spcfgWrite w => Sys2Proof.Machine.execSpcfgWrite w s
  | .vdomWrite w => Sys2Proof.Machine.execVdomWrite w s
  | .hCadd b a => Sys2Proof.Machine.execHCadd b a s
  | .hPush b a => Sys2Proof.Machine.execHPush b a s
  | .hChap b a d => Sys2Proof.Machine.execHChap b a d s
  | .hEvq b a d => Sys2Proof.Machine.execHEvq b a d s
  | .hWait b a d => Sys2Proof.Machine.execHWait b a d s
  | .rv32imcInstruction r len => Sys2Proof.Machine.execRv32imcInstruction r len s
  | .tableWalk ctx va wr ilv => Sys2Proof.Machine.execTableWalk ctx va wr ilv s
  | .wakeAliasWrite p bs => Sys2Proof.Machine.execWakeAliasWrite p bs s
  | .bar2Access wr pa len bs => Sys2Proof.Machine.execBar2Access wr pa len bs s
  | .qtailWrite v => Sys2Proof.Machine.execQtailWrite v s
  | .qkickWrite v => Sys2Proof.Machine.execQkickWrite v s
  | .load x => Sys2Proof.Machine.execLoad x s
  | .keyLoad key load allot => Sys2Proof.Machine.execKeyLoad key load allot s
  | .measuredStart a b => Sys2Proof.Machine.execMeasuredStart a b s
  | .throttleStart tj pwr => Sys2Proof.Machine.execThrottleStart tj pwr s
  | .throttleEnd tj pwr => Sys2Proof.Machine.execThrottleEnd tj pwr s
  | .fabMsg p => Sys2Proof.Machine.execFabMsg p s
  | .fabRed p => Sys2Proof.Machine.execFabRed p s
  | .fabCtr p => Sys2Proof.Machine.execFabCtr p s
  | .fabWake p => Sys2Proof.Machine.execFabWake p s
  | .sxreq p => Sys2Proof.Machine.execSxreq p s
  | .sxack p => Sys2Proof.Machine.execSxack p s
  | .sxnak p => Sys2Proof.Machine.execSxnak p s
  | .sxpull p => Sys2Proof.Machine.execSxpull p s
  | .sxdata p => Sys2Proof.Machine.execSxdata p s
  | .sxdone p => Sys2Proof.Machine.execSxdone p s
  | .sxfin p => Sys2Proof.Machine.execSxfin p s
  | .sxabort p => Sys2Proof.Machine.execSxabort p s
  | .rmem p => Sys2Proof.Machine.execRmem p s
  | .moved p => Sys2Proof.Machine.execMoved p s
  | .rspBounce p => Sys2Proof.Machine.execRspBounce p s
  | .rspAcknowledge p => Sys2Proof.Machine.execRspAcknowledge p s
  | .qbaseWrite v => Sys2Proof.Machine.execQbaseWrite v s
  | .qdwbWrite v => Sys2Proof.Machine.execQdwbWrite v s
  | .queueBind key ctx fn => Sys2Proof.Machine.execQueueBind key ctx fn s
  | .hPulse => Sys2Proof.Machine.execHPulse s
  | .helperWake => Sys2Proof.Machine.execHelperWake s
  | .firingStart => Sys2Proof.Machine.execFiringStart s
  | .messageArrival => Sys2Proof.Machine.execMessageArrival s
  | .resultDelivery => Sys2Proof.Machine.execResultDelivery s
  | .mxsusDelivery => Sys2Proof.Machine.execMxsusDelivery s
  | .cwaitEnd => Sys2Proof.Machine.execCwaitEnd s
  | .cwaitTimeout => Sys2Proof.Machine.execCwaitTimeout s
  | .monRegistered => Sys2Proof.Machine.execMonRegistered s
  | .mwaitWake => Sys2Proof.Machine.execMwaitWake s
  | .mwaitTimeout => Sys2Proof.Machine.execMwaitTimeout s
  | .yieldExpiry => Sys2Proof.Machine.execYieldExpiry s
  | .xbarPulse => Sys2Proof.Machine.execXbarPulse s
  | .xbarTermFire => Sys2Proof.Machine.execXbarTermFire s
  | .xbarStartAction => Sys2Proof.Machine.execXbarStartAction s
  | .xbarTimer => Sys2Proof.Machine.execXbarTimer s
  | .emptyEntry => Sys2Proof.Machine.execEmptyEntry s
  | .mwldEntry => Sys2Proof.Machine.execMwldEntry s
  | .mswapEntry => Sys2Proof.Machine.execMswapEntry s
  | .mstrmEntry => Sys2Proof.Machine.execMstrmEntry s
  | .mdrainEntry => Sys2Proof.Machine.execMdrainEntry s
  | .mzeroEntry => Sys2Proof.Machine.execMzeroEntry s
  | .mspmapEntry => Sys2Proof.Machine.execMspmapEntry s
  | .cpyEntry => Sys2Proof.Machine.execCpyEntry s
  | .cpy2dEntry => Sys2Proof.Machine.execCpy2dEntry s
  | .entryComplete => Sys2Proof.Machine.execEntryComplete s
  | .folRelease => Sys2Proof.Machine.execFolRelease s
  | .gangFormed => Sys2Proof.Machine.execGangFormed s
  | .linkWordArrival => Sys2Proof.Machine.execLinkWordArrival s
  | .partialSumArrival => Sys2Proof.Machine.execPartialSumArrival s
  | .routerMergeSend => Sys2Proof.Machine.execRouterMergeSend s
  | .routerResponseSplit => Sys2Proof.Machine.execRouterResponseSplit s
  | .xlinvDone => Sys2Proof.Machine.execXlinvDone s
  | .taskQueued => Sys2Proof.Machine.execTaskQueued s
  | .taskDispatch => Sys2Proof.Machine.execTaskDispatch s
  | .taskAgePreempt => Sys2Proof.Machine.execTaskAgePreempt s
  | .entryEdge => Sys2Proof.Machine.execEntryEdge s
  | .quiescence => Sys2Proof.Machine.execQuiescence s
  | .tregFlush => Sys2Proof.Machine.execTregFlush s
  | .exitDrain => Sys2Proof.Machine.execExitDrain s
  | .exitFlush => Sys2Proof.Machine.execExitFlush s
  | .exitPublish => Sys2Proof.Machine.execExitPublish s
  | .preemptWaitExpiry => Sys2Proof.Machine.execPreemptWaitExpiry s
  | .preemptSave => Sys2Proof.Machine.execPreemptSave s
  | .taskRestore => Sys2Proof.Machine.execTaskRestore s
  | .stageBalance => Sys2Proof.Machine.execStageBalance s
  | .streamRelease => Sys2Proof.Machine.execStreamRelease s
  | .absorb => Sys2Proof.Machine.execAbsorb s
  | .batchForm => Sys2Proof.Machine.execBatchForm s
  | .batchTimerExpiry => Sys2Proof.Machine.execBatchTimerExpiry s
  | .joinReduce => Sys2Proof.Machine.execJoinReduce s
  | .attnTripleMerge => Sys2Proof.Machine.execAttnTripleMerge s
  | .pendingPark => Sys2Proof.Machine.execPendingPark s
  | .wake => Sys2Proof.Machine.execWake s
  | .parkTcxExpiry => Sys2Proof.Machine.execParkTcxExpiry s
  | .parkTflExpiry => Sys2Proof.Machine.execParkTflExpiry s
  | .frameMove => Sys2Proof.Machine.execFrameMove s
  | .stageA => Sys2Proof.Machine.execStageA s
  | .stageB => Sys2Proof.Machine.execStageB s
  | .stageC => Sys2Proof.Machine.execStageC s
  | .queueEnable => Sys2Proof.Machine.execQueueEnable s
  | .queueReset => Sys2Proof.Machine.execQueueReset s
  | .rstdone => Sys2Proof.Machine.execRstdone s
  | .qstatRead => Sys2Proof.Machine.execQstatRead s
  | .kick => Sys2Proof.Machine.execKick s
  | .hostCadd => Sys2Proof.Machine.execHostCadd s
  | .amsg => Sys2Proof.Machine.execAmsg s
  | .hostFence => Sys2Proof.Machine.execHostFence s
  | .hwrite => Sys2Proof.Machine.execHwrite s
  | .hread => Sys2Proof.Machine.execHread s
  | .graphReplay => Sys2Proof.Machine.execGraphReplay s
  | .graphComplete => Sys2Proof.Machine.execGraphComplete s
  | .map_ => Sys2Proof.Machine.execMap s
  | .unmap => Sys2Proof.Machine.execUnmap s
  | .keyq => Sys2Proof.Machine.execKeyq s
  | .hrst => Sys2Proof.Machine.execHrst s
  | .preempt => Sys2Proof.Machine.execPreempt s
  | .getVersion => Sys2Proof.Machine.execGetVersion s
  | .getCapabilities => Sys2Proof.Machine.execGetCapabilities s
  | .negotiateAlgorithms => Sys2Proof.Machine.execNegotiateAlgorithms s
  | .getDigests => Sys2Proof.Machine.execGetDigests s
  | .getCertificate => Sys2Proof.Machine.execGetCertificate s
  | .challenge => Sys2Proof.Machine.execChallenge s
  | .getMeasurements => Sys2Proof.Machine.execGetMeasurements s
  | .keyExchange => Sys2Proof.Machine.execKeyExchange s
  | .finish => Sys2Proof.Machine.execFinish s
  | .endSession => Sys2Proof.Machine.execEndSession s
  | .heartbeat => Sys2Proof.Machine.execHeartbeat s
  | .queryDeviceIdentifiers => Sys2Proof.Machine.execQueryDeviceIdentifiers s
  | .getFirmwareParameters => Sys2Proof.Machine.execGetFirmwareParameters s
  | .getStatus => Sys2Proof.Machine.execGetStatus s
  | .requestUpdate => Sys2Proof.Machine.execRequestUpdate s
  | .passComponentTable => Sys2Proof.Machine.execPassComponentTable s
  | .updateComponent comp => Sys2Proof.Machine.execUpdateComponent comp s
  | .requestFirmwareData bs => Sys2Proof.Machine.execRequestFirmwareData bs s
  | .transferComplete => Sys2Proof.Machine.execTransferComplete s
  | .verifyComplete good version => Sys2Proof.Machine.execVerifyComplete good version s
  | .applyComplete => Sys2Proof.Machine.execApplyComplete s
  | .activateFirmware => Sys2Proof.Machine.execActivateFirmware s
  | .cancelUpdateComponent => Sys2Proof.Machine.execCancelUpdateComponent s
  | .cancelUpdate => Sys2Proof.Machine.execCancelUpdate s
  | .lockInterface => Sys2Proof.Machine.execLockInterface s
  | .getDeviceInterfaceReport => Sys2Proof.Machine.execGetDeviceInterfaceReport s
  | .startInterface => Sys2Proof.Machine.execStartInterface s
  | .stopInterface => Sys2Proof.Machine.execStopInterface s
  | .bindingViolation => Sys2Proof.Machine.execBindingViolation s
  | .bitmapFlashWrite => Sys2Proof.Machine.execBitmapFlashWrite s
  | .rectFence => Sys2Proof.Machine.execRectFence s
  | .fenceComplete => Sys2Proof.Machine.execFenceComplete s
  | .scrub a single => Sys2Proof.Machine.execScrub a single s
  | .domainRaise => Sys2Proof.Machine.execDomainRaise s
  | .domainWindowExpiry => Sys2Proof.Machine.execDomainWindowExpiry s
  | .powerRemoval => Sys2Proof.Machine.execPowerRemoval s
  | .smigTimeout => Sys2Proof.Machine.execSmigTimeout s
  | .stubExpiry => Sys2Proof.Machine.execStubExpiry s
  | .fabTimeout => Sys2Proof.Machine.execFabTimeout s
  | .frameResend => Sys2Proof.Machine.execFrameResend s
  | .portDown => Sys2Proof.Machine.execPortDown s
  | .linkTraining => Sys2Proof.Machine.execLinkTraining s
  | .packageReset => Sys2Proof.Machine.execPackageReset s
  | .copyOnWriteComplete => Sys2Proof.Machine.execCopyOnWriteComplete s
  | .firmwareRestartComplete => Sys2Proof.Machine.execFirmwareRestartComplete s
  | .linkKeyRenewal => Sys2Proof.Machine.execLinkKeyRenewal s
  | .powerFailure => Sys2Proof.Machine.execPowerFailure s

end Sys2Proof.Machine
end

