-- ==== Sys2Proof/Machine/Sched.lean ====
section
/-! DEFINITION. The steps of the device that are due (notes/assumptions/5.md): those that a clock forces, and those whose
clock the spec leaves open. -/

namespace Sys2Proof.Machine

/-- The cores that hold anything, in order. -/
def State.coreIds (s : State) : List Nat := s.cores.map (·.1)

/-- One step, if it is due. -/
def dueIf (p : Bool) (c : Cur) (i : Instr) : List (Cur × Instr) := if p then [(c, i)] else []

/-- Numbers of a list's places where `p` holds. -/
def placesOf {α : Type} (p : α → Bool) (xs : List α) (i : Nat) : List Nat :=
  match xs with
  | [] => []
  | x :: t => if p x then i :: placesOf p t (i + 1) else placesOf p t (i + 1)

/-! ### Forced steps -/

/-- Whether a waiting `GANG` is granted or formed in this clock (R251). -/
def State.gangDue (s : State) (c : Nat) (f : Firing) : Bool :=
  match f.wait with
  | .gang n none => !(s.core c).inGang && !((gangCores c n).drop 1).any fun m => (s.core m).inGang
  | .ganging n => !((gangCores c n).drop 1).any fun m => (s.core m).awaits
  | .gang _ (some t) => t ≤ s.clk
  | _ => false

/-- What the clock forces on a firing. -/
def State.forcedSlot (s : State) (c k : Nat) (f : Firing) : List (Cur × Instr) :=
  let q : Cur := { core := c, slot := k }
  dueIf (s.cwaitHolds f) q .cwaitEnd ++ dueIf (s.cwaitExpired f && !s.cwaitHolds f) q .cwaitTimeout ++ dueIf (f.mwaitExpired s.clk) q .mwaitTimeout ++
  dueIf (s.yieldOver c f) q .yieldExpiry ++ dueIf (s.gangDue c f) q .gangFormed ++
  dueIf (f.mxsusDue) q .mxsusDelivery

/-- What the clock forces on a core's crossbar (R206, R207): pulses first, then terms, start inputs and the timer. -/
def State.forcedXbar (s : State) (c : Nat) : List (Cur × Instr) :=
  let x := s.xbar c
  dueIf (match x.pulses with
    | (_, t) :: _ => t < s.clk
    | [] => false) { core := c } .xbarPulse ++
  ((List.range 8).filter x.fires).map (fun t => ({ core := c, n := t }, .xbarTermFire)) ++
  dueIf (x.fired.any (·.2 < s.clk)) { core := c } .xbarStartAction ++
  ((List.range 4).filter fun i => x.pending.getLsbD i && (s.startAction c i).isSome).map (fun i => ({ core := c, n := i }, .xbarStartAction)) ++
  dueIf (fld x.timer 31 0 != 0 && x.timerAt ≤ s.clk) { core := c } .xbarTimer

/-- The firings of a core, with their slots. -/
def Core.firings (x : Core) : List (Nat × Firing) := (List.range 8).filterMap fun k => if h : k < 8 then x.slots[k].map fun f => (k, f) else none

/-- What the clock forces on a core. -/
def State.forcedCore (s : State) (c : Nat) (x : Core) : List (Cur × Instr) :=
  (match x.landing s.clk with
    | some d => [({ core := c, n := d }, .linkWordArrival)]
    | none => []) ++
  x.firings.flatMap (fun f => s.forcedSlot c f.1 f.2) ++ s.forcedXbar c ++
  dueIf (x.sums s.clk && x.server.full) { core := c } .partialSumArrival ++
  x.tasks.flatMap (fun r => (r.2.cchain.fol.filter fun q => q.2 < s.clk).map fun q => ({ core := c, n := r.1, k := q.1 }, .folRelease)) ++
  (match s.nextStart c with
    | some n => [({ core := c, n }, .firingStart)]
    | none => [])

/-- What the clock forces on a die. -/
def State.forcedDie (s : State) (i : Nat) (d : Die) : List (Cur × Instr) :=
  (placesOf (fun m => m.due s.clk && s.mergeGoes m) d.merges 0).map (fun k => ({ n := i, k }, .routerMergeSend)) ++
  d.tasks.flatMap (fun t =>
    dueIf (t.2.balanceDue s.clk) { n := t.1 } .stageBalance ++
    dueIf (t.2.state == .preempting && t.2.saveAt ≤ s.clk && (s.taskFirings t.2).any fun x => x.2.2.stoppable) { n := t.1 } .preemptWaitExpiry) ++
  (List.range 12).flatMap (fun k => if h : k < 12 then
      dueIf (d.domCount[k] != 0 && d.domOpen[k] + msClk ≤ s.clk) { n := i, k } .domainWindowExpiry ++
      dueIf (d.domCount[k] != 0 && d.pfthr.toNat ≤ d.domCount[k]) { n := i, k } .domainRaise
    else []) ++
  (d.outMigs.filter fun m => s.migLate m.2).map (fun m => ({ n := m.1 }, .smigTimeout)) ++
  (placesOf (fun t => t.ends ≤ s.clk) d.stubs 0).map (fun k => ({ n := i, k }, .stubExpiry))

/-- Steps that happen in this clock before an instruction issues. -/
def State.forced (s : State) : List (Cur × Instr) :=
  s.cores.flatMap (fun c => s.forcedCore c.1 c.2) ++
  s.dies.flatMap (fun d => s.forcedDie d.1 d.2) ++
  (s.pkg.parks.filter fun p => s.parkDue p.2).map (fun p => ({ n := p.1 }, .pendingPark)) ++
  (placesOf (fun f => f.port.isNone && f.clk + s.tmoClk ≤ s.clk && f.p.spkg == s.pkgId && (f.p.dpkg != s.pkgId || !s.fabOn)) s.pkg.fabOut 0).map
    fun n => (({ n := n } : Cur), .fabTimeout)

/-- Entries that the crossbar commits to channels: they arrive after the commits of the clock (R83, R207). -/
def State.arrivals (s : State) : List (Cur × Instr) :=
  s.cores.flatMap fun c => ((List.range' 4 12).filter fun i => c.2.xbar.pending.getLsbD i && (s.startAction c.1 i).isSome).map fun i =>
    ({ core := c.1, n := i }, .xbarStartAction)

/-! ### Steps whose clock is open -/

/-- The steps of a firing. -/
def optionalSlot (s : State) (x : Core) (c k : Nat) (f : Firing) : List (Cur × Instr) :=
  let q : Cur := { core := c, slot := k }
  (placesOf (fun r => r.due.isNone && (!r.await || s.loadDue c r.load)) f.flight 0).map (fun n => ({ q with n }, .resultDelivery)) ++
  dueIf (x.unregistered k).isSome q .monRegistered ++
  dueIf (match f.wait with
    | .mwait _ _ => (x.wakeCode k f false).isSome
    | _ => false) q .mwaitWake

/-- The completions of an engine's entries. -/
def Chain.completions (x : Chain) (clk c rti hart : Nat) : List (Cur × Instr) :=
  (x.tags.filter fun t => t.started && !t.finished && t.clock ≤ clk && !(t.status != 0 && x.halted.isSome)).map
    fun t => ({ core := c, hart, n := rti, k := t.seq }, .entryComplete)

/-- The instruction that answers a service (R429). -/
def serviceInstr (svc : Nat) : Instr :=
  match svc with
  | 1 => .map_
  | 2 => .unmap
  | 3 => .keyq
  | 4 => .hrst
  | _ => .preempt

/-- The steps of a core. -/
def State.optionalCore (s : State) (c : Nat) (x : Core) : List (Cur × Instr) :=
  x.firings.flatMap (fun f => optionalSlot s x c f.1 f.2) ++
  (s.sendable c).map (fun m => ({ core := c, n := m.1 }, .messageArrival)) ++
  (s.startable c).map (fun e => ({ core := c, hart := if e.2.1 then 0 else 1, n := e.1, k := e.2.2 }, entryInstr e.2.1 (s.entryOp c (s.chain c e.1 e.2.1) e.2.2))) ++
  x.tasks.flatMap (fun r => r.2.achain.completions s.clk c r.1 0 ++ r.2.cchain.completions s.clk c r.1 1) ++
  dueIf (x.sums s.clk && !x.server.full) { core := c } .partialSumArrival ++
  ((x.attns.zip (List.range x.attns.length)).flatMap fun j => j.1.left.map fun l => ({ core := c, n := j.2, k := l.1 * 64 + l.2 }, .attnTripleMerge)) ++
  ([0, 1].flatMap fun h => match (x.helper h).asleep with
    | some (sel, dl, _) => dueIf (s.wakeCauses c h sel dl != 0) { core := c, hart := h } .helperWake
    | none => []) ++
  (if s.fwAway then [] else (x.calls.zip (List.range x.calls.length)).map fun j => ({ core := c, n := j.2 }, serviceInstr j.1.svc)) ++
  dueIf x.fenced { core := c } .fenceComplete

/-- The steps of a task. -/
def State.optionalTask (s : State) (id : Nat) (t : Task) : List (Cur × Instr) :=
  let q : Cur := { n := id }
  (placesOf (fun r => r.flushing) t.regions 0).map (fun k => ({ n := id, k }, .tregFlush)) ++
  (match t.state with
    | .waiting => dueIf (s.waitMet id t) q .taskQueued
    | .placed => dueIf (s.mayEnter id t) q .entryEdge
    | .entering => [(q, .entryEdge)]
    | .running => dueIf (s.phaseOver id t) q .quiescence
    | .preempting => dueIf (s.phaseOver id t) q .quiescence ++ dueIf (s.mayBeSaved id t) q .preemptSave
    | .restoring => [(q, .taskRestore)]
    | .draining => dueIf (s.drained id t) q .exitDrain
    | .flushing => if t.nextFlush.isSome then [(q, .exitFlush)] else dueIf (!t.regions.any (·.flushing)) q .exitPublish
    | _ => [])

/-- The steps of a stream. -/
def State.optionalStream (s : State) (g : Nat) (e : Stream) : List (Cur × Instr) :=
  dueIf e.releasing { n := g } .streamRelease ++ dueIf (s.absorbs g).isSome { n := g } .absorb ++ dueIf (s.joins g e) { n := g } .joinReduce

/-- The nodes at which streams of a die are ready. -/
def State.readyNodes (s : State) (i : Nat) : List Nat := (((s.liveStreams i).filter fun e => e.2.state == .ready).map (·.2.node)).eraseDups

/-- The steps of a die. -/
def State.optionalDie (s : State) (i : Nat) (d : Die) : List (Cur × Instr) :=
  (placesOf (fun m => m.old.isNone && !m.away) d.merges 0).map (fun k => ({ n := i, k }, .routerMergeSend)) ++
  (placesOf (fun m => m.old.isSome) d.merges 0).map (fun k => ({ n := i, k }, .routerResponseSplit)) ++
  dueIf (s.dispatchDue i) { n := i } .taskDispatch ++ dueIf (s.aged i).isSome { n := i } .taskAgePreempt ++
  d.tasks.flatMap (fun t => s.optionalTask t.1 t.2) ++
  (s.liveStreams i).flatMap (fun e => s.optionalStream e.1 e.2) ++
  (List.range d.copies.length).map (fun k => ({ n := i, k }, .copyOnWriteComplete)) ++
  (s.readyNodes i).flatMap (fun k => dueIf (s.batchFull i k) { n := i, k } .batchForm ++ dueIf (s.batchLate i k) { n := i, k } .batchTimerExpiry) ++
  dueIf (bit d.xlinvc 63 && s.translatedDone) { n := i } .xlinvDone

/-- The steps of a park record. -/
def State.optionalPark (s : State) (i : Nat) (p : Park) : List (Cur × Instr) :=
  dueIf (p.tcxDue s.clk && !s.leaving p) { n := i } .parkTcxExpiry ++ dueIf (p.tflDue s.clk && !s.leaving p) { n := i } .parkTflExpiry ++
  dueIf (!p.todo.isEmpty) { n := i } .frameMove ++ dueIf (p.stage == 1 && p.todo.isEmpty) { n := i } .stageA ++
  (if p.stage < 2 then []
   else
    let instr : Instr := if p.stage = 2 then .stageB else .stageC
    if p.landing.isEmpty then [({ n := i }, instr)] else p.landing.map fun b => ({ n := i, k := b }, instr))

/-- Whether a wake that has been noted can act. -/
def State.wakeDue (s : State) (n : Nat) : Bool :=
  if n < stubMark then match mget s.pkg.parks n with
    | some p => !s.leaving p
    | none => true
  else match s.stub (n - stubMark) with
    | some t => t.pidx.isSome
    | none => true

/-- The instruction of a queue entry with an `OP`; a `LOAD` comes with its container, from outside. -/
def queueInstr (op : Nat) : Option Instr :=
  match op with
  | 2 => some .hostCadd
  | 3 => some .amsg
  | 4 => some .hostFence
  | 5 => none
  | 6 => some .hwrite
  | 7 => some .hread
  | _ => some .kick

/-- The steps of a host queue. -/
def State.optionalQueue (s : State) (q : Nat) (x : Queue) : List (Cur × Instr) :=
  dueIf (!x.kicks.isEmpty) { n := q, k := 1 } (.qkickWrite 0) ++
  (if x.en && x.head != x.tail then ((queueInstr (fld (dw (s.ringEntry x x.head) 0) 63 56)).map fun i => (({ n := q } : Cur), i)).toList else []) ++
  ((x.started.zip (List.range x.started.length)).filterMap fun e => (queueInstr (fld (dw e.1.2 0) 63 56)).map fun i => ({ n := q, k := e.2 + 1 }, i)) ++
  dueIf (x.rst && s.queueQuiet q) { n := q } .rstdone

/-- The instruction of an arriving packet. -/
def packetInstr (p : Packet) : Instr :=
  match p.cls with
  | 2 => .fabRed p
  | 3 => .fabCtr p
  | 4 => .fabWake p
  | 5 => match p.op with
    | 1 => .sxreq p
    | 2 => .sxack p
    | 3 => .sxnak p
    | 4 => .sxpull p
    | 5 => .sxdata p
    | 6 => .sxdone p
    | 7 => .sxfin p
    | _ => .sxabort p
  | 6 => .rmem p
  | 7 => match p.op with
    | 2 => .rspBounce p
    | 4 => .moved p
    | _ => .rspAcknowledge p
  | _ => .fabMsg p

/-- Steps that may happen in this clock. -/
def State.optional (s : State) : List (Cur × Instr) :=
  s.cores.flatMap (fun c => s.optionalCore c.1 c.2) ++
  s.dies.flatMap (fun d => s.optionalDie d.1 d.2) ++
  s.pkg.parks.flatMap (fun p => s.optionalPark p.1 p.2) ++
  (s.pkg.wakes.filter s.wakeDue).map (fun n => (({ n := n } : Cur), .wake)) ++
  s.pkg.queues.flatMap (fun q => s.optionalQueue q.1 q.2) ++
  s.pkg.runs.flatMap (fun r => dueIf (!r.2.expanded) { n := r.1 } .graphReplay ++ dueIf r.2.ended { n := r.1 } .graphComplete) ++
  (if s.fabOn then (s.pkg.fabOut.zip (List.range s.pkg.fabOut.length)).filterMap fun f =>
      if f.1.p.dpkg == s.pkgId && !s.classHeld f.1.p.cls f.2 then some ({ n := f.2 + 1 }, packetInstr f.1.p) else none
    else [])

end Sys2Proof.Machine
end

