-- ==== Sys2Proof/Machine/Step.lean ====
section
/-! DEFINITION. One step of the machine: one instruction, one step of the device, or the next clock. -/

namespace Sys2Proof.Machine

/-- One instruction of the firing in slot `k` of core `c`, or the trap that its fetch raises (R30). -/
def stepFiring (s : State) (c k : Nat) : Host.Outcome State Fault Refusal :=
  let s := { s with cur := { core := c, slot := k } }
  match s.firing c k with
  | none => .next s
  | some f =>
    match s.fetch c f.pc with
    | (.ok i, s) => exec i s
    | (.error (cause, val), s) => .next (s.raiseAfter c k cause val 0)

/-- One instruction of a helper of core `c` (R202). -/
def stepHelper (s : State) (c h : Nat) : Host.Outcome State Fault Refusal :=
  let s := { s with turn := .firings, cur := { core := c, hart := h } }
  exec (decodeHelper (s.helperWord c h)) s

/-- The core that issues next in this clock: the lowest that has a candidate. -/
def State.pickCore (s : State) (cs : List Nat) : Option (Nat × Nat × State) :=
  match cs with
  | [] => none
  | c :: t =>
    match s.pick c with
    | some (k, s') => some (c, k, s')
    | none => s.pickCore t

/-- What follows the instructions of a clock (R83, R103): what they left for its end, fences, arrivals from the crossbar, outside events, then a step
whose clock is free, or the end of the clock. No other instruction issues in the clock from here on. -/
def stepAfter (s0 : State) : Host.Outcome State Fault Refusal :=
  let s := { s0 with phase := max s0.phase 1 }
  if !s.pushes.isEmpty || !s.kills.isEmpty || s.reaps then .next s.endIssue
  else if !s.fenceReq.isEmpty then exec .rectFence { s with cur := {} }
  else if s.phase = 2 then .next s.tick
  else match s.arrivals with
  | (c, i) :: _ => exec i { s with cur := c }
  | [] => match s.inputs with
    | (c, i) :: t => exec i { s with inputs := t, cur := c }
    | [] =>
      let xs := s.optional
      let hs := s.runnable
      let n := xs.length + hs.length
      if n = 0 then .next s.endClock
      else
        let (fv, s) := s.free
        let j := fv % (n + 1)
        match xs[j]? with
        | some (c, i) => exec i { s with cur := c }
        | none =>
          match hs[j - xs.length]? with
          | some (c, h) => stepHelper s c.core h
          | none => .next s.endClock

/-- One step (notes/assumptions/5.md): a step that the clock forces, else an instruction of a core, else what follows them. -/
def step (s : State) : Host.Outcome State Fault Refusal :=
  match s.forced with
  | (c, i) :: _ => exec i { s with cur := c }
  | [] =>
    match s.turn with
    | .helper h => stepHelper s s.cur.core h
    | .firings =>
      match s.pickCore s.coreIds with
      | some (c, k, s') => stepFiring s' c k
      | none => stepAfter s

/-- The state with the instruction of bits `w` placed where `step` fetches next: a helper word at the pc of the loader of
core 0, whose turn it is, or a Tolog word in the instruction store of core 0, where a firing stands in slot 0 at its first
instruction (notes/assumptions/19.md). -/
def State.withFetchWord (s : State) (nbits w : Nat) : State :=
  if nbits ≤ 32 then s.placeHelper w
  else s.placeFiring w

end Sys2Proof.Machine
end

