-- ==== Sys2Proof/Claims/Issue.lean ====
section
/-! DEFINITION. The words of the statements about instructions of a firing: when one issues and executes, and the state in
which it has. -/

namespace Sys2Proof.Claims

open Sys2Proof.Machine

/-- The firing of the current slot, with the results due in this clock delivered (R24). -/
def firing (s : State) : Firing := ((s.firing s.cur.core s.cur.slot).getD {}).settle s.clk

/-- The form of a word. -/
def form (op : Nat) (w : Tolog) : Form := (formOf op w).getD {}

/-- The links that a word pops, and those that it pushes (R21). -/
def pops (op : Nat) (w : Tolog) : List Nat := (form op w).links w Role.reads
def pushes (op : Nat) (w : Tolog) : List Nat := (form op w).links w Role.writes

/-- The state with the results of the current firing delivered. -/
def settled (s : State) : State := s.setFiring s.cur.core s.cur.slot (firing s)

/-- The firing with the instruction counted by its signature checker (R209). -/
def counted (op : Nat) (w : Tolog) (s : State) : Firing := (firing s).sigStep (w.bits op) (sigCodes (form op w) w)

/-- The state in which an instruction starts. -/
def start (s : State) : State := settled s

/-- What the instruction sees of it. -/
def ctx (op : Nat) (w : Tolog) (s : State) : Ctx :=
  { op, w, f := counted op w s, c := s.cur.core, k := s.cur.slot, links := linkWords (start s) s.cur.core (pops op w) }

/-- The task of the current firing. -/
def task (s : State) : Nat := (((settled s).resident s.cur.core (firing s).rti).map (·.task)).getD 0

/-- The instruction issues in this clock and passes the checks of R30 that precede its own: those of decode (R11, R19, R31), its links may be named
(R21, R252), a privileged one runs in a privileged firing (R94), no register it names waits for a scoreboarded result (R25),
the multipliers are free (R160), none is read before a fixed-latency result where `SBCHK` asks (R24), none read failed its parity
(R445) or is poison (R443), the signature agrees (R209), the guard passes (R15), the links are ready (R263), no word it pops is poisoned (R276),
and where it follows the firing's earlier loads none of them waits at its home (R121, R328). -/
abbrev Issues (op : Nat) (w : Tolog) (s : State) : Prop :=
  (s.firing s.cur.core s.cur.slot).isSome = true ∧ ilCheck op false w = none ∧ (formOf op w).isSome = true ∧
  ((pops op w ++ pushes op w).any fun d => (firing s).gang != 1 || !(settled s).linkOk s.cur.core (task s) d) = false ∧
  (privOp op && !(firing s).priv) = false ∧
  ((firing s).boarded (w.guards ++ (form op w).regs w fun _ => true) || (usesMul op && s.clk < ((settled s).core s.cur.core).mulFree)) = false ∧
  (if bit (firing s).sbchk 0 then (firing s).early w.guards else none) = none ∧
  (w.guards.any (firing s).parity.contains) = false ∧
  (w.guards.any (firing s).poison.contains) = false ∧
  (sigPoint op && (settled s).sigBad s.cur.core (counted op w s)) = false ∧
  w.pass (firing s) = true ∧
  (if bit (firing s).sbchk 0 then (firing s).early ((form op w).regs w Role.reads) else none) = none ∧
  (((form op w).regs w Role.reads).any (firing s).parity.contains) = false ∧
  (((form op w).regs w Role.reads).any (firing s).poison.contains) = false ∧
  (settled s).linksReady s.cur.core (pops op w) (pushes op w) = true ∧
  ((pops op w).any ((settled s).core s.cur.core).headBad) = false ∧
  (settled s).loadsFirst s.cur.core s.cur.slot op w = false

/-- The instruction has no access of its own on the way: none replayed to another package, merged in a router (R465, R274), or issued and waiting
at its home (R346, R405). -/
def Fresh (s : State) : Prop := (firing s).asked = [] ∧ (firing s).replies = [] ∧ (firing s).issued = []

/-- The instruction releases at system scope while counter adds of its task on other packages have still to be performed: it waits (R121,
R328). -/
def addsFirst (x : Ctx) (t : State) : Prop := releasesSys x.op x.w = true ∧ t.addsPending (x.res t).task = true

/-- A message that may leave through the fabric wall enters the core's interface: there is room (R132), and a release follows its adds. -/
def roomFor (x : Ctx) (t : State) (o : OutMsg) : Prop :=
  t.walled x.c o = false ∧ (t.core x.c).nic.length < 8 ∧ (o.fabric = true → t.addsPending (x.res t).task = false)

/-- The state once an instruction has issued with an effect: its results in flight, the links moved, the PC advanced. -/
def after (x : Ctx) (e : Eff) : State := State.complete x { e with s := e.s.popAll x.c (pops x.op x.w) } .none

/-- The instruction that issues completes with the register results `v`, and no other effect. -/
def Gives (i : Instr) (op : Nat) (w : Tolog) (v : Ctx → State → List RegWrite) : Prop :=
  ∀ s, Issues op w s →
    exec i s = .next (after (ctx op w s) { s := start s, writes := v (ctx op w s) (start s) })

/-- It completes with the register results `v` and the flags `fl`. -/
def GivesFlags (i : Instr) (op : Nat) (w : Tolog) (v : Ctx → List RegWrite) (fl : Ctx → BitVec 7) : Prop :=
  ∀ s, Issues op w s →
    exec i s = .next (after (ctx op w s) { s := start s, writes := v (ctx op w s), flags := fl (ctx op w s) })

/-- It takes a trap for whose `TRAPVAL` R100 has no form: the value is free, and it has no effect of its own. -/
def TrapsOpen (i : Instr) (cause : Nat) (s : State) : Prop :=
  ∃ v, let u : State := { start s with freeCtr := (start s).freeCtr + 1 }
    exec i s = .next (u.raiseAfter s.cur.core s.cur.slot cause v 0)

/-- It takes a trap with a cause and value (R100), and no effect of its own. -/
def Traps (i : Instr) (op : Nat) (w : Tolog) (cause : Nat) (val : Ctx → Word) (s : State) : Prop :=
  exec i s = .next ((start s).raiseAfter s.cur.core s.cur.slot cause (val (ctx op w s)) 0)

/-- Elements of a vector result: `w` bits each, `f` in every active lane that the register holds, and the old value in the
others (R155, R156). -/
def Elements (x : Ctx) (w : Nat) (f : Nat → Int) (ws : List RegWrite) : Prop :=
  ∃ y m, ws = [.v x.w.d.toNat y m] ∧
    (∀ i, i < x.f.lanes → i < 256 → m.extractLsb' (32 * i) 32 = if x.active.getLsbD i then BitVec.allOnes 32 else 0) ∧
    (∀ e, e < x.f.lanes * 32 / w → e * w + w ≤ 8192 → x.active.getLsbD (e * w / 32) = true →
      ((y.extractLsb' (e * w) w).toNat : Int) = f e % 2 ^ w)

/-- The instruction that issues completes with the elements `f` of its vector result. -/
def GivesVec (i : Instr) (op : Nat) (w : Tolog) (wid : Nat) (f : Ctx → Nat → Int) : Prop :=
  ∀ s, Issues op w s → ∃ ws, Elements (ctx op w s) wid (f (ctx op w s)) ws ∧
    exec i s = .next (after (ctx op w s) { s := start s, writes := ws })

/-- The same, where the instruction occupies the multipliers for 4 clk if `busy` (R160). -/
def GivesMul (i : Instr) (op : Nat) (w : Tolog) (wid : Nat) (busy : Bool) (f : Ctx → Nat → Int) : Prop :=
  ∀ s, Issues op w s → ∃ ws, Elements (ctx op w s) wid (f (ctx op w s)) ws ∧
    let t := start s
    let k := t.core s.cur.core
    exec i s = .next (after (ctx op w s) { s := if busy then t.setCore s.cur.core { k with mulFree := t.clk + 4 } else t, writes := ws })

/-- The instruction that issues completes with a lane mask whose lane `i` is `p i`. -/
def GivesMask (i : Instr) (op : Nat) (w : Tolog) (p : Ctx → Nat → Bool) : Prop :=
  ∀ s, Issues op w s → ∃ y : KReg, (∀ j, j < (ctx op w s).f.lanes → j < 256 → y.getLsbD j = p (ctx op w s) j) ∧
    exec i s = .next (after (ctx op w s) { s := start s, writes := [.k w.d.toNat y] })

/-- The flags of the active elements together (R158). -/
def Flagged (x : Ctx) (w n : Nat) (f : Nat → BitVec 7) (fl : BitVec 7) : Prop :=
  ∀ j, j < 7 → (fl.getLsbD j = true ↔ ∃ e, e < n ∧ x.active.getLsbD (e * w / 32) = true ∧ (f e).getLsbD j = true)

/-- The instruction that issues completes with the elements and flags `f` of its vector result. -/
def GivesFloat (i : Instr) (op : Nat) (w : Tolog) (f : Ctx → Nat → Nat × BitVec 7) : Prop :=
  ∀ s, Issues op w s → ∃ ws fl,
    let x := ctx op w s
    let n := (fmtOf (w.mod.toNat % 8)).width
    Elements x n (fun e => ((f x e).1 : Int)) ws ∧ Flagged x n (x.f.lanes * 32 / n) (fun e => (f x e).2) fl ∧
    exec i s = .next (after x { s := start s, writes := ws, flags := fl })

/-- The value that the `n`-th draw of a lane's generator gives (R61). -/
def drawn (gens : VReg) (lane n : Nat) : Nat :=
  match n with
  | 0 => (gens.extractLsb' (32 * lane) 32).toNat
  | k + 1 => xorshift (drawn gens lane k)

/-- A conversion of `n` elements (R170): element `e` of them stands at bit `place e`, is decided by lane `lane e` and converts `src e`
by `f`, which may draw; active elements draw once each, in order, where `sr` says so. -/
def Converts (i : Instr) (op : Nat) (w : Tolog) (s : State) (sr : Bool) (wid n : Nat) (place lane : Nat → Nat) (src : Nat → Ex)
    (f : Nat → Ex → Nat × BitVec 7) : Prop :=
  let x := ctx op w s
  let on (e : Nat) : Bool := x.active.getLsbD (lane e)
  let val (e : Nat) : Nat × BitVec 7 :=
    f (if sr then drawn x.f.gens (lane e) (((List.range e).countP fun j => lane j == lane e) + 1) else 0) (src e)
  ∃ (y m gens : VReg) (fl : BitVec 7),
    (∀ e, e < n → place e + wid ≤ 8192 → m.extractLsb' (place e) wid = (if on e then BitVec.allOnes wid else 0) ∧
      (on e = true → (y.extractLsb' (place e) wid).toNat = (val e).1 % 2 ^ wid)) ∧
    (∀ j, j < 7 → (fl.getLsbD j = true ↔ ∃ e, e < n ∧ on e = true ∧ (val e).2.getLsbD j = true)) ∧
    (∀ l, l < x.f.lanes → l < 256 → gens.extractLsb' (32 * l) 32 = BitVec.ofNat 32
      (drawn x.f.gens l (if sr && x.active.getLsbD l then (List.range n).countP fun j => lane j == l else 0))) ∧
    Acts' i op w s { s := (start s).setFiring s.cur.core s.cur.slot { x.f with gens }, writes := [.v w.d.toNat y m], flags := fl }
where
  /-- The instruction completes with an effect. -/
  Acts' (i : Instr) (op : Nat) (w : Tolog) (s : State) (e : Eff) : Prop := exec i s = .next (after (ctx op w s) e)

/-- A transfer's target breaks no rule of R10. -/
def Legal (t : Word) : Prop := t.toNat % 4 = 0 ∧ t.toNat % 32 ≠ 28 ∧ t.toNat < 262144

/-- The instruction completes with the effect `v` on the state it starts in. -/
def Acts (i : Instr) (op : Nat) (w : Tolog) (s : State) (e : Eff) : Prop := exec i s = .next (after (ctx op w s) e)

/-- A control transfer to `target` with the register results `ws`: a bad target is `IL.ALIGN` of the instruction itself,
with no effect (R112, R113). -/
def Transfers (i : Instr) (op : Nat) (w : Tolog) (target : Ctx → Word) (ws : Ctx → List RegWrite) (s : State) : Prop :=
  (Legal (target (ctx op w s)) →
    Acts i op w s { s := start s, writes := ws (ctx op w s), jump := some (target (ctx op w s)).toNat }) ∧
  (¬ Legal (target (ctx op w s)) → Traps i op w 0x01 target s)

end Sys2Proof.Claims
end

