-- ==== Sys2Proof/Claims/Values.lean ====
section
/-! DEFINITION. The result values of the scalar instructions, as the spec's tables give them (R107 to R111). -/

namespace Sys2Proof.Claims

open Sys2Proof.Machine

/-- A word as a number, unsigned where `u`. -/
def num (u : Bool) (a : Word) : Int := if u then (a.toNat : Int) else a.toInt

/-- The low 64 bits of a number. -/
def low (i : Int) : Word := BitVec.ofInt 64 i

/-- `N` of the scalar forms. -/
def isN (w : Tolog) : Bool := w.mod.getLsbD 1

/-- The quotient and the remainder of R110. -/
def quotient (u : Bool) (a b : Word) : Word :=
  if b = 0 then BitVec.ofInt 64 (-1) else if u then low (a.toNat / b.toNat : Nat) else low (a.toInt.tdiv b.toInt)
def remainder (u : Bool) (a b : Word) : Word :=
  if b = 0 then a else if u then low (a.toNat % b.toNat : Nat) else low (a.toInt.tmod b.toInt)

/-- A number held to the range of 64 bits (R108). -/
def held (u : Bool) (i : Int) : Int :=
  let lo : Int := if u then 0 else -9223372036854775808
  let hi : Int := if u then 18446744073709551615 else 9223372036854775807
  if i < lo then lo else if hi < i then hi else i

/-- The amount of R109. -/
def amount (x : Ctx) : Nat := x.b.toNat % 256

/-- Position and width of R111. -/
def pos (w : Tolog) : Nat := w.imm.toNat % 64
def width (w : Tolog) : Nat := w.imm.toNat / 256 % 128

/-- The field of `n` bits as a number. -/
def fieldNum (u : Bool) (n x : Nat) : Int := if !u && 2 ^ (n - 1) ≤ x then (x : Int) - 2 ^ n else x

/-- The condition of R22 between two words. -/
def cond (cc : Nat) (u : Bool) (a b : Word) : Bool :=
  match cc with
  | 0 => a == b
  | 1 => a != b
  | 2 => decide (num u a < num u b)
  | 3 => decide (num u a ≤ num u b)
  | 4 => decide (num u b < num u a)
  | 5 => decide (num u b ≤ num u a)
  | _ => (a &&& b) != 0

/-- PC plus the sign-extended `IMM32` (R112). -/
def relTarget (x : Ctx) : Word := low (x.f.pc + fieldNum false 32 (x.w.imm.toNat % 2 ^ 32))

/-- The address of the sequential successor (R9). -/
def successor (pc bytes : Nat) : Nat := if (pc + bytes) % 32 = 28 then pc + bytes + 4 else pc + bytes

/-- The bytes of an instruction by its length code (R8). -/
def lengthOf (len : BitVec 2) : Nat := if len = 1 then 12 else if len = 2 then 16 else 8

/-- The number of little-endian bytes (R6). -/
def number (bs : List Byte) : Nat := bs.foldr (fun b n => b.toNat + 256 * n) 0

/-- The width in bytes of the memory layout (R22). -/
def bytesOf (w : Tolog) : Nat := 2 ^ (w.mod.toNat % 8)

/-- A trap's value in the handle form: the handle index and the offset (R100). -/
def handleWord (x : Ctx) : Word := BitVec.ofNat 64 (x.w.imm.toNat % 256 * 2 ^ 56 + x.off % 2 ^ 56)

/-- The check of R133 that an instruction's access makes. -/
def access (x : Ctx) (s : State) (n : Nat) (k : Kind) (spaces : List Nat) (home : Bool) : Except Bar (State × Acc) :=
  s.check x.c (x.res s) x.sid (x.w.imm.toNat % 256) x.off n n k spaces home (if home then 0 else x.w.ch.toNat)

/-! ### Vector elements (R155 to R166) -/

/-- The element width, `N`, `MOD[3]` and `SAT` of the vector layout (R22). -/
def ew (w : Tolog) : Nat := 8 * 2 ^ (w.mod.toNat % 4)
def vn (w : Tolog) : Bool := w.mod.getLsbD 2
def m3 (w : Tolog) : Bool := w.mod.getLsbD 3
def vsat (w : Tolog) : Bool := w.mod.getLsbD 6

/-- Element `e` of `n` bits of a vector source, unsigned where `u`. -/
def el (u : Bool) (x : Ctx) (r : BitVec 6) (n e : Nat) : Int := fieldNum u n ((x.v r).extractLsb' (e * n) n).toNat

/-- A number held to the range of `n` bits. -/
def heldTo (u : Bool) (n : Nat) (i : Int) : Int :=
  let lo : Int := if u then 0 else -2 ^ (n - 1)
  let hi : Int := if u then 2 ^ n - 1 else 2 ^ (n - 1) - 1
  if i < lo then lo else if hi < i then hi else i

/-- The exact product of R160. -/
def product (x : Ctx) (w : Tolog) (e : Nat) : Int :=
  if ew w = 32 ∧ m3 w = false then
    fieldNum (vn w) 24 (((x.v w.a).extractLsb' (e * 32) 32).toNat % 2 ^ 24) * fieldNum (vn w) 24 (((x.v w.b).extractLsb' (e * 32) 32).toNat % 2 ^ 24)
  else el (vn w) x w.a (ew w) e * el (vn w) x w.b (ew w) e

/-- Wrap, or clamp with `SAT`. -/
def maySat (w : Tolog) (i : Int) : Int := if vsat w then heldTo (vn w) (ew w) i else i

/-- The amount of a vector shift (R161). -/
def vamount (x : Ctx) (w : Tolog) (e : Nat) : Nat :=
  if m3 w then (x.g w.b).toNat % 256 else ((x.v w.b).extractLsb' (e * ew w) (ew w)).toNat % 256

/-- Leading zeros of a value of `n` bits. -/
def lead (n v : Nat) : Nat := if v = 0 then n else n - 1 - v.log2

/-- The condition of R22 between two elements. -/
def vcond (cc : Nat) (u : Bool) (x : Ctx) (w : Tolog) (e : Nat) : Bool :=
  let a := el u x w.a (ew w) e
  let b := el u x w.b (ew w) e
  match cc with
  | 0 => decide (a = b)
  | 1 => decide (a ≠ b)
  | 2 => decide (a < b)
  | 3 => decide (a ≤ b)
  | 4 => decide (b < a)
  | 5 => decide (b ≤ a)
  | _ => ((x.v w.a).extractLsb' (e * ew w) (ew w)).toNat &&& ((x.v w.b).extractLsb' (e * ew w) (ew w)).toNat != 0

/-- The active elements of width `n`, below element `k`. -/
def activeBelow (x : Ctx) (n k : Nat) : List Nat := (List.range k).filter fun e => x.active.getLsbD (e * n / 32)

/-- The result of a reduction (R165) of the elements `es`. -/
def Reduced (op : Nat) (u : Bool) (x : Ctx) (r : BitVec 6) (n : Nat) (es : List Nat) (v : Int) : Prop :=
  (op = 0 → v = (es.map (el u x r n)).sum) ∧
  (op = 1 → (∀ e ∈ es, v ≤ el u x r n e) ∧ (if es = [] then v = (if u then 2 ^ n - 1 else 2 ^ (n - 1) - 1) else ∃ e ∈ es, v = el u x r n e)) ∧
  (op = 2 → (∀ e ∈ es, el u x r n e ≤ v) ∧ (if es = [] then v = (if u then 0 else -2 ^ (n - 1)) else ∃ e ∈ es, v = el u x r n e)) ∧
  (3 ≤ op → 0 ≤ v ∧ v < 2 ^ n ∧ ∀ j, j < n → v.toNat.testBit j =
    (if op = 3 then es.all fun e => (x.v r).getLsbD (e * n + j)
     else if op = 4 then es.any fun e => (x.v r).getLsbD (e * n + j)
     else (es.countP fun e => (x.v r).getLsbD (e * n + j)) % 2 == 1))

/-! ### Floating elements (R167 to R173) -/

/-- The format code of `MOD[2:0]`, its width, and the rounding field. -/
def fmt (w : Tolog) : Nat := w.mod.toNat % 8
def fwidth (w : Tolog) : Nat := (fmtOf (fmt w)).width
def rfield (w : Tolog) : Nat := w.mod.toNat / 8 % 8

/-- The mode of an arithmetic instruction and of a conversion (R59): DYN takes `FMODE.RM`, where SR rounds arithmetic by RNE. -/
def amode (x : Ctx) (w : Tolog) : Nat :=
  let m := if rfield w = 6 then x.f.fmode.toNat % 8 else rfield w
  if m = 5 then 0 else m
def cmode (x : Ctx) (w : Tolog) : Nat := if rfield w = 6 then x.f.fmode.toNat % 8 else rfield w

/-- `FMODE.FTZ`. -/
def ftz (x : Ctx) : Bool := x.f.fmode.getLsbD 3

/-- Element `e` of a source of the instruction's format, decoded (R66). -/
def fel (x : Ctx) (w : Tolog) (r : BitVec 6) (e : Nat) : Ex :=
  decodeF (fmt w) (ftz x) ((x.v r).extractLsb' (e * fwidth w) (fwidth w)).toNat

/-- An exact result rounded to the instruction's format, with the flags that led to it (R66). -/
def rounded (x : Ctx) (w : Tolog) (r : Ex × BitVec 7) : Nat × BitVec 7 :=
  let c := convertF (fmt w) (amode x w) (vsat w) (ftz x) 0 r.1
  (c.1, c.2 ||| r.2)

/-- A value of the format that needs no rounding. -/
def unrounded (x : Ctx) (w : Tolog) (v : Ex) : Nat × BitVec 7 := convertF (fmt w) 0 (vsat w) (ftz x) 0 v

/-- The sum of two exact values, rounded toward −∞ where `mode` is RDN (R56). -/
def plus (x : Ctx) (w : Tolog) (a b : Ex) : Ex × BitVec 7 := exSum (amode x w) [a, b]

/-- The pairwise tree of R71 above the leaves: node `j` of level `k`. -/
def treeNode (f : Ex → Ex → Ex) (leaf : Nat → Ex) (k j : Nat) : Ex :=
  match k with
  | 0 => leaf j
  | n + 1 => f (treeNode f leaf n (2 * j)) (treeNode f leaf n (2 * j + 1))

/-- Bits `o` to `o + n - 1` of a number. -/
def bitsOf (v o n : Nat) : Nat := v / 2 ^ o % 2 ^ n

/-- The place of a bit element (R154): its bytes as an access, where the checks of R133 let it through. -/
def bitAccess (x : Ctx) (s : State) (k : Kind) : Except Bar (State × Acc) :=
  s.check x.c (x.res s) x.sid (x.w.imm.toNat % 256) (x.off / 8) ((x.off % 8 + (x.w.b.toNat + 1) + 7) / 8) 1 k [1, 2] false 0

/-- The new value that an atomic writes, if it writes, and the predicate it gives (R139 to R142): `n` bits, the operand `b`, the
second operand `c`, the old value. -/
def atomic (op sub : Nat) (u : Bool) (n b c old : Nat) : Option Nat × Bool :=
  match op with
  | 0x46 => (if old = b then some c else none, false)
  | 0x47 => (some (if b ≤ old then 0 else old + 1), false)
  | 0x48 => if old ≤ b then (some (if b < old + c then b else old + c), decide (b < old + c)) else (none, true)
  | _ =>
    (some (match sub with
      | 0 => (old + b) % 2 ^ n
      | 1 => old &&& b
      | 2 => old ||| b
      | 3 => old ^^^ b
      | 4 => if fieldNum u n b < fieldNum u n old then b else old
      | 5 => if fieldNum u n old < fieldNum u n b then b else old
      | _ => b), false)

/-- The region mode that an atomic asks for (R134): `AMO` but for the swap accumulates. -/
def atomicKind (op sub : Nat) : Kind := if op = 0x45 ∧ sub ≠ 6 then .accum else .rmw

/-- An atomic performed at the place of its access: the old value, and the state it leaves (R138). -/
def atomicDone (x : Ctx) (s : State) (a : Acc) (t : State) (old : Nat) (p : Bool) : Prop :=
  let n := 8 * bytesOf x.w
  let b := (x.g x.w.b).toNat % 2 ^ n
  let c := (x.g x.w.c).toNat % 2 ^ n
  let m := s.dropOwn a
  let r := if x.op = 0x48 then atomic x.op x.w.c.toNat true n c b old else atomic x.op x.w.c.toNat (!x.w.mod.getLsbD 3) n b c old
  old = number (m.homeRead a.key a.place a.n) ∧ p = r.2 ∧
  t = match r.1 with
    | some v => m.homeWrite a.key a.place (leBytes a.n v)
    | none => m

/-- The request of an atomic `op` with operand `v` at a far home enters the buffer of its core's router, as a record of its own or as the last
constituent of one that takes it, and the instruction waits for its answer (R274); an atomic but `CADD` (`op` = 6) takes its core's own copy home first (R138). -/
def Routed (i : Instr) (x : Ctx) (f : Firing) (s : State) (a : Acc) (op : Nat) (v : Word) (before : State) : Prop :=
  let tag := 2 ^ 20 + s.clk * 1024
  let q : Merge := { home := a.place, space := a.space, key := a.key, addr := a.addr, n := a.n, op, signed := x.w.mod.getLsbD 3, scope := x.w.mod.toNat / 16 % 8,
                     born := s.clk, sid := a.sid, routers := [x.c], parts := [{ core := x.c, slot := x.k, tag, task := (x.res s).task, val := v }] }
  let t := (if op = 6 then s else s.dropOwn a).setFiring x.c x.k { f with asked := tag :: f.asked }
  let d := t.die (x.c / 256)
  ∃ ms, (ms = d.merges ++ [q] ∨
      ∃ l o r, d.merges = l ++ o :: r ∧ o.takes q = true ∧ ms = l ++ { o with parts := o.parts ++ q.parts } :: r) ∧
    exec i before = .next ((t.setDie (x.c / 256) { d with merges := ms }).retry x.c x.k)

end Sys2Proof.Claims
end

