-- ==== Sys2Proof/Claims/Rounding.lean ====
section
/-! DEFINITION. The grids of the floating formats and the laws of rounding and of exact arithmetic (R47 to R50, R54 to R66, R71, R72, R168, R171 to R173), for the
statements about floating instructions. -/

namespace Sys2Proof.Claims

open Sys2Proof.Machine

/-! ### Formats -/

/-- A format's row of R47: width, mantissa bits, bias, greatest finite code, whether it has infinities, its canonical NaN (R50). -/
structure Row47 where
  width : Nat
  mant : Nat
  bias : Nat
  top : Nat
  inf : Bool
  nan : Option Nat

/-- The table of R47 by the format codes of R22. -/
def table47 : List Row47 :=
  [⟨32, 23, 127, 0x7F7FFFFF, true, some 0x7FC00000⟩, ⟨16, 7, 127, 0x7F7F, true, some 0x7FC0⟩, ⟨16, 10, 15, 0x7BFF, true, some 0x7E00⟩,
   ⟨8, 3, 7, 0x7E, false, some 0x7F⟩, ⟨8, 2, 15, 0x7B, true, some 0x7E⟩, ⟨6, 2, 3, 0x1F, false, none⟩, ⟨6, 3, 1, 0x1F, false, none⟩,
   ⟨4, 1, 1, 0x7, false, none⟩]

def row47 (c : Nat) : Row47 := table47.getD c ⟨4, 1, 1, 0x7, false, none⟩

/-- The value of a magnitude code in units of the least subnormal, 2^(1 − bias − mant); codes above the greatest finite one go on along the grid of an
unbounded exponent (R47, R58). -/
def Row47.grid (f : Row47) (m : Nat) : Nat := if m < 2 ^ f.mant then m else (2 ^ f.mant + m % 2 ^ f.mant) * 2 ^ (m / 2 ^ f.mant - 1)

/-- How many of those units make 1. -/
def Row47.unit (f : Row47) : Nat := 2 ^ (f.bias + f.mant - 1)

/-- A magnitude code with its sign. -/
def Row47.code (f : Row47) (neg : Bool) (m : Nat) : Nat := (if neg then 2 ^ (f.width - 1) else 0) + m

/-- Whether the format is flushed (R57). -/
def flushed (c : Nat) : Bool := c ≤ 2

/-! ### Rounding -/

/-- The neighbour that a mode takes for a magnitude `down` above its lower neighbour `lo` and `up` below the next one (R58, R60). -/
def Takes (mode : Nat) (neg : Bool) (down up lo draw m : Nat) : Prop :=
  if down = 0 then m = lo
  else match mode with
    | 0 => m = if down < up ∨ (down = up ∧ lo % 2 = 0) then lo else lo + 1
    | 1 => m = lo
    | 2 => m = if neg then lo + 1 else lo
    | 3 => m = if neg then lo else lo + 1
    | 4 => m = if down < up then lo else lo + 1
    | _ => m = if 2 ^ 32 ≤ down * 2 ^ 32 / (down + up) + draw then lo + 1 else lo

/-- The result of an overflow (R63). -/
def overflows (f : Row47) (mode : Nat) (sat neg : Bool) : Nat :=
  let out : Bool := (mode == 0 || mode == 4 || mode == 5 || (mode == 3 && !neg) || (mode == 2 && neg)) && !sat
  if out ∧ f.inf then f.code neg (f.top + 1)
  else if out then (match f.nan with
    | some n => n
    | none => f.code neg f.top)
  else f.code neg f.top

/-- `convert` of a finite non-zero value p / q with its sign (R58, R60, R63, R65, R66). -/
def RoundsFinite : Prop := ∀ (c mode draw p q : Nat) (sat ftz neg : Bool), c < 8 → mode ≤ 5 → draw < 2 ^ 32 → 0 < p → 0 < q →
  let f := row47 c
  let x := p * f.unit
  ∃ lo m, q * f.grid lo ≤ x ∧ x < q * f.grid (lo + 1) ∧ Takes mode neg (x - q * f.grid lo) (q * f.grid (lo + 1) - x) lo draw m ∧
    let tiny := 0 < m ∧ m < 2 ^ f.mant
    let exact := x = q * f.grid m
    (f.top < m → convertF c mode sat ftz draw (.fin neg p q) = (overflows f mode sat neg, 0x05)) ∧
    (m ≤ f.top → ¬ (ftz = true ∧ flushed c = true ∧ tiny) → convertF c mode sat ftz draw (.fin neg p q) =
      (f.code neg m, if exact then 0 else if tiny then 0x03 else 0x01)) ∧
    (m ≤ f.top → ftz = true → flushed c = true → tiny → convertF c mode sat ftz draw (.fin neg p q) = (f.code neg 0, 0x03))

/-- `convert` of zeros, infinities and NaN (R56, R64). -/
def RoundsSpecial : Prop := ∀ (c mode draw q : Nat) (sat ftz neg : Bool), c < 8 →
  let f := row47 c
  convertF c mode sat ftz draw (.fin neg 0 q) = (f.code neg 0, 0) ∧
  (∀ n, f.nan = some n → convertF c mode sat ftz draw .nan = (n, 0)) ∧ (f.nan = none → convertF c mode sat ftz draw .nan = (0, 0x10)) ∧
  (f.inf = true → convertF c mode sat ftz draw (.inf neg) = (f.code neg (if sat then f.top else f.top + 1), 0)) ∧
  (∀ n, f.inf = false → f.nan = some n → convertF c mode sat ftz draw (.inf neg) = (if sat then f.code neg f.top else n, 0x10)) ∧
  (f.inf = false → f.nan = none → convertF c mode sat ftz draw (.inf neg) = (f.code neg f.top, 0x10))

/-- `to_int` at width `n`, unsigned where `u` (R54, R60, R64, R66). -/
def RoundsToInteger : Prop := ∀ (n mode draw p q : Nat) (u neg : Bool), n ∈ [8, 16, 32] → mode ≤ 5 → draw < 2 ^ 32 → 0 < q →
  let least : Int := if u then 0 else -2 ^ (n - 1)
  let most : Int := if u then 2 ^ n - 1 else 2 ^ (n - 1) - 1
  let bits (i : Int) : Nat := (i % 2 ^ n).toNat
  toIntF n u mode draw .nan = (0, 0x10) ∧ toIntF n u mode draw (.inf neg) = (bits (if neg then least else most), 0x10) ∧
  ∃ lo m, q * lo ≤ p ∧ p < q * (lo + 1) ∧ Takes mode neg (p - q * lo) (q * (lo + 1) - p) lo draw m ∧
    let y : Int := if neg then -(m : Int) else m
    toIntF n u mode draw (.fin neg p q) =
      if most < y then (bits most, 0x10) else if y < least then (bits least, 0x10) else (bits y, if q * lo = p then 0 else 0x01)

/-- `decode` of a code (R47, R49, R57, R66). -/
def DecodesCodes : Prop := ∀ (c x : Nat) (ftz : Bool), c < 8 →
  let f := row47 c
  x < 2 ^ f.width →
  let neg : Bool := x.testBit (f.width - 1)
  let m := x % 2 ^ (f.width - 1)
  (m ≤ f.top → ∃ p q, decodeF c ftz x = .fin neg p q ∧ 0 < q ∧
    p * f.unit = q * if ftz && flushed c && decide (m < 2 ^ f.mant) then 0 else f.grid m) ∧
  (f.top < m → f.inf = true → m = f.top + 1 → decodeF c ftz x = .inf neg) ∧
  (f.top < m → ¬ (f.inf = true ∧ m = f.top + 1) → decodeF c ftz x = .nan)

/-! ### Exact arithmetic -/

/-- The number that a finite exact value stands for. -/
def worth : Ex → Rat
  | .fin n p q => mkRat (if n then -(p : Int) else p) q
  | _ => 0

/-- A finite exact value with a denominator. -/
def Finite (x : Ex) : Prop := ∃ n p q, x = .fin n p q ∧ 0 < q

/-- Products and quotients (R56, R65). -/
def ExactProducts : Prop := ∀ x y : Ex,
  (Finite x → Finite y → Finite (x.mul y).1 ∧ worth (x.mul y).1 = worth x * worth y ∧ (x.mul y).1.neg = (x.neg != y.neg) ∧ (x.mul y).2 = 0) ∧
  (x = .nan ∨ y = .nan → x.mul y = (.nan, 0) ∧ x.div y = (.nan, 0)) ∧
  (∀ a, x = .inf a → y ≠ .nan → y.isZero = false → x.mul y = (.inf (a != y.neg), 0) ∧ y.mul x = (.inf (a != y.neg), 0)) ∧
  (∀ a, x = .inf a → y.isZero = true → x.mul y = (.nan, 0x10) ∧ y.mul x = (.nan, 0x10)) ∧
  (Finite x → Finite y → worth y ≠ 0 → Finite (x.div y).1 ∧ worth (x.div y).1 = worth x / worth y ∧ (x.div y).1.neg = (x.neg != y.neg) ∧ (x.div y).2 = 0) ∧
  (Finite x → y.isZero = true → x.div y = if x.isZero then (.nan, 0x10) else (.inf (x.neg != y.neg), 0x08)) ∧
  (∀ a b, x = .inf a → y = .inf b → x.div y = (.nan, 0x10)) ∧
  (∀ a, x = .inf a → Finite y → x.div y = (.inf (a != y.neg), 0)) ∧
  (∀ b, Finite x → y = .inf b → worth (x.div y).1 = 0 ∧ Finite (x.div y).1 ∧ (x.div y).1.neg = (x.neg != b) ∧ (x.div y).2 = 0)

/-- Exact sums, of any number of terms (R56, R65, R72); `mode` 2 is RDN. -/
def ExactSums : Prop := ∀ (mode : Nat) (xs : List Ex),
  (Ex.inf false ∈ xs → Ex.inf true ∈ xs → exSum mode xs = (.nan, 0x10)) ∧
  (¬ (Ex.inf false ∈ xs ∧ Ex.inf true ∈ xs) → Ex.nan ∈ xs → exSum mode xs = (.nan, 0)) ∧
  (∀ n, Ex.inf n ∈ xs → Ex.inf (!n) ∉ xs → Ex.nan ∉ xs → exSum mode xs = (.inf n, 0)) ∧
  ((∀ x ∈ xs, Finite x) → Finite (exSum mode xs).1 ∧ (exSum mode xs).2 = 0 ∧ worth (exSum mode xs).1 = (xs.map worth).sum ∧
    ((xs.map worth).sum ≠ 0 → (exSum mode xs).1.neg = decide ((xs.map worth).sum < 0)) ∧
    ((xs.map worth).sum = 0 → (exSum mode xs).1.neg =
      if xs ≠ [] ∧ xs.all (·.neg) then true else if xs.all fun x => !x.neg then false else mode == 2))

/-- The exponent of a finite non-zero value: the greatest power of two not above its magnitude. -/
def ExactExponents : Prop := ∀ (n : Bool) (p q : Nat), 0 < p → 0 < q → ∃ l : Int, (Ex.fin n p q).log2 = some l ∧
  (2 : Rat) ^ l ≤ mkRat p q ∧ mkRat p q < (2 : Rat) ^ (l + 1)

/-! ### The special functions (R168) -/

/-- The results that R168's tables fix. -/
def SpecialResults : Prop :=
  (∀ f : Special, f.eval .nan = (.nan, 0)) ∧
  (∀ (n : Bool) (q : Nat), let z : Ex := .fin n 0 q
    Special.rcp.eval z = (.inf n, 0x08) ∧ Special.rsq.eval z = (.inf n, 0x08) ∧ Special.sqrt.eval z = (.fin n 0 1, 0) ∧ Special.exp2.eval z = (.fin false 1 1, 0) ∧
    Special.log2.eval z = (.inf true, 0x08) ∧ Special.sinpi.eval z = (.fin n 0 1, 0) ∧ Special.cospi.eval z = (.fin false 1 1, 0) ∧
    Special.tanh.eval z = (.fin n 0 1, 0) ∧ Special.sig.eval z = (.fin false 1 2, 0)) ∧
  (∀ n : Bool, let z : Ex := .inf n
    Special.rcp.eval z = (.fin n 0 1, 0) ∧ Special.rsq.eval z = (if n then (.nan, 0x10) else (.fin false 0 1, 0)) ∧
    Special.sqrt.eval z = (if n then (.nan, 0x10) else (.inf false, 0)) ∧ Special.exp2.eval z = (if n then .fin false 0 1 else .inf false, 0) ∧
    Special.log2.eval z = (if n then (.nan, 0x10) else (.inf false, 0)) ∧ Special.sinpi.eval z = (.nan, 0x10) ∧ Special.cospi.eval z = (.nan, 0x10) ∧
    Special.tanh.eval z = (.fin n 1 1, 0) ∧ Special.sig.eval z = (.fin false (if n then 0 else 1) 1, 0)) ∧
  (∀ p q : Nat, 0 < p → 0 < q → ∀ f ∈ [Special.rsq, .sqrt, .log2], f.eval (.fin true p q) = (.nan, 0x10))

/-- The results that R168 says are exact, and those that arithmetic gives: reciprocals, powers of two and their logarithms, multiples of a half turn. -/
def SpecialExact : Prop := ∀ (n : Bool) (p q : Nat), 0 < p → 0 < q →
  Special.rcp.eval (.fin n p q) = (.fin n q p, 0) ∧
  (∀ k : Int, -3000 ≤ k → k ≤ 3000 → mkRat (if n then -(p : Int) else p) q = k → (Special.exp2.eval (.fin n p q)).2 = 0 ∧
    Finite (Special.exp2.eval (.fin n p q)).1 ∧ worth (Special.exp2.eval (.fin n p q)).1 = (2 : Rat) ^ k) ∧
  (∀ k : Int, n = false → mkRat p q = (2 : Rat) ^ k → (Special.log2.eval (.fin n p q)).2 = 0 ∧ Finite (Special.log2.eval (.fin n p q)).1 ∧
    worth (Special.log2.eval (.fin n p q)).1 = k ∧ (k = 0 → (Special.log2.eval (.fin n p q)).1.neg = false)) ∧
  (p % q = 0 → Special.sinpi.eval (.fin n p q) = (.fin n 0 1, 0)) ∧
  (p % q = 0 → worth (Special.cospi.eval (.fin n p q)).1 = if p / q % 2 = 0 then 1 else -1) ∧
  (2 * p % (2 * q) = q → Special.cospi.eval (.fin n p q) = (.fin false 0 1, 0)) ∧
  (2 * p % (2 * q) = q → worth (Special.sinpi.eval (.fin n p q)).1 = if (decide (p / q % 2 = 0) == n) then -1 else 1)

/-- Square roots and their reciprocals: the value to be rounded lies on the same side as the root of every multiple of 2^−300, and on it where the root does, so that it
rounds as the root in every format (R168). -/
def SpecialRoots : Prop := ∀ (p q a : Nat), 0 < p → 0 < q → p < q * 2 ^ 130 → q < p * 2 ^ 150 →
  (∃ r t, Special.sqrt.eval (.fin false p q) = (.fin false r t, 0) ∧ 0 < t ∧ (a * t < r * 2 ^ 300 ↔ a ^ 2 * q < p * 2 ^ 600) ∧
    (a * t = r * 2 ^ 300 ↔ a ^ 2 * q = p * 2 ^ 600)) ∧
  (∃ r t, Special.rsq.eval (.fin false p q) = (.fin false r t, 0) ∧ 0 < t ∧ (a * t < r * 2 ^ 300 ↔ a ^ 2 * p < q * 2 ^ 600) ∧
    (a * t = r * 2 ^ 300 ↔ a ^ 2 * p = q * 2 ^ 600))

/-! ### Dot products of blocks (R171, R172) -/

/-- A rounding to FP32, with the flags that led to it. -/
def single (mode : Nat) (ftz : Bool) (r : Ex × BitVec 7) : Nat × BitVec 7 :=
  let c := convertF 0 mode false ftz 0 r.1
  (c.1, c.2 ||| r.2)

/-- The exact sum of a block's products, times its scales, with every flag on the way. -/
def blockSum (mode bs j : Nat) (a b sa sb : Nat → Ex) : Ex × BitVec 7 :=
  let ps := (List.range bs).map fun i => (a (j * bs + i)).mul (b (j * bs + i))
  let p := exSum mode (ps.map (·.1))
  let s := (sa j).mul (sb j)
  let t := p.1.mul s.1
  (t.1, t.2 ||| (p.2 ||| s.2 ||| ps.foldl (fun y z => y ||| z.2) 0))

/-- Whether a block's result exceeds the bound of R172. -/
def blockSuspect (c bs : Nat) (sa sb r : Ex) : Prop := ∃ l x y, r.log2 = some l ∧ sa.log2 = some x ∧ sb.log2 = some y ∧
  (Nat.log2 bs : Int) + 2 * (if c = 3 then 8 else if c = 4 then 15 else if c = 5 then 4 else 2) + 2 + x + y < l

/-- The blocks of a dot product, one after another, where no scale is infinite: `r j` is the rounded result of block `j`, `acc j` the accumulator after it. -/
def DotBlocks : Prop := ∀ (c bs mode nb : Nat) (ftz : Bool) (a b sa sb : Nat → Ex), 0 < nb → (∀ j, j < nb → (sa j).isInf = false ∧ (sb j).isInf = false) →
  ∃ (r acc : Nat → Nat × BitVec 7),
    (∀ j, j < nb → r j = single mode ftz (blockSum mode bs j a b sa sb)) ∧ acc 0 = ((r 0).1, 0) ∧
    (∀ j, j + 1 < nb → acc (j + 1) = single mode ftz (exSum mode [decodeF 0 ftz (acc j).1, decodeF 0 ftz (r (j + 1)).1])) ∧
    ∃ fl sus, mxBlocks c bs mode ftz a b sa sb 0 nb 0 0 false = ((acc (nb - 1)).1, fl, sus) ∧
      (∀ i, i < 7 → (fl.getLsbD i = true ↔ ∃ j, j < nb ∧ ((r j).2.getLsbD i = true ∨ (acc j).2.getLsbD i = true))) ∧
      (sus = true ↔ ∃ j, j < nb ∧ blockSuspect c bs (sa j) (sb j) (decodeF 0 ftz (r j).1))

/-! ### The merge of triples (R173) -/

/-- The weight of a term whose maximum is `mk`, under the greater maximum `m`: none where the term is dropped. -/
def TermWeight (mode : Nat) (ftz : Bool) (mk m : Ex) (w : Option Ex) (fl : BitVec 7) : Prop :=
  if mk.same m = true then w = some (.fin false 1 1) ∧ fl = 0
  else if m.isInf = true ∨ mk.isInf = true then w = none ∧ fl = 0
  else
    let e := single mode ftz (expEx (ratAdd mk.rat (-m.rat.1, m.rat.2)), 0)
    fl = e.2 ∧ w = if e.1 = 0 then none else some (decodeF 0 ftz e.1)

/-- One component of the merge: the exact sum of the kept terms, rounded once. -/
def keptSum (mode : Nat) (ftz : Bool) (wa wb : Option Ex) (a b : Ex) : Nat × BitVec 7 :=
  let ts := (wa.map (·.mul a)).toList ++ (wb.map (·.mul b)).toList
  let t := exSum mode (ts.map (·.1))
  single mode ftz (t.1, t.2 ||| ts.foldl (fun y z => y ||| z.2) 0)

/-- The merge of two triples whose values are `os` (R173). -/
def MergesTriples : Prop := ∀ (nanpol ftz : Bool) (mode : Nat) (m1 l1 m2 l2 : Ex) (os : List (Ex × Ex)),
  (nanpol = false → m1 = .nan ∨ m2 = .nan → triMerge nanpol mode ftz m1 l1 m2 l2 os = ((0x7FC00000, 0x7FC00000, os.map fun _ => 0x7FC00000), 0)) ∧
  (nanpol = true → triMerge nanpol mode ftz m1 l1 m2 l2 os =
    triMerge nanpol mode ftz (if m1 = .nan then .inf true else m1) l1 (if m2 = .nan then .inf true else m2) l2 os) ∧
  (m1 = .inf true → m2 = .inf true → triMerge nanpol mode ftz m1 l1 m2 l2 os = ((0xFF800000, 0, os.map fun _ => 0), 0)) ∧
  (m1 ≠ .nan → m2 ≠ .nan → ∀ m, m = (if m1.lt true m2 then m2 else m1) → m ≠ .inf true →
    ∃ wa wb fa fb, TermWeight mode ftz m1 m wa fa ∧ TermWeight mode ftz m2 m wb fb ∧
      let l := keptSum mode ftz wa wb l1 l2
      let rs := os.map fun o => keptSum mode ftz wa wb o.1 o.2
      triMerge nanpol mode ftz m1 l1 m2 l2 os =
        (((convertF 0 0 false ftz 0 m).1, l.1, rs.map (·.1)), rs.foldl (fun y z => y ||| z.2) (fa ||| fb ||| l.2)))

end Sys2Proof.Claims
end

