-- ==== Sys2Proof/Claims/Lanes.lean ====
section
/-! DEFINITION. The lanes' accesses of the vector memory instructions, for the statements about them (R174 to R179). -/

namespace Sys2Proof.Claims

open Sys2Proof.Machine

/-- The active lanes, ascending. -/
def lanesOn (x : Ctx) : List Nat := (List.range x.f.lanes).filter fun i => x.active.getLsbD i

/-- The bits of lane `i` of a source. -/
def laneOf (x : Ctx) (r : BitVec 6) (i : Nat) : Nat := ((x.v r).extractLsb' (i * 32) 32).toNat

/-- The offsets of R174: consecutive, strided and indexed. -/
def seqOff (x : Ctx) (i : Nat) : Nat := (x.off + i * bytesOf x.w) % 2 ^ 64
def strideOff (x : Ctx) (st : Word) (i : Nat) : Nat := (x.off + i * st.toNat) % 2 ^ 64
def idxOff (x : Ctx) (i : Nat) : Nat := (low (x.off + el false x x.w.b 32 i)).toNat

/-- The check of R133 for one lane, at the core that holds it. -/
def laneCheck (x : Ctx) (n : Nat) (k : Kind) (home : Bool) (off : Nat → Nat) (s : State) (i : Nat) : Except Bar (State × Acc) :=
  s.check (x.laneCore i) (x.laneRes s i) x.sid (x.w.imm.toNat % 256) (off i) n n k [1, 2, 3, 4, 5] home x.w.ch.toNat

/-- A read or an atomic at its home finds no uncorrectable error (R133): through the L1, or past the core's own line. -/
def sound (s : State) (a : Acc) (home : Bool) : Prop := if home then (s.dropOwn a).segsBad a.segs = false else (s.read a).isSome = true

/-- Every lane's check lets its access through, in ascending order; it follows no earlier load of its bytes that waits at its home (R137), and a reading one is
held by no `MON` and finds no error (R133, R147, R175): the accesses by lane, and the state the checks leave. -/
def laneAccs (x : Ctx) (n : Nat) (k : Kind) (home : Bool) (off : Nat → Nat) (s : State) (is : List Nat) (as : List (Nat × Acc)) (t : State) : Prop :=
  match is, as with
  | [], [] => t = s
  | i :: is, (j, a) :: as => j = i ∧ ∃ u, laneCheck x n k home off s i = .ok (u, a) ∧ x.behind s a = false ∧
      (k.reads = true → x.held u a = false ∧ sound u a home) ∧
      laneAccs x n k home off u is as t
  | _, _ => False

/-- The lanes read their bytes one after another. -/
def laneReads (s : State) (as : List (Nat × Acc)) (bs : List (Nat × List Byte)) (t : State) : Prop :=
  match as, bs with
  | [], [] => t = s
  | (i, a) :: as, (j, b) :: bs => j = i ∧ ∃ u, s.read a = some (u, b) ∧ laneReads u as bs t
  | _, _ => False

/-- One lane's atomic (R179, R274): `buffered`, a far one but the swap enters its core's router, where there is room, as a record of its own or, where it `meets`
one that takes it, as that record's last constituent; any other is performed at its home, on the value that the lanes before it left, once what they have in
the routers for its address is there, and is answered. -/
def laneAtomic (x : Ctx) (buffered meets : Bool) (s : State) (i : Nat) (a : Acc) (t : State) : Prop :=
  let op := x.w.c.toNat
  let q : Merge := { home := a.place, space := a.space, key := a.key, addr := a.addr, n := a.n, op, signed := x.w.mod.getLsbD 3, scope := x.w.mod.toNat / 16 % 8,
                     born := s.clk, sid := a.sid, routers := [x.c],
                     parts := [{ core := x.c, slot := x.k, tag := 2 ^ 20 + s.clk * 1024 + i, task := (x.res s).task, val := BitVec.ofNat 64 (laneOf x x.w.d i) }] }
  let ms := (s.die (x.c / 256)).merges
  let routed := buffered = true ∧ op ≠ 6 ∧ a.far = true ∧ ((ms.filter (·.routers.contains x.c)).length < 16 ∨ ∃ o ∈ ms, o.takes q = true)
  (routed → ∃ f, s.firing x.c x.k = some f ∧
    let u := (s.dropOwn a).setFiring x.c x.k { f with asked := (2 ^ 20 + s.clk * 1024 + i) :: f.asked }
    let d := u.die (x.c / 256)
    let enter (ms : List Merge) : Prop := t = u.setDie (x.c / 256) { d with merges := ms }
    (meets = true → ∀ l o r, d.merges = l ++ o :: r → o.takes q = true → (∀ y ∈ l, y.takes q = false) → enter (l ++ { o with parts := o.parts ++ q.parts } :: r)) ∧
    (meets = false ∨ (∀ o ∈ d.merges, o.takes q = false) → enter (d.merges ++ [q]))) ∧
  (¬ routed →
    let m := (s.flushRoute x a).dropOwn a
    let old := number (m.homeRead a.key a.place a.n)
    let u := m.homeWrite a.key a.place (leBytes a.n ((atomic 0x45 op (!x.w.mod.getLsbD 3) 32 (laneOf x x.w.d i) 0 old).1.getD 0))
    m.segsBad a.segs = false ∧ ∃ f, u.firing x.c x.k = some f ∧
      let tag := 2 ^ 20 + u.clk * 1024 + i
      t = u.setFiring x.c x.k { f with asked := tag :: f.asked, replies := mset f.replies tag { bytes := leBytes 8 old } })

/-- The lanes' atomics in ascending order. -/
def laneAtomics (x : Ctx) (buffered meets : Bool) (s : State) (as : List (Nat × Acc)) (t : State) : Prop :=
  match as with
  | [] => t = s
  | (i, a) :: as => ∃ u, laneAtomic x buffered meets s i a u ∧ laneAtomics x buffered meets u as t

/-- The old value with which lane `i`'s atomic has been answered, by its home or its router. -/
def laneOld (f : Firing) (i : Nat) : Option Nat :=
  match f.asked.find? fun t => decide (2 ^ 20 ≤ t) && t % 1024 == i with
  | some t => match mget f.replies t with
    | some r => if r.lost = false ∧ r.nack = none ∧ r.cause = 0 then some (number (r.bytes.take 8)) else none
    | none => none
  | none => none

/-- A lane's atomic waits for its answer. -/
def laneWaits (f : Firing) (i : Nat) : Prop := ∃ t, f.asked.find? (fun t => decide (2 ^ 20 ≤ t) && t % 1024 == i) = some t ∧ mget f.replies t = none

/-- What a list by lane holds for a lane. -/
def ofLane (xs : List (Nat × α)) (d : α) (i : Nat) : α := ((xs.find? fun p => p.1 == i).map (·.2)).getD d

/-- A vector load with lane `i` at offset `off i`. -/
def Loads (i : Instr) (op : Nat) (w : Tolog) (off : Ctx → Nat → Nat) (s : State) : Prop :=
  let x := ctx op w s
  Fresh s → ∀ as t bs u, laneAccs x (bytesOf w) .load false (off x) (start s) (lanesOn x) as t → laneReads t as bs u →
    ∃ ws, Elements x 32 (fun i => fieldNum (!w.mod.getLsbD 3) (8 * bytesOf w) (number (ofLane bs [] i))) ws ∧
      Acts i op w s { s := u, writes := ws }

/-- A vector store of `r`, the lanes in ascending order. -/
def Stores (i : Instr) (op : Nat) (w : Tolog) (r : BitVec 6) (off : Ctx → Nat → Nat) (s : State) : Prop :=
  let x := ctx op w s
  Fresh s → ∀ as t, laneAccs x (bytesOf w) .store false (off x) (start s) (lanesOn x) as t →
    Acts i op w s { s := as.foldl (fun v p => v.write p.2 (leBytes (bytesOf w) (laneOf x r p.1))) t }

/-- The lowest lane whose check faults, or which would read an error, gives the instruction's fault, with no effect (R175). -/
def LaneFault (i : Instr) (op : Nat) (w : Tolog) (n : Nat) (k : Kind) (home : Bool) (off : Ctx → Nat → Nat) (s : State) : Prop :=
  let x := ctx op w s
  Fresh s → ∀ is l js as t cause, lanesOn x = is ++ l :: js → laneAccs x n k home (off x) (start s) is as t →
    (laneCheck x n k home (off x) t l = .error (.trap cause) ∨
      (cause = 0x16 ∧ k.reads = true ∧ ∃ u a, laneCheck x n k home (off x) t l = .ok (u, a) ∧ x.behind t a = false ∧ x.held u a = false ∧ ¬ sound u a home)) →
    exec i s = .next ((start s).raiseAfter x.c x.k cause (BitVec.ofNat 64 (x.w.imm.toNat % 256 * 2 ^ 56 + off x l % 2 ^ 56)) (l / 32))

/-- Write a number's bytes at places. -/
def putAt (s : State) (ps : List Nat) (v : Nat) : State :=
  match ps with
  | [] => s
  | p :: t => putAt (s.homeWrite 0 p [BitVec.ofNat 8 v]) t (v / 256)

end Sys2Proof.Claims
end

