-- ==== Sys2Proof/Claims/Engine.lean ====
section
/-! DEFINITION. Entries that a firing appends to a chain, for the statements about the engines (R217 to R219, R231). -/

namespace Sys2Proof.Claims

open Sys2Proof.Machine

/-- What an appending instruction puts into its entry beside the fields that all entries share. -/
structure Words where
  rm  : Nat := 0
  sat : Bool := false
  x   : Bool := false
  w1  : Nat := 0
  w2  : Nat := 0
  w3  : Nat := 0
  w5  : Nat := 0
  w6  : Nat := 0
  /-- `g[D]` receives the sequence number. -/
  ret : Bool := true

/-- A bit as a number. -/
def one (b : Bool) : Nat := if b then 1 else 0

/-- Word 0 of an entry (R217, R219). -/
def headWord (f : Firing) (w : Tolog) (op : Nat) (fol : Bool) (v : Words) : Nat :=
  op * 2 ^ 56 + one (w.mod.getLsbD 5) * 2 ^ 55 + one (w.mod.getLsbD 6) * 2 ^ 54 + one fol * 2 ^ 53 + v.rm * 2 ^ 50 + one v.sat * 2 ^ 49 +
  one v.x * 2 ^ 48 + f.fmode.toNat % 2 ^ 8 * 2 ^ 40 + f.fseed.toNat % 2 ^ 32

/-- The chain of an engine of a resident task. -/
def chainOf (r : Resident) (arr : Bool) : Chain := if arr then r.achain else r.cchain

/-- The scratchpad address of the slot of entry `n`, in a ring of 2^`LOGN` entries from `BASE` on (R215). -/
def slotOf (ch : Chain) (n : Nat) : Nat := ch.cfg.toNat % 2 ^ 14 * 64 + (n - 1) % 2 ^ (ch.cfg.toNat / 2 ^ 32 % 16) * 64

/-- Entry `n` of a chain has completed, be it published yet or not (R216). -/
def entryDone (ch : Chain) (n : Nat) : Bool := decide (n ≤ ch.done) || ch.tags.any fun y => y.seq == n && y.finished

/-- A chain once `CHTAIL` has cleared its halt (R223): the faulted entry is to continue from its prefix, or, with `skip`, has completed with status `SKIP`. -/
def Unhalted (skip : Bool) (ch v : Chain) : Prop :=
  (ch.halted = none → v = ch) ∧
  (∀ m, ch.halted = some m → ch.tags.find? (·.seq == m) = none → v = { ch with halted := none }) ∧
  (∀ m g, ch.halted = some m → ch.tags.find? (·.seq == m) = some g →
    let kept := g.replies.filter fun p => p.2.cause == 0
    let again : EntryTag := { g with started := false, held := false, status := 0, issued := [], sides := none, source := none, replies := kept, asked := kept.map (·.1) }
    (skip = false → v = { ch with halted := none, tags := ch.tags.map fun y => if y.seq == m then again else y }) ∧
    (skip = true → v.halted = none ∧ v.tail = ch.tail ∧ v.cfg = ch.cfg ∧ (m ≤ v.done ∨ ∃ y ∈ v.tags, y.seq = m ∧ y.finished = true ∧ y.status = 0x0B) ∧
      (∀ y ∈ v.tags, y.seq ≠ m → y ∈ ch.tags) ∧ (∀ y ∈ ch.tags, y.seq ≠ m → y ∈ v.tags ∨ y.finished = true)))

/-- Word `i` of the slot of entry `n` of a chain. -/
def slotWord (s : State) (c : Nat) (ch : Chain) (n i : Nat) : Nat := number (memRead s.mem (Loc.sp c (slotOf ch n) + 8 * i) 8)

/-- `new` are the tags of the entries that a firing has written into the slots after the tail and publishes (R225, R226, R231): their formats are captured, and an
array entry with `FOL` is held until its copy has completed. -/
def Published (t : State) (c : Nat) (r : Resident) (arr : Bool) (n : Nat) (new : List EntryTag) : Prop :=
  let ch := chainOf r arr
  let fol (i : Nat) : Bool := arr && (BitVec.ofNat 64 (slotWord t c ch (ch.tail + 1 + i) 0)).getLsbD 53
  new.length = n ∧ ∀ i y, new[i]? = some y →
    y.seq = ch.tail + 1 + i ∧ y.formats = (List.range 16).zip (t.core c).bfmt.toList ∧ y.started = false ∧ y.finished = false ∧ y.released = false ∧
    ((∀ j, j < i → fol j = false) → y.folDone = !(fol i && !entryDone r.cchain (slotWord t c ch (ch.tail + 1 + i) 5)))

/-- The instruction that issues appends the entry `v`: it takes the next sequence number, its eight words go to its slot, the
formats are captured and the tail advances; a full chain makes it wait (R216 to R219). An array instruction of a task without the
array raises `PERM` (R232). Where the entry is held on a copy, that copy is marked too (R231). -/
def Appends (i : Instr) (op : Nat) (w : Tolog) (arr : Bool) (eop : Nat) (v : Ctx → Words) : Prop :=
  ∀ s, Issues op w s → ∀ r, (start s).resident s.cur.core (ctx op w s).f.rti = some r →
    let x := ctx op w s
    let t := start s
    let ch := chainOf r arr
    let n := ch.tail + 1
    let q := x.f.lastCopy.getD 0
    let fol : Bool := arr && w.mod.getLsbD 7 && x.f.lastCopy.isSome && r.cchain.pending q
    let ws : List Nat := [headWord x.f w eop fol (v x), (v x).w1, (v x).w2, (v x).w3, (x.g w.e).toNat, if fol then q else (v x).w5, (v x).w6, 0]
    let put := t.homeWrite 0 (Loc.sp x.c (slotOf ch n)) (ws.flatMap (leBytes 8))
    (arr = true → r.arr = false → Traps i op w 0x12 (fun _ => 0) s) ∧
    ((arr = true → r.arr = true) → ch.room = 0 → exec i s = .next (t.retry s.cur.core s.cur.slot)) ∧
    ((arr = true → r.arr = true) → ch.room ≠ 0 → ∃ tag : EntryTag,
      tag.seq = n ∧ tag.formats = (List.range 16).zip (t.core x.c).bfmt.toList ∧ tag.started = false ∧ tag.finished = false ∧
      tag.released = false ∧ tag.folDone = !(fol && !entryDone r.cchain (q % 2 ^ 64)) ∧ tag.slot = some x.k ∧ tag.actor = x.f.actor ∧
      let m := if fol then put.markFol x.c x.f.rti (q % 2 ^ 64) else put
      let ch' : Chain := { ch with tail := n, tags := ch.tags ++ [tag] }
      let r' := (m.resident x.c x.f.rti).getD r
      let u := m.setResident x.c x.f.rti (if arr then { r' with achain := ch' } else { r' with cchain := ch' })
      Acts i op w s { s := if arr then u else u.setFiring x.c x.k { x.f with lastCopy := some n },
                      writes := if (v x).ret then [.g w.d (BitVec.ofNat 64 n)] else [] })

/-- A read of `n` bytes at the instruction's handle and offset, which the checks of R133 let through and nothing holds. -/
def reads (x : Ctx) (t : State) (n align : Nat) (u : State) (bs : List Byte) : Prop :=
  ∃ s1 a, t.check x.c (x.res t) x.sid (x.w.imm.toNat % 256) x.off n align .load [1, 2, 3, 4, 5] false x.w.ch.toNat = .ok (s1, a) ∧
    x.held s1 a = false ∧ s1.read a = some (u, bs) ∧ bs.length = n

/-- Word `i` of bytes. -/
def wordIn (bs : List Byte) (i : Nat) : Nat := number ((bs.drop (8 * i)).take 8)

end Sys2Proof.Claims
end

