-- ==== Sys2Proof/Claims/Streams.lean ====
section
/-! DEFINITION. Stream operands and refusals, for the statements about the stream instructions (R337, R340, R354). -/

namespace Sys2Proof.Claims

open Sys2Proof.Machine

/-- The id that an operand names: 0 stands for the firing's `g4`. -/
def streamNamed (x : Ctx) (v : Word) : Nat := if v = 0 then (x.g 4).toNat % 2 ^ 24 else v.toNat % 2 ^ 24

/-- The home die of an id (R337). -/
def homeDie (g : Nat) : Nat := g / 2 ^ 21 % 8

/-- Whether the tables of a stream's home are in service (R344). -/
def serving (t : State) (g : Nat) : Bool := (t.die (homeDie g)).spcfg.getLsbD 0

/-- The slice where an id's instructions are performed (R337) is in no fenced rectangle (R443). -/
def homeOpen (t : State) (g : Nat) : Prop := t.sliceFenced (homeDie g) (g % 2 ^ 16 % 48) = false

/-- The operand names stream `g`, whose entry is `e`, and the task may name it. -/
def Names (x : Ctx) (t : State) (v : Word) (g : Nat) (e : Stream) : Prop :=
  g = streamNamed x v ∧ homeOpen t g ∧ serving t g = true ∧ v.toNat < 2 ^ 24 ∧ t.stream g = some e ∧ (x.res t).holdsKey e.key = true

/-- The operand is refused with a code (R354): `OFF`, `PARM`, `NOSTR` or `AUTH`. -/
def RefusedBy (x : Ctx) (t : State) (v : Word) (code : Nat) : Prop :=
  let g := streamNamed x v
  homeOpen t g ∧ ((code = 0x0A ∧ serving t g = false) ∨
  (serving t g = true ∧ ((code = 0x05 ∧ 2 ^ 24 ≤ v.toNat) ∨ (v.toNat < 2 ^ 24 ∧ ((code = 0x01 ∧ t.stream g = none) ∨
    (code = 0x02 ∧ ∃ e, t.stream g = some e ∧ (x.res t).holdsKey e.key = false))))))

/-- `g[D]` of a refusal. -/
def refusal (code : Nat) : Word := BitVec.ofNat 64 (2 ^ 63 + code)

/-- The instruction completes with `v` in `g[D]` on the state `t`. -/
def Answers (i : Instr) (op : Nat) (w : Tolog) (s : State) (t : State) (v : Word) : Prop := Acts i op w s { s := t, writes := [.g w.d v] }

/-- `STSTAT.REFUSED` of a die counts one more (R344, R354). -/
def refusedOnce (t : State) (die : Nat) : State :=
  let d := t.die die
  let n := d.ststat.toNat / 2 ^ 48
  t.setDie die { d with ststat := BitVec.ofNat 64 (d.ststat.toNat % 2 ^ 48 + (if n + 1 < 65536 then n + 1 else 65535) * 2 ^ 48) }

end Sys2Proof.Claims
end

