-- ==== Sys2Proof/Claims/Control.lean ====
section
/-! DEFINITION. The control registers and what a write may put into them, for the statements about `CTLR` and `CTLW` (R67, R93, R120,
R187, R198, R208, R215, R260, R272, R298, R323, R344, R410, R431, R437 to R448, R467). -/

namespace Sys2Proof.Claims

open Sys2Proof.Machine

/-- The register an instruction names (R120). -/
def ctlIdx (w : Tolog) : Nat := w.imm.toNat % 2 ^ 12

/-- The registers that hold a value of their own: index and value, for the current firing. -/
def registers (x : Ctx) (t : State) : List (Nat × Word) :=
  let k := t.core x.c
  let d := t.die (x.c / 256)
  let r := x.res t
  let p := t.pkg
  [(0x010, x.f.fmode), (0x011, x.f.fstat), (0x012, x.f.fseed), (0x013, x.f.sbchk), (0x014, x.f.sigctl), (0x020, x.f.trapCause), (0x021, x.f.trapPc),
   (0x022, x.f.trapVal), (0x023, x.f.trapVec), (0x030, BitVec.ofNat 64 (t.clk - k.cycle0))] ++
  ((List.range 16).zip k.bfmt.toList).map (fun b => (0x100 + b.1, b.2)) ++
  [(0x120, r.achain.cfg), (0x121, r.cchain.cfg), (0x122, BitVec.ofNat 64 r.achain.tail), (0x123, BitVec.ofNat 64 r.cchain.tail), (0x140, k.monspo),
   (0x141, k.monspr), (0x142, k.monspt), (0x150, k.cecnt), (0x160, k.winctl), (0x168, k.server.cfg), (0x169, k.server.parent), (0x16A, k.server.root),
   (0x16B, k.server.stat)] ++
  [(0x200, d.tepwait), (0x201, d.tepage), (0x202, d.tewgt), (0x204, d.tepreq), (0x206, d.tesave), (0x207, d.tesavesz), (0x210, d.xlctx), (0x211, d.xlinva),
   (0x212, d.xlinvc), (0x220, d.sptbase), (0x221, BitVec.ofNat 64 (d.hbmFree.length * 2 ^ 32 + d.chipFree.length)), (0x222, d.spcfg), (0x223, d.ststat),
   (0x224, d.stbase), (0x225, d.snode), (0x234, d.tdbase), (0x240, d.fwin), (0x250, d.relstat), (0x251, d.slret), (0x252, d.slpend), (0x253, d.ldthr),
   (0x254, d.cquar[0]), (0x255, d.cquar[1]), (0x256, d.cquar[2]), (0x257, d.relthr), (0x258, d.cfstat), (0x259, d.relctr), (0x25A, d.rellast), (0x28C, d.pfthr)] ++
  ((List.range 32).zip d.crect.toList).map (fun b => (0x260 + b.1, b.2)) ++ ((List.range 12).zip d.vdom.toList).map (fun b => (0x280 + b.1, b.2)) ++
  [(0x230, p.pktcxl), (0x231, p.pktflash), (0x232, p.pkbase), (0x233, p.pkcfg), (0x236, p.hbmloc), (0x28E, p.plim), (0x2B0, p.fabid), (0x2B1, p.fabcfg),
   (0x2B2, p.fabstat)] ++
  ((List.range 64).zip p.fablnk.toList).map (fun b => (0x2C0 + b.1, b.2))

/-- Whether an index is assigned to a register. -/
def assigned (i : Nat) : Bool :=
  [0x010, 0x011, 0x012, 0x013, 0x014, 0x020, 0x021, 0x022, 0x023, 0x030, 0x120, 0x121, 0x122, 0x123, 0x140, 0x141, 0x142, 0x150, 0x160].contains i ||
  decide (0x100 ≤ i ∧ i < 0x110) || decide (0x168 ≤ i ∧ i < 0x16C) || decide (0x200 ≤ i ∧ i < 0x208 ∧ i ≠ 0x205) || decide (0x210 ≤ i ∧ i < 0x213) ||
  decide (0x220 ≤ i ∧ i < 0x226) || decide (0x230 ≤ i ∧ i < 0x237) || decide (i = 0x240) || decide (0x250 ≤ i ∧ i < 0x25B) ||
  decide (0x260 ≤ i ∧ i < 0x290) || decide (0x2B0 ≤ i ∧ i < 0x2B3) || decide (0x2C0 ≤ i ∧ i < 0x300) || decide (0x400 ≤ i ∧ i < 0x800)

/-- A value has no bit outside a mask. -/
def within (v mask : Word) : Prop := v &&& ~~~mask = 0

/-- A write of the value `v` is accepted where `ok` holds, and leaves `t`; else it is refused with `EX.CTL` and no effect (R120). -/
def Writes (i : Instr) (w : Tolog) (s : State) (ok : Prop) (t : State) : Prop :=
  (ok → Acts i 0x2B w s { s := t }) ∧ (¬ ok → Traps i 0x2B w 0x08 (fun _ => BitVec.ofNat 64 (ctlIdx w)) s)

end Sys2Proof.Claims
end

