-- ==== Sys2Proof/Claims/Helper.lean ====
section
/-! DEFINITION. The helpers' registers, values and places, for the statements about their instructions (R202 to R205). -/

namespace Sys2Proof.Claims

open Sys2Proof.Machine

/-- The helper whose turn it is. -/
def helper (s : State) : Helper := s.helper s.cur.core s.cur.hart

/-- Its instruction of `n` bytes can be fetched: inside the instruction store, and with no error. -/
def Fetches (s : State) (n : Nat) : Prop :=
  s.cur.hart < 2 ∧ (helper s).pc.toNat + n ≤ 16384 ∧ s.isBad (Loc.hcode s.cur.core s.cur.hart (helper s).pc.toNat) n = false

/-- A register; `x0` reads zero. -/
def xr (x : Helper) (r : BitVec 5) : BitVec 32 := if r = 0 then 0 else x.x[r.toNat]

/-- The helper with a result in `rd`, which `x0` discards, the pc moved and the instruction counted. -/
def retired (x : Helper) (rd : BitVec 5) (v pc : BitVec 32) : Helper :=
  { x with x := if rd = 0 then x.x else x.x.set rd.toNat v, pc := pc, minstret := x.minstret + 1 }

/-- The instruction ends with the helper `x` on the state `t`. -/
def HActs (i : Instr) (s t : State) (x : Helper) : Prop := exec i s = .next (t.setHelper s.cur.core s.cur.hart x)

/-- A custom instruction retires with `v` in `rd`, on the state `t`. -/
def HGives (i : Instr) (s t : State) (rd : BitVec 5) (v : BitVec 32) : Prop :=
  let x := t.helper s.cur.core s.cur.hart
  HActs i s t (retired x rd v (x.pc + 4))

/-- An exception of the helper, on the state `t` (R205): to `mtvec`, or where it is 0 a halt with its record. -/
def HTraps (i : Instr) (s t : State) (cause : Nat) (val : BitVec 32) : Prop :=
  let x := t.helper s.cur.core s.cur.hart
  (x.mtvec ≠ 0 → HActs i s t { x with mepc := x.pc, mcause := BitVec.ofNat 32 cause, mtval := val, pc := x.mtvec,
                                      mstatus := if x.mstatus.getLsbD 3 then 0x1880 else 0x1800 }) ∧
  (x.mtvec = 0 → exec i s = .next ((t.setHelper s.cur.core s.cur.hart { x with halted := true }).post s.cur.core
    { w0 := BitVec.ofNat 64 (4 * 2 ^ 56 + cause % 256 * 2 ^ 48 + s.cur.hart * 2 ^ 40), w1 := BitVec.ofNat 64 x.pc.toNat, w2 := BitVec.ofNat 64 val.toNat }))

/-- The RV32IM operations as numbers. -/
def alu (o : RvAlu) (a b : BitVec 32) : BitVec 32 :=
  let n : Int → BitVec 32 := BitVec.ofInt 32
  let sh := b.toNat % 32
  match o with
  | .add => n (a.toNat + b.toNat)
  | .sub => n (a.toNat - b.toNat)
  | .sll => n (a.toNat * 2 ^ sh : Nat)
  | .slt => if a.toInt < b.toInt then 1 else 0
  | .sltu => if a.toNat < b.toNat then 1 else 0
  | .xor => n (a.toNat ^^^ b.toNat : Nat)
  | .srl => n (a.toNat / 2 ^ sh : Nat)
  | .sra => n (a.toInt / 2 ^ sh)
  | .or => n (a.toNat ||| b.toNat : Nat)
  | .and => n (a.toNat &&& b.toNat : Nat)
  | .mul => n (a.toInt * b.toInt)
  | .mulh => n (a.toInt * b.toInt / 2 ^ 32)
  | .mulhsu => n (a.toInt * b.toNat / 2 ^ 32)
  | .mulhu => n (a.toNat * b.toNat / 2 ^ 32 : Nat)
  | .div => if b = 0 then n (-1) else n (a.toInt.tdiv b.toInt)
  | .divu => if b = 0 then n (-1) else n (a.toNat / b.toNat : Nat)
  | .rem => if b = 0 then a else n (a.toInt.tmod b.toInt)
  | .remu => if b = 0 then a else n (a.toNat % b.toNat : Nat)

/-- The branch conditions. -/
def taken (o : RvCmp) (a b : BitVec 32) : Bool :=
  match o with
  | .eq => decide (a.toNat = b.toNat)
  | .ne => decide (a.toNat ≠ b.toNat)
  | .lt => decide (a.toInt < b.toInt)
  | .ge => decide (b.toInt ≤ a.toInt)
  | .ltu => decide (a.toNat < b.toNat)
  | .geu => decide (b.toNat ≤ a.toNat)

/-- Whether [a, a + n) lies in the scratchpad of a resident task whose type enables helpers (R202). -/
def openScratch (s : State) (a n : Nat) : Prop :=
  0x10000000 ≤ a ∧ a + n ≤ 0x10100000 ∧ ∃ r ∈ (s.core s.cur.core).tasks, r.2.helpers = true ∧ r.2.spBase + 0x10000000 ≤ a ∧
    a + n ≤ r.2.spBase + r.2.spSize + 0x10000000

/-- Where [a, a + n) of the helper's map stands, code apart (R202). -/
def place (s : State) (a n p : Nat) : Prop :=
  (0x10000 ≤ a ∧ a + n ≤ 0x12000 ∧ p = Loc.hdata s.cur.core s.cur.hart (a - 0x10000)) ∨ (openScratch s a n ∧ p = Loc.sp s.cur.core (a - 0x10000000))

/-- The offset in the data store of an operand of `n` bytes, aligned to them. -/
def inData (a : BitVec 32) (n o : Nat) : Prop := a.toNat % n = 0 ∧ a.toNat = 0x10000 + o ∧ o + n ≤ 0x2000

/-- The resident task that `hsel.RTI` selects (R203). -/
def selected (s : State) : Option Resident := s.resident s.cur.core ((helper s).hsel.toNat / 2 ^ 16 % 8)

/-- The pending wake causes among those selected (R204). -/
def Pending (s : State) (sel : BitVec 4) (dl : BitVec 32) (p : BitVec 4) : Prop :=
  let x := helper s
  p.getLsbD 0 = (sel.getLsbD 0 && !(s.core s.cur.core).evq.isEmpty) ∧ p.getLsbD 1 = (sel.getLsbD 1 && x.wake1) ∧
  p.getLsbD 2 = (sel.getLsbD 2 && x.wake2) ∧
  p.getLsbD 3 = (sel.getLsbD 3 && decide (((x.mcycle.toNat + s.clk) % 2 ^ 32 + 2 ^ 32 - dl.toNat) % 2 ^ 32 < 2 ^ 31))

/-- Reporting causes clears [1] and [2] (R204). -/
def reported (x : Helper) (d : BitVec 5) (p : BitVec 4) : Helper :=
  retired { x with asleep := none, wake1 := x.wake1 && !p.getLsbD 1, wake2 := x.wake2 && !p.getLsbD 2 } d (BitVec.ofNat 32 p.toNat) (x.pc + 4)

/-- The CSRs that a write changes: number, value, and the helper with a new value (R203). -/
def csrs (x : Helper) : List (Nat × BitVec 32 × (BitVec 32 → Helper)) :=
  [(0x300, x.mstatus, fun v => { x with mstatus := (v &&& 0x88) ||| 0x1800 }), (0x305, x.mtvec, fun v => { x with mtvec := v &&& ~~~3 }),
   (0x341, x.mepc, fun v => { x with mepc := v &&& ~~~1 }), (0x342, x.mcause, fun v => { x with mcause := v }),
   (0x343, x.mtval, fun v => { x with mtval := v }), (0x340, x.mscratch, fun v => { x with mscratch := v }),
   (0x7C0, x.hsel, fun v => { x with hsel := v &&& 0x707FF })]

/-- The value that a CSR instruction writes. -/
def csrValue (o : RvCsrOp) (old v : BitVec 32) : BitVec 32 :=
  match o with
  | .rw => v
  | .rs => old ||| v
  | .rc => old &&& ~~~v

end Sys2Proof.Claims
end

