-- ==== Sys2Proof/Claims/Host.lean ====
section
/-! DEFINITION. Table walks, host queues and steps of the device, for the statements about them (R319 to R322, R417 to R429). -/

namespace Sys2Proof.Claims

open Sys2Proof.Machine

/-- Bits `hi` to `lo` of a word, as a number. -/
def part (x : Word) (hi lo : Nat) : Nat := x.toNat / 2 ^ lo % 2 ^ (hi + 1 - lo)

/-- A step acts where `ok` holds, and leaves the machine as it is elsewhere. -/
def Does (i : Instr) (s : State) (ok : Prop) (t : State) : Prop := (ok → exec i s = .next t) ∧ (¬ ok → exec i s = .next s)

/-- The index of a level and the size of its leaves (R320). -/
def levelEntry (l tbl va : Nat) : Nat := tbl + 8 * (if l = 4 then va / 2 ^ 16 % 32 else va / 2 ^ (48 - 9 * l) % 512)
def pageSize (l : Nat) : Nat := if l = 2 then 2 ^ 30 else if l = 3 then 2 ^ 21 else 2 ^ 16

/-- Whether a page lies in HBM or in the CXL memory that is there (R313). -/
def backed (s : State) (pa n : Nat) : Prop :=
  let c0 := min s.pkg.cxlSize (2 ^ 43)
  let c1 := min s.pkg.cxlSize1 (2 ^ 43)
  pa + n ≤ 1536 * 2 ^ 30 ∨ (2 ^ 44 ≤ pa ∧ pa + n ≤ 2 ^ 44 + c0) ∨ (2 ^ 44 + 2 ^ 43 ≤ pa ∧ pa + n ≤ 2 ^ 44 + 2 ^ 43 + c1) ∨
  (c0 = 2 ^ 43 ∧ 2 ^ 44 ≤ pa ∧ pa + n ≤ 2 ^ 44 + 2 ^ 43 + c1)

/-- The walk from level `l` in the table at `tbl` ends in a leaf: page address, size, `R` and `W` (R320, R321). -/
inductive Walked (s : State) (va : Nat) : Nat → Nat → Nat → Nat → Bool → Bool → Prop where
  | leaf (l tbl e : Nat) (good : s.isBad (levelEntry l tbl va) 8 = false) (read : e = number (memRead s.mem (levelEntry l tbl va) 8))
      (level : 2 ≤ l ∧ l ≤ 4) (valid : e % 4 = 3) (reserved : e / 2 ^ 52 = 0 ∧ e / 2 ^ 4 % 2 ^ 4 = 0)
      (aligned : e / 2 ^ 8 * 256 % pageSize l = 0) (there : backed s (e / 2 ^ 8 * 256) (pageSize l)) :
      Walked s va l tbl (e / 2 ^ 8 * 256) (pageSize l) (e / 4 % 2 == 1) (e / 8 % 2 == 1)
  | table (l tbl e pa sz : Nat) (r w : Bool) (good : s.isBad (levelEntry l tbl va) 8 = false)
      (read : e = number (memRead s.mem (levelEntry l tbl va) 8)) (level : l < 4) (valid : e % 2 ^ 8 = 1) (reserved : e / 2 ^ 52 = 0)
      (aligned : e / 2 ^ 8 * 256 % (if l = 3 then 256 else 4096) = 0)
      (there : e / 2 ^ 8 * 256 + (if l = 3 then 256 else 4096) ≤ 1536 * 2 ^ 30) (next : Walked s va (l + 1) (e / 2 ^ 8 * 256) pa sz r w) :
      Walked s va l tbl pa sz r w

/-- The place of the entry of level `target` for an address, below the table at a level (R320, R429). -/
inductive TablePath (s : State) (va target : Nat) : Nat → Nat → Nat → Prop where
  | here (tbl : Nat) : TablePath s va target target tbl (levelEntry target tbl va)
  | down (l tbl e a : Nat) (read : e = number (memRead s.mem (levelEntry l tbl va) 8)) (above : l < target) (valid : e % 4 = 1)
      (next : TablePath s va target (l + 1) (e / 2 ^ 8 % 2 ^ 44 * 256) a) : TablePath s va target l tbl a

/-- The queues that a function owns (R417). -/
def owned (fn : Nat) (x : Queue) : Prop := fn % 256 = 0 ∨ (x.bound = true ∧ x.fn = fn)

/-- A queue page after a write that is ignored (R418). -/
def ignored (s : State) (q : Nat) : State := s.setHostQueue q { s.hostQueue q with badw := true }

/-- A refusal is noted (R420). -/
def noted (t : State) (q code slot : Nat) : State := t.setHostQueue q { t.hostQueue q with code, slot }

/-- Entry `j` of those that queue `q` has started leaves it: it completes, `QDONE` counts it and is written back, and the vector is
raised (R418). -/
def completed (t : State) (q : Nat) : State :=
  let y := t.hostQueue q
  let n := BitVec.ofNat 64 (y.done.toNat + 1)
  let u := t.setHostQueue q { y with done := n, irqs := y.irqs + 1 }
  let a := y.qdwb.toNat / 8
  if a = 0 then u else { u with mem := memWrite u.mem (2 ^ 64 + a * 8) (leBytes 8 n.toNat) }

/-- Started entry `j` no longer counts as started. -/
def left (t : State) (q j : Nat) : State := t.setHostQueue q { t.hostQueue q with started := (t.hostQueue q).started.eraseIdx j }

/-- The entry of ring slot `slot` with words `ws` is the one to perform: it has started, and no earlier one keeps it (R419). -/
def Performs (s : State) (op slot : Nat) (ws : List Word) (j : Nat) : Prop :=
  let x := s.hostQueue s.cur.n
  s.cur.k = j + 1 ∧ x.started[j]? = some (slot, ws) ∧ part (ws.getD 0 0) 63 56 = op ∧ entryFree (x.started.take j) ws = true

/-- The entry is performed with the effect `t`, and completes. -/
def Performed (i : Instr) (s : State) (j : Nat) (t : State) : Prop := exec i s = .next (completed (left t s.cur.n j) s.cur.n)

/-- The entry is refused with a code, and completes with the state `t`. -/
def Rejected (i : Instr) (s : State) (j slot code : Nat) (t : State) : Prop :=
  exec i s = .next (completed (noted (left t s.cur.n j) s.cur.n code slot) s.cur.n)

/-- An entry that starts: its bits that may be set, by `OP` (R419). -/
def reservedBits (op : Nat) (ws : List Word) : Prop :=
  let w (i : Nat) : Nat := (ws.getD i 0).toNat
  let zero (is : List Nat) : Prop := ∀ i ∈ is, w i = 0
  ¬ (w 0 % 2 ^ 56 = 0 ∧
    (op = 1 → zero [2, 3, 4, 5, 6, 7]) ∧ (op = 2 → w 1 < 2 ^ 57 ∧ zero [3, 4, 5, 6, 7]) ∧
    (op = 3 → w 1 < 2 ^ 57 ∧ w 2 / 2 ^ 12 % 2 ^ 20 = 0 ∧ w 2 / 2 ^ 2 % 2 ^ 4 = 0 ∧ zero [3]) ∧ (op = 4 → zero [1, 2, 3, 4, 5, 6, 7]) ∧
    (op = 5 → w 1 < 2 ^ 52 ∧ w 2 < 2 ^ 57 ∧ zero [3, 4, 5, 6, 7]) ∧ (op = 6 ∨ op = 7 → w 1 < 2 ^ 57 ∧ w 3 < 2 ^ 32 ∧ zero [4, 5, 6, 7]))

/-- A counter of the host or of a graph at device address `addr` of a context is added to under a key, by the front end (R144, R195): the
sum saturates, and a record says so at the firmware column. `none` where the address fails. -/
def Added (s : State) (ctx key addr : Nat) (v : Word) (t : Option State) : Prop :=
  (∀ pa, (mget s.pkg.keys key).isSome = true → addr % 8 = 0 → s.xlateDie 0 ctx addr true = .ok pa →
    let sum := number (s.homeRead key pa 8) + v.toNat
    let u := s.homeWrite key pa (leBytes 8 (if 2 ^ 64 ≤ sum then 2 ^ 64 - 1 else sum))
    t = some (if 2 ^ 64 ≤ sum then u.post (u.pkg.boot.colX)
      { w0 := BitVec.ofNat 64 (3 * 2 ^ 56), w1 := BitVec.ofNat 64 addr, w2 := v } else u)) ∧
  ((mget s.pkg.keys key).isSome = false ∨ addr % 8 ≠ 0 ∨ (∃ e, s.xlateDie 0 ctx addr true = .error e) → t = none)

/-- The patch table at a device address of a queue, where it can be read and holds at most `np` entries (R423). -/
def Patches (s : State) (x : Queue) (np addr : Nat) (ps : List Patch) : Prop :=
  (addr = 0 ∧ ps = []) ∨
  (addr ≠ 0 ∧ (mget s.pkg.keys x.key).isSome = true ∧ ∃ h bs, s.devRead 0 x.ctx x.key addr 8 = .ok h ∧ wordIn h 0 ≤ np ∧ ps.length = wordIn h 0 ∧
    s.devRead 0 x.ctx x.key (addr + 8) (16 * wordIn h 0) = .ok bs ∧ ∀ i, i < ps.length → ∃ p, ps[i]? = some p ∧
      p.task = wordIn bs (2 * i) / 2 ^ 52 ∧ p.kind = wordIn bs (2 * i) / 2 ^ 48 % 16 ∧ p.target = wordIn bs (2 * i) / 2 ^ 32 % 2 ^ 16 ∧
      p.val = BitVec.ofNat 64 (wordIn bs (2 * i + 1)))

/-- The patch table cannot be read. -/
def PatchesFail (s : State) (x : Queue) (np addr : Nat) : Prop :=
  addr ≠ 0 ∧ ((mget s.pkg.keys x.key).isSome = false ∨ (∃ e, s.devRead 0 x.ctx x.key addr 8 = .error e) ∨
    ∃ h e, s.devRead 0 x.ctx x.key addr 8 = .ok h ∧ wordIn h 0 ≤ np ∧ s.devRead 0 x.ctx x.key (addr + 8) (16 * wordIn h 0) = .error e)

/-- A patch that refuses the kick (R423). -/
def badPatch (nt : Nat) (p : Patch) : Prop := 6 ≤ p.kind ∨ nt ≤ p.task ∨ (p.kind ≤ 1 ∧ 256 ≤ p.target) ∨ (p.kind = 5 ∧ 80 ≤ p.target)

/-- What a patch makes of word `i` of the descriptor of its task, within its field (R423). -/
def patchWord (i : Nat) (w : Word) (p : Patch) : Word :=
  if (p.kind = 2 ∧ i = 5) ∨ (p.kind = 5 ∧ p.target = i) then p.val
  else if p.kind = 3 ∧ i = 1 then BitVec.ofNat 64 (w.toNat / 2 ^ 48 * 2 ^ 48 + p.val.toNat)
  else if p.kind = 4 ∧ i = 0 then BitVec.ofNat 64 (w.toNat / 2 ^ 24 * 2 ^ 24 + p.val.toNat)
  else w

/-- The replay that a kick of graph `o` with patches `ps` starts: a later patch of the same field wins (R423 to R425). -/
def Replays (q : Nat) (x : Queue) (o : GraphObj) (ps : List Patch) (r : Replay) : Prop :=
  r.queue = q ∧ r.key = x.key ∧ r.ctx = x.ctx ∧ r.graph = o.graph ∧ r.expanded = false ∧ r.spawned = [] ∧ r.published = [] ∧ r.status = 0 ∧
  r.descs.length = o.graph.tasks.length ∧
  (∀ t k j v, (t, k, j, v) ∈ r.handlePatches ↔ j ≤ 1 ∧ ∃ a b, ps = a ++ { task := t, kind := j, target := k, val := v } :: b ∧
    ∀ p ∈ b, ¬ (p.task = t ∧ p.kind = j ∧ p.target = k)) ∧
  ((∀ p ∈ ps, (p.kind = 3 → p.val.toNat < 2 ^ 48) ∧ (p.kind = 4 → p.val.toNat < 2 ^ 24)) →
    ∀ t i g, o.graph.tasks[t]? = some g → i < g.desc.length →
      (r.descs.getD t []).getD i 0 = (ps.filter fun p => p.task == t).foldl (patchWord i) (g.desc.getD i 0))

/-- Graph `i` of a container as it is kept: `HTAB`, `KEY` and `NH` of a task that a handle-table image is for are filled (R45), all else stands
as in the object. -/
def Filled (key : Nat) (hs : List HandleImage) (i : Nat) (o o' : Graph) : Prop :=
  o' = { o with tasks := o'.tasks } ∧ o'.tasks.length = o.tasks.length ∧ ∀ (t : Nat) x, o.tasks[t]? = some x → ∃ y : GraphTask, o'.tasks[t]? = some y ∧
    y = { x with desc := y.desc } ∧ ((∀ h ∈ hs, ¬ (h.graph = i ∧ h.task = t)) → y = x) ∧ (∀ j, j ≠ 2 → j ≠ 3 → y.desc.getD j 0 = x.desc.getD j 0) ∧
    ∀ h a b, hs = a ++ h :: b → (∀ h' ∈ a, ¬ (h'.graph = i ∧ h'.task = t)) → h.graph = i ∧ h.task = t → 4 ≤ x.desc.length →
      y.desc.getD 2 0 = BitVec.ofNat 64 h.addr ∧ y.desc.getD 3 0 = BitVec.ofNat 64 (key % 1024 * 2 ^ 54 + tableSize h)

/-- The die of a task of a graph (R425): the one named, or that with the fewest tasks in flight, the lower on a tie. -/
def DieOf (s : State) (dsel d : Nat) : Prop :=
  if dsel / 8 % 2 = 1 then d = dsel % 8
  else d < 8 ∧ (∀ j, j < d → (s.die d).tasks.length < (s.die j).tasks.length) ∧ ∀ j, d < j → j < 8 → (s.die d).tasks.length ≤ (s.die j).tasks.length

/-- The tasks of a replay from index `i` on are spawned in order, each with the number of its predecessors to wait for; the first that
is refused ends the expansion, and its index and refusal word are kept (R425). -/
def Spawned (g : Nat) (s : State) (r : Replay) (i : Nat) (ts : List GraphTask) (t : State) (r' : Replay) : Prop :=
  match ts with
  | [] => t = s ∧ r' = r
  | x :: rest => ∃ d w u, DieOf s x.dsel d ∧
      s.spawn { die := d, ctx := r.ctx, keyOk := fun k => k == r.key, preds := if x.preds = [] then none else some x.preds.length,
                patch := patchHandles r.handlePatches i, graph := some (g, i), queue := some r.queue }
        (BitVec.ofNat 64 x.dsel) (r.descs.getD i []) = (w, u) ∧
      (2 ^ 63 ≤ w.toNat → t = u ∧ r' = { r with status := 1, refused := i, word := w }) ∧
      (w.toNat < 2 ^ 63 → Spawned g u { r with spawned := mset r.spawned i w.toNat } (i + 1) rest t r')

end Sys2Proof.Claims
end

