-- ==== Sys2Proof/Claims/Checks.lean ====
section
/-! DEFINITION. The order of an access's checks, the modes that admit it, and when a handle entry is valid, for the statements about accesses (R133, R134, R183 to
R186). -/

namespace Sys2Proof.Claims

open Sys2Proof.Machine

/-- The region modes that admit a kind of access (R134). -/
def admittingModes (k : Kind) : List Mode :=
  match k with
  | .load => [.r, .rw]
  | .store => [.w, .rw]
  | .rmw => [.rw]
  | .accum => [.rw, .acc]
  | .cadd => [.w, .rw, .acc]
  | .watch => [.r, .rw, .acc]
  | .any => [.r, .w, .rw, .acc]

/-- Every byte of an access lies in a region record of the task whose mode admits it; the spaces of the task's own allotment need none (R133, R134, R286). -/
def Declared (t : Task) (k : Kind) (space g a n : Nat) : Prop :=
  space < 3 ∨ ∀ i, i < n → (space = 5 → t.sid = g ∨ g ∈ t.batch) ∧
    ∃ q ∈ t.regions, q.space = space ∧ (∃ m ∈ admittingModes k, q.now = some m) ∧ q.base + q.ofs ≤ a + i ∧ a + i < q.base + q.ofs + q.ext

/-- The entry permits the access: its space is one the instruction accepts, it is readable and writable as the access asks (R134), its key is loaded (R392), and a stream's
key is the entry's. -/
def Permitted (s : State) (h : Handle) (k : Kind) (spaces : List Nat) (g : Nat) : Prop :=
  part h.w0 62 60 ∈ spaces ∧ (k ∈ [.load, .rmw, .accum, .watch] → h.w2.getLsbD 51 = true) ∧ (k ∈ [.store, .rmw, .accum, .cadd] → h.w2.getLsbD 50 = true) ∧
  (mget s.pkg.keys (part h.w2 61 52)).isSome = true ∧ (part h.w0 62 60 = 5 → ∀ e, s.stream g = some e → e.key = part h.w2 61 52)

/-- The checks of R133 in their order, each with its cause, for a task of at most 16 region records; then the access goes to its home. -/
def ChecksInOrder : Prop := ∀ (s : State) (c : Nat) (r : Resident) (sid hi off n align : Nat) (k : Kind) (spaces : List Nat) (home : Bool) (ch : Nat),
  let t := (s.task r.task).getD {}
  t.regions.length ≤ 16 →
  let out := s.check c r sid hi off n align k spaces home ch
  ((∀ h, mget r.handles hi = some h → h.w0.getLsbD 63 = true → hi ∈ r.invalid) → out = .error (.trap 0x11)) ∧
  (∀ h, mget r.handles hi = some h → h.w0.getLsbD 63 = true → hi ∉ r.invalid →
    let sp := part h.w0 62 60
    let a := part h.w0 56 0 + off
    let g := if part h.w3 23 0 = 0 then sid else part h.w3 23 0
    let pol := if ch = 0 then part h.w2 63 62 else ch
    let perm := Permitted s h k spaces g
    let inside := off + n ≤ part h.w1 56 0
    let aligned := off % align = 0
    (¬ perm → out = .error (.trap 0x12)) ∧ (perm → ¬ inside → out = .error (.trap 0x10)) ∧
    (perm → inside → ¬ aligned → out = .error (.trap 0x15)) ∧
    (perm → inside → aligned → ¬ Declared t k sp g a n → out = .error (.trap 0x13)) ∧
    (perm → inside → aligned → Declared t k sp g a n →
      let x : Acc := { core := c, space := sp, ctx := t.ctx, key := s.pinned (part h.w2 61 52), addr := a, n := n, segs := [],
                       cached := !home && pol == 0 && (sp == 3 || sp == 4) }
      (sp = 0 → out = s.atHome c r.task x k) ∧
      (sp = 1 → out = s.atHome c r.task { x with addr := r.spBase + a, segs := [(some (Loc.sp c (r.spBase + a)), n)] } k) ∧
      (sp = 2 → let segs := (pieces (n / 65536 + 2) a n 65536).map fun p => (s.windowByte c r p.1, p.2)
        out = if s.wallsWindow c k segs then .error (.trap 0x12) else s.atHome c r.task { x with segs := segs } k) ∧
      (sp = 3 → out = s.atHome c r.task { x with segs := [(some (Loc.chip (c / 256) a), n)] } k) ∧
      (sp = 4 →
        let walked := s.devSegs c t.ctx (decide (k ∈ [Kind.load, .rmw, .accum, .watch])) (decide (k ∈ [Kind.store, .rmw, .accum, .cadd])) (h.w2.getLsbD 49)
          (pieces (n / 65536 + 2) a n 65536)
        (walked = .error .xlate → out = .error (.trap 0x14)) ∧ (walked = .error .poison → out = .error (.trap 0x16)) ∧
        (∀ u xs, walked = .ok (u, xs) → out = u.atHome c r.task { x with segs := xs } k)) ∧
      (5 ≤ sp → out = s.atHome c r.task { x with sid := g } k))) ∧
  (∀ x : Acc, x.space ≠ 5 → k = .any ∨ s.fencedHome x k = none → s.atHome c r.task x k = .ok (s.mark c r.task x k, x)) ∧
  (∀ x : Acc, x.space = 5 → k ≠ .any → (s.die (homeDie x.sid)).spcfg.getLsbD 0 = false → s.atHome c r.task x k = .error (.trap 0x14))

/-- A handle entry is valid on a core only if its fields keep R183 and its range keeps R185. -/
def EntriesValid : Prop := ∀ (s : State) (c : Nat) (r : Resident) (h : Handle),
  let sp := part h.w0 62 60
  let base := part h.w0 56 0
  let len := part h.w1 56 0
  let plain := part h.w2 63 62 = 0 ∧ part h.w2 61 52 = 0
  s.handleOk c r h = true ↔
    h.w0.getLsbD 63 = true ∧ sp ≤ 5 ∧ part h.w0 59 57 = 0 ∧ part h.w1 63 57 = 0 ∧ part h.w2 63 62 ≠ 3 ∧ h.w2.getLsbD 48 = false ∧ part h.w2 39 0 = 0 ∧
    part h.w3 63 24 = 0 ∧ part h.w2 41 40 ≠ 3 ∧ part h.w2 47 44 < 14 ∧
    (sp ≠ 4 → h.w2.getLsbD 49 = false ∧ part h.w2 47 44 = 0 ∧ part h.w2 43 42 = 0) ∧ (sp ≠ 5 → part h.w3 23 0 = 0) ∧
    (sp = 0 → base + len ≤ r.slSize ∧ plain) ∧ (sp = 1 → base + len ≤ r.spSize ∧ plain) ∧
    (sp = 2 → base < 2 ^ 22 ∧ (∀ i, i < len → base + i < 2 ^ 22 ∧ (s.windowByte c r (base + i)).isSome = true) ∧ plain) ∧
    (sp = 3 → base + len ≤ 48 * (s.die (c / 256)).ways * 262144 ∧ part h.w2 61 52 = 0 ∧ s.withheld (c / 256) base len = false) ∧
    (sp = 4 → base + len ≤ 2 ^ 57) ∧ (sp = 5 → base + len ≤ 2 ^ 40)

end Sys2Proof.Claims
end

