-- ==== Sys2Proof/Claims/Fabric.lean ====
section
/-! DEFINITION. Packets that arrive and their answers, for the statements about the fabric (R450 to R468). -/

namespace Sys2Proof.Claims

open Sys2Proof.Machine

/-- This package's id (R450). -/
def ownId (s : State) : Nat := part s.pkg.fabid 31 16

/-- A field of a word counts one more, and stays at its largest value (R467). -/
def counts (v : Word) (hi lo : Nat) : Word :=
  let f := part v hi lo
  BitVec.ofNat 64 (v.toNat - f * 2 ^ lo + (if f + 1 < 65536 then f + 1 else 65535) * 2 ^ lo)

/-- A field of `FABSTAT` counts one more. -/
def tallied (t : State) (hi lo : Nat) : State := { t with pkg := { t.pkg with fabstat := counts t.pkg.fabstat hi lo } }

/-- No packet of the class waits here for room ahead of position `n` (R455). -/
def clear (s : State) (cls n : Nat) : Prop := ∀ f ∈ s.pkg.fabOut.take n, ¬ (f.p.cls = cls ∧ f.p.dpkg = ownId s)

/-- A packet's fields fit its header (R452). -/
def fitsHeader (p : Packet) : Prop := p.cls < 16 ∧ p.op < 16 ∧ p.dpkg < 65536 ∧ p.spkg < 65536 ∧ p.part < 65536 ∧ p.key < 1024

/-- A coordinate of a package id (R450): x, y and z have 3 bits each, w has 4; and how many packages a dimension of the torus has. -/
def place4 (id i : Nat) : Nat := id / 8 ^ i % (if i = 3 then 16 else 8)
def size4 (s : State) (i : Nat) : Nat := part s.pkg.fabid (if i = 3 then 15 else 5 + 3 * i) (3 + 3 * i) + 1

/-- Port `k` is up (R467). -/
def isUp (s : State) (k : Nat) : Prop := ∃ h : k < 64, part s.pkg.fablnk[k] 1 0 = 2

/-- A packet that comes by a port is on its way between two other packages of the torus (R451). -/
def passes (s : State) (p : Packet) : Prop :=
  s.pkg.fabcfg.getLsbD 63 = true ∧ fitsHeader p ∧ s.cur.n = 0 ∧ p.dpkg ≠ ownId s ∧ p.spkg ≠ ownId s ∧
  p.dpkg < 2 ^ 13 ∧ (∀ i, i < 4 → place4 p.dpkg i < size4 s i) ∧ ∃ k, isUp s k

/-- Packet `p` of class `cls` arrives and may act, on the state `t`: from a port, or as one of those on their way that loops back or has
waited here; the fabric is in service, the packet is for this package and of its partition (R451, R452, R455). -/
def Arrives (s : State) (p : Packet) (cls : Nat) (t : State) : Prop :=
  s.pkg.fabcfg.getLsbD 63 = true ∧ fitsHeader p ∧ p.cls = cls ∧ p.dpkg = ownId s ∧ p.part = part s.pkg.fabcfg 47 32 ∧
  ((s.cur.n = 0 ∧ (∃ k, isUp s k) ∧ clear s cls s.pkg.fabOut.length ∧ t = s) ∨
   (∃ j f, s.cur.n = j + 1 ∧ s.pkg.fabOut[j]? = some f ∧ f.p = p ∧ clear s cls j ∧
     t = { s with pkg := { s.pkg with fabOut := s.pkg.fabOut.eraseIdx j } }))

/-- A packet that finds no room waits here. -/
def waiting (s : State) (p : Packet) : State :=
  if s.cur.n = 0 then { s with pkg := { s.pkg with fabOut := s.pkg.fabOut ++ [{ clk := s.clk, p }] } } else s

/-- The answer to a packet: 1 acknowledge, 2 bounce, 3 result, 4 `MOVED` (R453). -/
def answer (t : State) (p : Packet) (op : Nat) : Packet :=
  { p with cls := 7, op, dpkg := p.spkg, spkg := ownId t, part := part t.pkg.fabcfg 47 32, chan := p.cls, task := p.op, flowOf := p.flow }

def acknowledged (t : State) (p : Packet) : State := t.fabSend (answer t p 1)

/-- A packet that is bounced: it is counted, and its answer returns (R455). -/
def bouncedBack (t : State) (p : Packet) : State := (tallied t 63 48).fabSend (answer t p 2)

/-- A fenced home answers negatively: the die counts it, and the peer sees an error (R443). -/
def refusedBy (t : State) (p : Packet) (die : Nat) : State :=
  let d := t.die die
  bouncedBack (t.setDie die { d with cfstat := counts d.cfstat 47 32 }) p

/-- Inbound packets under a key are accepted (R467), and it is loaded. -/
def admitted (t : State) (key : Nat) : Prop := (mgetD t.pkg.fabin key 0).getLsbD 63 = true ∧ (mget t.pkg.keys key).isSome = true

/-- An answer finds the packet it answers: `o`, with `u` the state without it (R453). -/
def Settles (t : State) (q o : Packet) (u : State) : Prop :=
  (q.spkg = ownId t ∧ o = { q with cls := q.chan, op := q.task, dpkg := q.spkg } ∧ u = t) ∨
  (q.spkg ≠ ownId t ∧ ∃ f, t.pkg.fabOut.find? (Flight.answeredBy (ownId t) q) = some f ∧ o = f.p ∧
    u = { t with pkg := { t.pkg with fabOut := t.pkg.fabOut.erase f } })

/-- The issuer of a bounced packet is ended from outside (R455). -/
def ended (t : State) (task : Nat) : State := if (t.task task).isSome then t.endOutside task else t

/-- A `MIG` packet of stream `g` from this package (R461). -/
def mig (t : State) (op pkg die g key task : Nat) : Packet :=
  { cls := 5, op, dpkg := pkg, spkg := ownId t, part := part t.pkg.fabcfg 47 32, key, die, sid := g, srcTask := task }

/-- A stream on its way to the package that a packet comes from (R462). -/
def Leaving (t : State) (p : Packet) (m : OutMig) : Prop := mget (t.die (homeDie p.sid)).outMigs p.sid = some m ∧ m.pkg = p.spkg

/-- The migration of a stream as it stands, or its end. -/
def leaves (t : State) (g : Nat) (m : Option OutMig) : State :=
  let d := t.die (homeDie g)
  t.setDie (homeDie g) { d with outMigs := match m with
    | some m => mset d.outMigs g m
    | none => mdel d.outMigs g }

/-- The stream on its way in from a package under an old id (R462). -/
def Entering (t : State) (p : Packet) (g : Nat) (m : InMig) : Prop :=
  (t.die p.die).inMigs.find? (fun m => m.2.pkg == p.spkg && m.2.old == p.sid) = some (g, m)

/-- The blocks of a stream, in ascending order. -/
def blocksOf (t : State) (g : Nat) (bs : List Nat) : Prop :=
  bs.Pairwise (· ≤ ·) ∧ bs.Perm (((t.die (homeDie g)).ipt.filter fun m => m.holder == g).map (·.block))

/-- The completion add of a migration (R463); to a fenced home it is counted and lost (R443). -/
def migAdded (t : State) (m : OutMig) : State :=
  match t.placesNack m.caddr [(some m.cplace, 8)] with
  | some die => let d := t.die die
    t.setDie die { d with cfstat := counts d.cfstat 47 32 }
  | none =>
  let sum := number (t.homeRead m.ckey m.cplace 8) + m.cval.toNat
  let u := t.homeWrite m.ckey m.cplace (leBytes 8 (if sum < 2 ^ 64 then sum else 2 ^ 64 - 1))
  if sum < 2 ^ 64 then u
  else u.post m.core { w0 := BitVec.ofNat 64 (3 * 2 ^ 56 + m.task % 2 ^ 32), w1 := BitVec.ofNat 64 m.caddr, w2 := m.cval }

/-- A stream that was on its way out stays: its record's timers go on from where they stopped (R462), and a reset of its queue that passed it
over prunes it (R421). -/
def stayed (t : State) (g : Nat) (m : OutMig) (e : Stream) : State :=
  let a := leaves (t.setStream g { e with state := m.prev, readyAt := t.clk }) g none
  let b := match (if m.prev = .parked then a.parkOf g else none) with
    | some (i, q) => a.putPark i { q with anchor := (q.anchor + t.clk / 2250 - m.start / 2250) % 2 ^ 48 }
    | none => a
  match e.queue with
  | some q => if (mgetD b.pkg.queues q {}).rst = true then b.prune 9 g else b
  | none => b

end Sys2Proof.Claims
end

