-- ==== Sys2Proof/Claims/Units.lean ====
section
/-! DEFINITION. Merge records and engine entries, for the statements about the steps of routers and engines (R216 to R243, R274, R275). -/

namespace Sys2Proof.Claims

open Sys2Proof.Machine

/-- What one constituent of a merge record makes of a value (R275). -/
def mergeStep (m : Merge) (old v : Nat) : Nat :=
  if m.op = 6 then (if old + v < 2 ^ 64 then old + v else 2 ^ 64 - 1) else (atomic 0x45 m.op (!m.signed) (8 * m.n) v 0 old).1.getD 0

/-- The constituents with the value each finds, in the order they entered. -/
def splits (m : Merge) (old : Nat) (ps : List Part) : List (Part × Nat) :=
  match ps with
  | [] => []
  | p :: t => (p, old) :: splits m (mergeStep m old p.val.toNat) t

/-- A constituent is answered where its firing still waits for it. -/
def answered (t : State) (p : Part) (r : Reply) : State :=
  match t.firing p.core p.slot with
  | some f => if p.tag ∈ f.asked then t.setFiring p.core p.slot { f with replies := mset f.replies p.tag r } else t
  | none => t

/-! ### Gangs -/

/-- A gang of size `n` has been granted to the firing `f` of the current slot, on the state `t` (R251): while a result of a follower's is still to come, or an access of
its instruction is under way, the firing waits for it; then the followers' results are delivered and the clock it forms in is fixed, 4 clk after the last of them. -/
def Gathers (s : State) (f : Firing) (n : Nat) (t : State) : Prop :=
  let c := s.cur.core
  let group := (gangCores c n).drop 1
  let flying (r : Result) : Prop := ∃ o ∈ group, ∃ j g, s.firing o j = some g ∧ r ∈ g.flight
  let midway := ∃ o ∈ group, ∃ j g, s.firing o j = some g ∧ (g.asked ≠ [] ∨ g.issued ≠ [])
  let awaits := midway ∨ ∃ r, flying r ∧ r.await = true
  let inFlight (at_ : Nat) : Prop := ∃ r, flying r ∧ r.due = some at_
  (awaits → exec .gangFormed s = .next (t.setFiring c s.cur.slot { f with wait := .ganging n })) ∧
  (¬ awaits → ∃ late, s.clk ≤ late ∧ (∀ at_, inFlight at_ → at_ ≤ late) ∧ (late = s.clk ∨ inFlight late) ∧
    let u := group.foldl (fun u o => u.setCore o { u.core o with slots := (u.core o).slots.map fun g => g.map fun h => h.drain s.clk }) t
    exec .gangFormed s = .next (u.setFiring c s.cur.slot { f with wait := .gang n (some (late + 4)) }))

/-! ### Entries of chains (R214 to R243) -/

/-- Word `i` of entry `n` of a chain. -/
def entryWord (s : State) (c : Nat) (ch : Chain) (n i : Nat) : Word :=
  BitVec.ofNat 64 (wordIn (memRead s.mem (Loc.sp c (slotOf ch n)) 64) i)

/-- The state in which an entry executes: a copy entry has taken its task's turn (R214). -/
def turn (s : State) (arr : Bool) : State := if arr then s else s.setCore s.cur.core { s.core s.cur.core with copyLast := s.cur.n }

/-- The current entry, number `s.cur.k` of the chain of resident `s.cur.n`, starts now: its resident, tag and words. -/
def Begins (s : State) (arr : Bool) (op : Nat) (r : Resident) (t : EntryTag) (w : Nat → Word) : Prop :=
  (s.cur.n, arr, s.cur.k) ∈ s.startable s.cur.core ∧ s.resident s.cur.core s.cur.n = some r ∧
  (chainOf r arr).tags.find? (fun y => y.seq == s.cur.k) = some t ∧ t.skipped = false ∧ (∀ i, w i = entryWord s s.cur.core (chainOf r arr) s.cur.k i) ∧
  part (w 0) 63 56 = op

/-- The causes for which a counter word with a `VAL` fails (R221). -/
def counterBad (r : Resident) (w : Word) : Prop :=
  part w 47 45 = 0 ∨ 6 ≤ part w 47 45 ∨ r.handle (part w 63 56) = none ∨
  ∃ h, r.handle (part w 63 56) = some h ∧ (h.space ∉ [1, 2, 3, 4] ∨ h.len < part w 44 0 + 8 ∨ part w 44 0 % 8 ≠ 0)

/-- The counter word of an entry is in order (R217, R221), and its counter can be reached and read. -/
def counterFine (s : State) (r : Resident) (w : Word) : Prop :=
  part w 55 48 = 0 ∨ ∃ u a, s.counterSeat s.cur.core r w = .ok (u, a) ∧ u.fencedHome a .cadd = none ∧ u.segsBad a.segs = false

/-- The counter word of an entry fails (R221). -/
def counterFails (r : Resident) (w : Word) : Prop := part w 55 48 ≠ 0 ∧ counterBad r w

/-- An entry has the form that R217 gives its operation. -/
def WellMade (op : Nat) (t : EntryTag) (w : Nat → Word) : Prop :=
  t.bad = false ∧ w 7 = 0 ∧ part (w 0) 39 32 = 0 ∧ (op = 0 → w 1 = 0 ∧ w 2 = 0 ∧ w 3 = 0) ∧ (op ≠ 0x11 → w 6 = 0 ∧ ((w 0).getLsbD 53 = false → w 5 = 0)) ∧
  ((w 0).getLsbD 48 = true → op = 3 ∨ op = 4 ∨ op = 6)

/-- The current entry starts, its operation still to be done, and nothing is wrong with its counter word, its slot and its form. -/
def Executes (s : State) (arr : Bool) (op : Nat) (r : Resident) (t : EntryTag) (w : Nat → Word) : Prop :=
  Begins s arr op r t w ∧ counterFine (turn s arr) r (w 4) ∧ s.isBad (Loc.sp s.cur.core (slotOf (chainOf r arr) s.cur.k)) 64 = false ∧ t.worked = false ∧ WellMade op t w

/-- What the execution of an entry leaves in its tag. -/
structure Left where
  status : Nat := 0
  val : Word := 0
  done : Nat := 0
  flags : BitVec 7 := 0
  sus : Bool := false
  time : Nat := 0

/-- The step takes the entry through its execution: `u` with the tag `t` of `r` started, and completing `time` clocks on. -/
def Runs (i : Instr) (s : State) (arr : Bool) (r : Resident) (t : EntryTag) (u : State) (o : Left) : Prop :=
  let ch := chainOf r arr
  let w0 := entryWord s s.cur.core ch s.cur.k 0
  let t' : EntryTag := { t with started := true, held := false, done := o.done, flags := t.flags ||| o.flags, suspect := t.suspect || o.sus, status := o.status,
                                faultVal := o.val, mxtrap := w0.getLsbD 46, clock := u.clk + o.time }
  let ch' : Chain := { ch with tags := ch.tags.map fun y => if y.seq == t.seq then t' else y }
  exec i s = .next (u.setResident s.cur.core s.cur.n (if arr then { r with achain := ch' } else { r with cchain := ch' }))

/-- Width of an element of a format code of R187; 0 for raw. -/
def codeWidth (c : Nat) : Nat := [0, 32, 16, 16, 8, 8, 6, 6, 4, 8, 8, 4, 4, 2].getD c 0

/-- The block size of a format word; 0 where it is not MX (R187). -/
def blockSize (f : Word) : Nat := if part f 9 8 = 0 then 0 else 4 * 2 ^ part f 9 8

/-- The scratchpad address of the scale of the block that data address `a` begins (R228). -/
def scaleAt (f : Word) (a : Nat) : Nat :=
  a / 65536 * 65536 + part f 43 32 * 16 + a % 65536 / (blockSize f * codeWidth (part f 7 4) / 8)

/-- Stored rows of a dense tile (R227). -/
def tileRows (c : Nat) : Nat := [0, 0, 64, 64, 128, 128, 256, 256, 256, 128, 128, 256, 256, 256].getD c 0

/-- Whether slab `j` is live under a map, and the rows that a stored tile holds (R229). -/
def live (m : Word) (j : Nat) : Bool := m.getLsbD 33 || m.getLsbD j
def heldRows (c : Nat) (m : Word) : List Nat := (List.range (tileRows c)).filter fun j => live m (j / if m.getLsbD 32 then 8 else 16)

/-- The slabs of a tile (R229). -/
def slabCount (c : Nat) (m : Word) : Nat := (if m.getLsbD 32 then 2 else 1) * tileRows c / 16

/-- A scratchpad range lies in the task's allotment. -/
def within_ (r : Resident) (a n : Nat) : Prop := r.spBase ≤ a ∧ a + n ≤ r.spBase + r.spSize

/-- The number that scratchpad bytes hold. -/
def padNumber (s : State) (a n : Nat) : Nat := number (memRead s.mem (Loc.sp s.cur.core a) n)

/-- The pairs of weights and activations of R227. -/
def pairs (w a : Nat) : Prop :=
  (w = a ∧ (w = 2 ∨ w = 3)) ∨ ((w = 4 ∨ w = 5) ∧ (a = 4 ∨ a = 5)) ∨ ((w = 9 ∨ w = 10) ∧ (a = 9 ∨ a = 10)) ∨
  ((w = 6 ∨ w = 7 ∨ w = 8) ∧ (a = 6 ∨ a = 7 ∨ a = 8)) ∨ ((w = 11 ∨ w = 12) ∧ (a = 11 ∨ a = 12)) ∨ (w = 13 ∧ a = 9)

/-- The value of an element code, with the scale byte of its block where there is one (R52, R190), and the flags of decoding it. -/
def element (f : Word) (flush : Bool) (code scale : Nat) : Ex × BitVec 7 :=
  let x := efDecode (part f 7 4) flush code
  if blockSize f = 0 then x
  else
    let y := x.1.mul (decodeScale (part f 11 10) scale)
    (y.1, x.2 ||| y.2)

/-- The value alone. -/
def elementValue (f : Word) (flush : Bool) (code scale : Nat) : Ex := (element f flush code scale).1

/-- The largest exponent of a format code (R172); that of both integer formats of 8 bits is 7 (R234). -/
def topExponent (c : Nat) : Int := if c = 9 ∨ c = 10 then 7 else emax (c - 1)

/-- The bound of R172 is passed in a block of size `bs` of formats `ca` and `cw`: the terms `ts`, already scaled by `sa` and `sw`, sum to a finite number that is
not 0, and so are both scales (R234). -/
def passesBound (bs ca cw : Nat) (ts : List Ex) (sa sw : Ex) : Prop :=
  ∃ q x y, (exSum 0 ts).1.log2 = some q ∧ sa.log2 = some x ∧ sw.log2 = some y ∧ (Nat.log2 bs : Int) + topExponent ca + topExponent cw + 2 + x + y < q

/-- The rounding of an entry: its `RM`, or the captured one (R217). -/
def entryMode (w0 : Word) : Nat := if part w0 52 50 = 6 then part w0 42 40 else part w0 52 50

/-- The draw of element `e` of an entry (R62). -/
def entryDraw (w0 : Word) (e : Nat) : Nat := if entryMode w0 = 5 then xorshift (laneSeed (part w0 31 0) e) else 0

/-- The scale code of an MX block of values (R235). -/
def blockScale (c : Nat) (xs : List Ex) : Nat :=
  if ∃ x ∈ xs, x.isNan = true ∨ x.isInf = true then 0xFF
  else match (xs.filterMap Ex.log2).max? with
    | some l => (max 0 (min 254 (l - topExponent c + 127))).toNat
    | none => 0

/-- The code that element `j` of the values `xs` of a row takes in a format, with the draw `d` (R190, R235), and its flags; a block with a NaN or an infinity
in it raises `NV`. -/
def elementCoded (f w0 : Word) (xs : List Ex) (d j : Nat) : Nat × BitVec 7 :=
  let c := part f 7 4
  let bs := blockSize f
  let to_ (x : Ex) : Nat × BitVec 7 := efEncode c (entryMode w0) (w0.getLsbD 49) (w0.getLsbD 43) d x
  let x := xs.getD j .nan
  if bs = 0 then to_ x
  else
    let sc := blockScale c ((xs.drop (j / bs * bs)).take bs)
    if sc = 0xFF then (0, 0x10) else to_ (x.div (dyad false 1 ((sc : Int) - 127))).1

/-- The code alone. -/
def elementCode (f w0 : Word) (xs : List Ex) (d j : Nat) : Nat := (elementCoded f w0 xs d j).1

/-- The bits of the bytes are those of the codes of the values in a format, as far as the bytes go. -/
def Codes (f w0 : Word) (xs : List Ex) (draw : Nat → Nat) (bs : List Byte) : Prop :=
  let w := codeWidth (part f 7 4)
  ∀ j b, j < xs.length → b < w → j * w + b < 8 * bs.length → (number bs).testBit (j * w + b) = (elementCode f w0 xs (draw j) j).testBit b

/-- The bytes hold the codes, as far as they fill whole bytes. -/
def Packs (f w0 : Word) (xs : List Ex) (draw : Nat → Nat) (bs : List Byte) : Prop :=
  bs.length = xs.length * codeWidth (part f 7 4) / 8 ∧ Codes f w0 xs draw bs

/-- The bytes hold all the codes; the bits above them in the last byte are those of `pad` (notes/assumptions/142.md). -/
def PacksRow (f w0 : Word) (xs : List Ex) (draw : Nat → Nat) (pad : Nat) (bs : List Byte) : Prop :=
  let n := xs.length * codeWidth (part f 7 4)
  bs.length = (n + 7) / 8 ∧ Codes f w0 xs draw bs ∧ number bs / 2 ^ n = pad % 2 ^ (8 * bs.length - n)

/-- A side of a copy (R241): its handle's index and entry, and its format word. -/
structure CopySide where
  hi : Nat
  h : Handle
  f : Word

/-- What a format word means: block size and scale format count on an MX side alone (R187, R241). -/
def kind (f : Word) : Nat := if part f 7 4 = 0 ∨ part f 9 8 = 0 then part f 7 4 else part f 11 4

/-- The captured format word of the bank of a scratchpad address (R189). -/
def bankWord (t : EntryTag) (a : Nat) : Word := mgetD t.formats (a / 65536 % 16) 0

/-- `d.f` is the format word of a side at an offset: of the byte's bank, of its `DEV` entry, or raw (R241). -/
def formatAt (r : Resident) (t : EntryTag) (d : CopySide) (off : Nat) : Prop :=
  if part d.h.w0 62 60 = 1 then d.f = bankWord t (r.spBase + part d.h.w0 56 0 + off)
  else if part d.h.w0 62 60 = 4 then part d.f 7 4 = part d.h.w2 47 44 ∧ part d.f 9 8 = part d.h.w2 43 42 ∧ part d.f 11 10 = part d.h.w2 41 40 ∧
    d.f.toNat / 2 ^ 12 = 0 ∧ d.f.toNat % 2 ^ 4 = 0
  else d.f = 0

/-- The `n` bytes of a side at an offset are of its format (R241): their banks' words mean the same, whatever their `SOFS`. -/
def formatted (r : Resident) (t : EntryTag) (d : CopySide) (off n : Nat) : Prop :=
  part d.h.w0 62 60 = 1 → ∀ i, i < n → kind (bankWord t (r.spBase + part d.h.w0 56 0 + off + i)) = kind d.f

/-- The place of a checked byte: a `LANE` byte is of lane `lane`. -/
def bytePlace (r : Resident) (lane : Nat) (a : Acc) : Acc :=
  if a.space = 0 then { a with segs := [(some (Loc.slice a.core lane (r.slBase + a.addr)), 1)] } else a

/-- The engine reads single bytes at offsets of a handle, one by one (R242). -/
def ReadsAt (c : Nat) (r : Resident) (sid lane hi : Nat) (s : State) (offs : List Nat) (bs : List Byte) (t : State) : Prop :=
  match offs with
  | [] => bs = [] ∧ t = s
  | o :: os => ∃ u a v b bs', s.check c r sid hi o 1 1 .load [0, 1, 2, 3, 4, 5] true 0 = .ok (u, a) ∧
      u.read (bytePlace r lane a) = some (v, [b]) ∧ bs = b :: bs' ∧ ReadsAt c r sid lane hi v os bs' t

/-- It writes single bytes. -/
def WritesAt (c : Nat) (r : Resident) (sid lane hi : Nat) (s : State) (offs : List Nat) (bs : List Byte) (t : State) : Prop :=
  match offs, bs with
  | [], [] => t = s
  | o :: os, b :: bs => ∃ u a, s.check c r sid hi o 1 1 .store [0, 1, 2, 3, 4, 5] true 0 = .ok (u, a) ∧
      WritesAt c r sid lane hi (u.write (bytePlace r lane a) [b]) os bs t
  | _, _ => False

/-- Offsets of `n` bytes from `o` on. -/
def offsets (o n : Nat) : List Nat := (List.range n).map fun i => (o + i) % 2 ^ 64

/-- The offsets of the scale bytes of the blocks of `n` elements at an offset of a side: in a bank where that bank's `SOFS` says (R228); in
`DEV` memory the place is free, `fv` (notes/assumptions/16.md). -/
def scaleOffs (r : Resident) (t : EntryTag) (d : CopySide) (fv off n : Nat) : List Nat :=
  let bs := blockSize d.f
  let len := bs * codeWidth (part d.f 7 4) / 8
  let base := r.spBase + part d.h.w0 56 0
  if bs = 0 then [] else (List.range (n / bs)).map fun j =>
    let a := base + (off + j * len)
    if part d.h.w0 62 60 = 1 then (BitVec.ofNat 64 (scaleAt (bankWord t a) a) - BitVec.ofNat 64 base).toNat
    else ((fv + (off + j * len) / len) % max 1 (part d.h.w1 56 0)) % 2 ^ 64

/-- A row of a copy moves unchanged. -/
def MovesRow (c : Nat) (r : Resident) (sid lane : Nat) (d t : CopySide) (doff soff n : Nat) (s u : State) : Prop :=
  ∃ bs v, ReadsAt c r sid lane t.hi s (offsets soff n) bs v ∧ WritesAt c r sid lane d.hi v (offsets doff n) bs u

/-- A byte at an offset of a handle fails with status `e`, and the step goes on from `u`: a cause of R133, a fenced home's answer (R443), or an uncorrectable
error, which alone asks for a fence (`loud`, R208). -/
def ByteFails (c : Nat) (r : Resident) (sid lane hi : Nat) (k : Kind) (s : State) (o e : Nat) (loud : Bool) (u : State) : Prop :=
  let judged := s.check c r sid hi o 1 1 k [0, 1, 2, 3, 4, 5] true 0
  (∃ cause, judged = .error (.trap cause) ∧ u = s ∧
    ((cause, e, loud) ∈ [(0x11, 1, false), (0x12, 2, false), (0x10, 3, false), (0x15, 4, false), (0x13, 5, false), (0x14, 6, false)] ∨
      ((cause < 0x10 ∨ 0x15 < cause) ∧ e = 7 ∧ loud = true))) ∨
  (∃ die, judged = .error (.nack die) ∧ u = s.countNack die ∧ e = 7 ∧ loud = false) ∨
  (k = .load ∧ ∃ a, judged = .ok (u, a) ∧ u.read (bytePlace r lane a) = none ∧ e = 7 ∧ loud = true)

/-- The state with the fence that an uncorrectable error asks for. -/
def fencing (loud : Bool) (c : Nat) (u : State) : State := if loud then { u with fenceReq := u.fenceReq ++ [c] } else u

/-- The source of a row is read as far as it goes: `m` bytes `bs`, all `len` of them or up to one that fails. -/
def SourceTo (c : Nat) (r : Resident) (sid lane hi : Nat) (s : State) (soff len m : Nat) (bs : List Byte) (u : State) : Prop :=
  ∃ v, ReadsAt c r sid lane hi s (offsets soff m) bs v ∧ ((m = len ∧ u = v) ∨ (m < len ∧ ∃ e loud, ByteFails c r sid lane hi .load v ((soff + m) % 2 ^ 64) e loud u))

/-- A row stops at destination byte `k`, with status `e` and value `val`: at its source's byte `m`, once all that can be is written, or at a destination byte
(R222, R242). `out` is what is to be written, from the state `s` that the source's bytes leave. -/
def StopsAt (c : Nat) (r : Resident) (sid lane hd ht : Nat) (v s : State) (doff soff len m : Nat) (out : List Byte) (k e : Nat) (val : Word) (u : State) : Prop :=
  ∃ z loud, WritesAt c r sid lane hd s (offsets doff k) (out.take k) z ∧
    ((k = out.length ∧ m < len ∧ (∃ y, ByteFails c r sid lane ht .load v ((soff + m) % 2 ^ 64) e loud y) ∧ u = fencing loud c z ∧
        val = BitVec.ofNat 64 (ht * 2 ^ 56 + (soff + m) % 2 ^ 56)) ∨
      (k < out.length ∧ (∃ y, ByteFails c r sid lane hd .store z ((doff + k) % 2 ^ 64) e loud y ∧ u = fencing loud c y) ∧
        val = BitVec.ofNat 64 (hd * 2 ^ 56 + (doff + k) % 2 ^ 56)))

/-- Row number `k` of a copy converts its `n` elements (R241), and raises the flags `fl`. -/
def ConvertsRow (c : Nat) (r : Resident) (g : EntryTag) (w0 : Word) (sid lane fv : Nat) (d t : CopySide) (doff soff n k : Nat) (fl : BitVec 7) (s u : State) : Prop :=
  let wt := codeWidth (part t.f 7 4)
  let wd := codeWidth (part d.f 7 4)
  ∃ bs v1 sc v2 out v3 ss,
    ReadsAt c r sid lane t.hi s (offsets soff (n * wt / 8)) bs v1 ∧ ReadsAt c r sid lane t.hi v1 (scaleOffs r g t fv soff n) sc v2 ∧
    let el (j : Nat) : Ex × BitVec 7 := element t.f (w0.getLsbD 43) (bitsOf (number bs) (j * wt) wt) ((sc.getD (j / max 1 (blockSize t.f)) 0).toNat)
    let xs := (List.range n).map fun j => (el j).1
    let draw (j : Nat) : Nat := entryDraw w0 (k * n + j)
    PacksRow d.f w0 xs draw (Config.free v2.freeCtr) out ∧
    fl = (List.range n).foldl (fun z j => z ||| (el j).2 ||| (elementCoded d.f w0 xs (draw j) j).2) 0 ∧
    (ss : List Byte) = ((scaleOffs r g d fv doff n).zipIdx.map fun p => BitVec.ofNat 8 (blockScale (part d.f 7 4) ((xs.drop (p.2 * blockSize d.f)).take (blockSize d.f)))) ∧
    WritesAt c r sid lane d.hi { v2 with freeCtr := v2.freeCtr + 1 } (offsets doff ((n * wd + 7) / 8)) out v3 ∧ WritesAt c r sid lane d.hi v3 (scaleOffs r g d fv doff n) ss u

/-- The first of `n` bytes at an offset that a side does not permit or does not hold (R133): its place, its status and its fault value. -/
def sideEnd (s : State) (c : Nat) (r : Resident) (sid : Nat) (d : CopySide) (k : Kind) (off n : Nat) : Option (Nat × Nat × Word) :=
  let at_ (o : Nat) : Word := BitVec.ofNat 64 (d.hi * 2 ^ 56 + o % 2 ^ 56)
  if n = 0 then none
  else match s.check c r sid d.hi off 1 1 k [0, 1, 2, 3, 4, 5] true 0 with
    | .error (.trap 0x12) => some (0, 2, at_ off)
    | _ => if part d.h.w1 56 0 < off + n then some (part d.h.w1 56 0 - off, 3, at_ (if off < part d.h.w1 56 0 then part d.h.w1 56 0 else off)) else none

/-- How a row of a copy ends at the earlier of its sides' bytes; at its source where both stand at one place. -/
def rowEnd (s : State) (c : Nat) (r : Resident) (sid : Nat) (d q : CopySide) (doff soff out len : Nat) : Option (Nat × Word) :=
  match sideEnd s c r sid q .load soff len, sideEnd s c r sid d .store doff out with
  | some x, some y => some (if y.1 < x.1 then y.2 else x.2)
  | some x, none => some x.2
  | none, some y => some y.2
  | none, none => none

/-- Rows from `k` on, in ascending order. -/
def Rows (row : Nat → State → State → Prop) (k n : Nat) (s u : State) : Prop :=
  match n with
  | 0 => u = s
  | m + 1 => ∃ v, row k s v ∧ Rows row (k + 1) m v u

end Sys2Proof.Claims
end

