-- ==== Sys2Proof/Claims/Tasks.lean ====
section
/-! DEFINITION. Tasks on their way through the engine, for the statements about its steps (R291 to R312). -/

namespace Sys2Proof.Claims

open Sys2Proof.Machine

/-- No slot of a task is occupied. -/
def noFirings (s : State) (t : Task) : Prop := ∀ p ∈ t.places, ∀ k f, s.firing p.core k = some f → f.rti ≠ p.rti

/-- A property of both chains on every core of a task. -/
def chains (s : State) (t : Task) (q : Chain → Prop) : Prop := ∀ p ∈ t.places, ∀ r, s.resident p.core p.rti = some r → q r.achain ∧ q r.cchain

/-- A chain is empty or halted; no entry of it is under way. -/
def quiet (ch : Chain) : Prop := ch.tags = [] ∨ ch.halted.isSome = true
def resting (ch : Chain) : Prop := ∀ t ∈ ch.tags, t.started = true → t.finished = false → t.status ≠ 0 ∧ ch.halted.isSome = true

/-- A message of a task at a network interface. -/
def message (s : State) (id : Nat) (m : OutMsg) : Prop :=
  (∃ c x, (c, x) ∈ s.cores ∧ m ∈ x.nic) ∧ ((∃ c e ch d, m = .actor id c e ch d) ∨ ∃ p, m = .packet p ∧ p.srcTask = id)

/-- No link word is on its way to a core of a task. -/
def linksDry (s : State) (t : Task) : Prop :=
  ∀ p ∈ t.places, ∀ r, s.resident p.core p.rti = some r → r.links = true → ∀ d : Fin 4, (s.core p.core).arriving[d] = []

/-- The running phase of a task has ended (R302). -/
def Over (s : State) (id : Nat) (t : Task) : Prop :=
  noFirings s t ∧
  (t.faulted = true ∨ t.killed = true ∨
    (chains s t quiet ∧ (t.tdone = true ∨
      ((∀ m, ¬ message s id m) ∧ linksDry s t ∧ ∀ p ∈ t.places, ∀ a ∈ (s.core p.core).actors, a.2.task = id → s.actorCould a.2 = false))))

/-- No `SATTN` of a task goes on (R86). -/
def noAttention (s : State) (id : Nat) (t : Task) : Prop := ∀ p ∈ t.places, ∀ a ∈ (s.core p.core).attns, a.task ≠ id

/-- The drain of a task is complete (R305). -/
def Drained (s : State) (id : Nat) (t : Task) : Prop :=
  noAttention s id t ∧ noFirings s t ∧ chains s t resting ∧ linksDry s t ∧ (∀ m, message s id m → s.accepts m = false) ∧
  ∀ d ∈ s.dies, ∀ m ∈ d.2.merges, m.old = none → ∀ p ∈ m.parts, p.task ≠ id

/-- The image of a task can be saved (R308). -/
def Savable (s : State) (id : Nat) (t : Task) : Prop :=
  t.state = .preempting ∧ noAttention s id t ∧ (∀ p ∈ t.places, ∀ k f, s.firing p.core k = some f → f.rti = p.rti → f.stopped = true) ∧
  (∀ m, message s id m → s.accepts m = false) ∧ linksDry s t ∧ ¬ Over s id t ∧ chains s t resting

/-- A task's key is lower than another's (R294). -/
def before (a b : Nat × Task) : Prop := a.2.ts < b.2.ts ∨ (a.2.ts = b.2.ts ∧ a.1 < b.1)

/-- The mode that a record counts with: until its flush ends, the one it gives up (R293, R304). -/
def holds_ (r : Region) : Option Mode := if r.flushing = true then r.kept else r.now

/-- The records of two tasks conflict (R293). -/
def clash (t u : Task) : Prop :=
  ∃ a ∈ t.regions, ∃ b ∈ u.regions, a.space = b.space ∧ a.base + a.ofs < b.base + b.ofs + b.ext ∧ b.base + b.ofs < a.base + a.ofs + a.ext ∧
    (∃ m n, holds_ a = some m ∧ holds_ b = some n ∧ ¬ (m = .r ∧ n = .r) ∧ ¬ (m = .acc ∧ n = .acc)) ∧ (a.space = 5 → ∃ g ∈ t.acts, g ∈ u.acts)

/-- Every task of the package. -/
def inFlight (s : State) (u : Nat × Task) : Prop := ∃ d ∈ s.dies, u ∈ d.2.tasks

/-- Placed and not published. -/
def live_ (u : Task) : Prop := u.state ≠ .waiting ∧ u.state ≠ .queued ∧ u.state ≠ .held

/-- A task is admissible (R294); a held one may be placed before ending tasks publish (R301). -/
def Admissible (s : State) (id : Nat) (t : Task) (early : Bool) : Prop :=
  ∀ u, inFlight s u → u.1 ≠ id → clash t u.2 →
    (live_ u.2 → early = true ∧ (u.2.state = .draining ∨ u.2.state = .flushing)) ∧ (u.2.state = .queued ∨ u.2.state = .held → ¬ before u (id, t))

/-- The first candidate of a class of a die (R295, R310). -/
def First (s : State) (die k id : Nat) (t : Task) : Prop :=
  let of_ (st : TaskState) (u : Nat × Task) : Prop := u ∈ (s.die die).tasks ∧ u.2.cls = k ∧ u.2.state = st
  let held (u : Nat × Task) : Prop := of_ .held u ∧ Admissible s u.1 u.2 true
  (of_ .saved (id, t) ∧ ∀ u, of_ .saved u → ¬ before u (id, t)) ∨
  ((∀ u, ¬ of_ .saved u) ∧ held (id, t) ∧ ∀ u, held u → ¬ before u (id, t)) ∨
  ((∀ u, ¬ of_ .saved u) ∧ (∀ u, ¬ held u) ∧ of_ .queued (id, t) ∧ (∀ u, of_ .queued u → t.qpos ≤ u.2.qpos) ∧ Admissible s id t false)

/-- The tasks that pre-emption by age may take in a cluster of a die for a candidate of class `k`, latest dispatched first (R297). -/
def VictimsIn (s : State) (die k cl : Nat) (xs : List (Nat × Task)) : Prop :=
  (∀ x, x ∈ xs ↔ x ∈ (s.die die).tasks ∧ x.2.state = .running ∧ k < x.2.cls ∧ tyBit x.2.tw 44 = false ∧ tyBit x.2.tw 46 = false ∧ s.saveRoom x.1 x.2 = true ∧
    ∃ p ∈ x.2.places, clusterOf p.core = cl) ∧
  xs.Pairwise fun a b => b.2.placedAt < a.2.placedAt ∨ (b.2.placedAt = a.2.placedAt ∧ a.1 < b.1)

/-- The first `m` of the tasks `xs`, and no fewer, make room for a candidate. -/
def Frees (s : State) (die id : Nat) (t : Task) (xs : List (Nat × Task)) (m : Nat) : Prop :=
  let without (j : Nat) : State := (xs.take j).foldl (fun u v => u.unplace v.1 v.2) s
  1 ≤ m ∧ m ≤ xs.length ∧ ((without m).fits die id t).isSome = true ∧ ∀ j, 1 ≤ j → j < m → (without j).fits die id t = none

/-- Cluster `cl`, with the first `m` of its tasks `xs`, is the one that needs the fewest victims, the lowest on a tie (R297). -/
def Chosen (s : State) (die k id : Nat) (t : Task) (cl : Nat) (xs : List (Nat × Task)) (m : Nat) : Prop :=
  cl < 12 ∧ VictimsIn s die k cl xs ∧ Frees s die id t xs m ∧
  ∀ cl' xs' m', cl' < 12 → VictimsIn s die k cl' xs' → Frees s die id t xs' m' → m < m' ∨ (m = m' ∧ cl ≤ cl')

/-- A record that the exit edge flushes (R305). -/
def exiting (r : Region) : Prop := r.flushed = false ∧ r.space ≠ 5 ∧ ∃ m, r.now = some m ∧ m ≠ .r

/-- Record `i` of a task is flushed to its end (R305, R306): `u` after the write-backs, `bad` the lowest address whose home failed. -/
def flushedTo (id : Nat) (t : Task) (i : Nat) (r : Region) (u : State) (bad : Option Nat) : State :=
  u.setTask id { t with regions := t.regions.set i { r with
    flushing := false, flushed := true, failed := r.failed || bad.isSome, progress := match bad with
      | some a => a - (r.base + r.ofs)
      | none => r.ext } }

/-- The write-backs of a record: none for `STRM`, else the dirty bytes that the L1s of the task's cores hold of its range. -/
def written (s : State) (t : Task) (r : Region) : State × Option Nat :=
  if r.space = 5 then (s, none) else s.flushCores (t.former ++ t.places.map (·.core)).eraseDups r.space t.ctx (r.base + r.ofs) (r.base + r.ofs + r.ext)

/-- The status of a completion record (R306, R307). -/
def endStatus (t : Task) : Nat := if t.killed then 3 else if t.faulted then 1 else if t.regions.any (·.failed) then 4 else t.status

/-- The words of a completion record (R307). -/
def recordWords (id : Nat) (t : Task) : List Nat :=
  let c := t.fcore
  [6 * 2 ^ 56 + endStatus t * 2 ^ 48 + t.cause % 256 * 2 ^ 40 + t.regions.length * 2 ^ 32 + id, t.fpc, t.fval.toNat,
   (if t.faulted then t.fslot * 2 ^ 40 else 0) + c / 256 * 2 ^ 16 + c / 16 % 16 * 256 + c % 16, t.arrSeq, t.copySeq, t.haltSeq,
   t.dropped * 2 ^ 32 + min t.preempts (2 ^ 32 - 1)] ++
  t.regions.flatMap fun r =>
    [if r.mode = .r then 0 else r.high,
     (if r.flushed then 2 ^ 63 else 0) + (if r.failed then 2 ^ 62 else 0) + (if r.released then 2 ^ 61 else 0) + r.progress]

/-- Its 320 bytes. -/
def recordOf (id : Nat) (t : Task) : List Byte :=
  ((recordWords id t).flatMap fun n => leBytes 8 n) ++ List.replicate (256 - 16 * t.regions.length) 0

/-- The entries that a channel's queue holds. -/
def heldIn (i : InChan) : Nat := i.fifo.length + i.back.length + i.lent.length

/-! ### Streams (R351 to R367) and parked streams (R396 to R405) -/

/-- The blocks and frames of a stream's own entries (R397). -/
def own (s : State) (g : Nat) (m : Mapping) : Prop := m ∈ (s.die (homeDie g)).ipt ∧ m.holder = g ∧ m.al = false ∧ m.rc = 1

/-- The id of an entry in use of a die's stream table (R337). -/
def inUse (s : State) (die g : Nat) (e : Stream) : Prop :=
  ∃ i, (i, e) ∈ (s.die die).streams ∧ e.state ≠ .free ∧ g = die * 2 ^ 21 + e.gen * 2 ^ 16 + i

/-- The parent `g` of a stream counts it out of its group: with no member left it is released, with one left absorbed (R351, R353). -/
def countOut (t : State) (g : Nat) (p e : Stream) : State :=
  let q : Stream := { p with nch := p.nch - 1, nret := if e.counted then p.nret - 1 else p.nret }
  if p.nch - 1 = 0 then (t.setStream g q).startRelease g else t.setStream g { q with absorbing := p.absorbing || p.nch - 1 == 1 }

/-- A stream waits at a node for the batcher (R363). -/
def gathers (s : State) (die k g : Nat) (e : Stream) : Prop :=
  k ≠ 0xFFFF ∧ inUse s die g e ∧ e.state = .ready ∧ e.node = k ∧ ∀ u, inFlight s u → u.2.state ≠ .flushing → g ∉ u.2.batch

/-- Earlier at its node (R363). -/
def sooner (a b : Nat × Stream) : Prop := a.2.readyAt < b.2.readyAt ∨ (a.2.readyAt = b.2.readyAt ∧ a.1 < b.1)

/-- Word `i` of a node's entry (R362). -/
def nodeWord (s : State) (die k i : Nat) : Word :=
  BitVec.ofNat 64 (number (memRead s.mem (Loc.phys (part (s.die die).snode 51 12 * 4096 + 16 * k + 8 * i)) 8))

/-- One returned child ranks above another (R364). -/
def outranks (a b : Stream) : Prop :=
  let x := decodeF 0 false (part a.rval 31 0)
  let y := decodeF 0 false (part b.rval 31 0)
  (x.isNan = false ∧ y.isNan = true) ∨
  (x.isNan = y.isNan ∧ (if x.isNan ∨ x.same y then a.cidx < b.cidx else y.lt false x = true))

/-- The words of a park record (R396), its counts of own frames as they stand. -/
def counted_ (s : State) (p : Park) (q : Park) : Prop :=
  let n (f : Mapping → Bool) : Nat := ((s.die (homeDie p.sid)).ipt.filter fun m => m.holder == p.sid && !m.al && m.rc == 1 && f m).length
  q = { p with nloc := n fun m => decide (m.tier < 2), ncxl := n fun m => m.tier == 2, nfl := n fun m => m.tier == 3 }

/-- The step leaves park record `i` as `p`, after `t`. -/
def Keeps (j : Instr) (s t : State) (i : Nat) (p : Park) : Prop := ∃ q, counted_ t p q ∧ exec j s = .next (t.setPark i (some q))

/-- Some pages of a promotion have still to land in stage `n`: those of the hot list in B, all in C, the awaited ones first (R404, R405). -/
def hotPage (p : Park) (b : Nat) : Bool := decide (p.hfirst ≤ b ∧ b < p.hfirst + p.hcnt)
def landable (p : Park) : List Nat :=
  let bs := p.kept.map (·.1)
  (if p.stage = 2 then bs.filter (hotPage p) else bs.filter p.wanted.contains ++ bs.filter fun b => !p.wanted.contains b).take 16

/-- Every entry that names the frame of `m`, its own and its aliases, names frame `n` of tier `tier`, which is present (R342, R403, R404). -/
def pointed (t : State) (m : Mapping) (tier n : Nat) : State :=
  (((t.die (homeDie m.holder)).ipt.filter fun x => x.frame == m.frame && x.tier == m.tier).map fun x =>
    { x with tier := tier, frame := n, present := true, dirty := false }).foldl (fun t x => t.putMapping x) t

/-- `m` is the entry that counts the frame which page `b` of a record comes back to: its stream's, or that of an alias once its stream has gone (R350, R404). -/
def landsAs (s : State) (p : Park) (b : Nat) (m : Mapping) : Prop :=
  s.mapping p.sid b = some m ∨ (s.mapping p.sid b = none ∧ ∃ f, mget p.frames b = some f ∧
    (s.die (homeDie p.sid)).ipt.find? (fun m => !m.al && m.block == b && m.frame == f && m.tier == 0 && !m.present) = some m)

/-- Some page of a record has still an entry to come back to. -/
def StillLands (s : State) (p : Park) : Prop := ∃ k ∈ p.kept, ∃ m, landsAs s p k.1 m

/-- The stream of record `i` has gone: pages that other entries count by now still land, in stage C; else the record ends. -/
def Leaves (j : Instr) (s : State) (i : Nat) (p : Park) : Prop :=
  (¬ StillLands s p → exec j s = .next (s.endPark i p)) ∧
  (StillLands s p → (p.stage = 3 → p.state = 6 → exec j s = .next s) ∧ (¬ (p.stage = 3 ∧ p.state = 6) → Keeps j s s i { p with stage := 3, state := 6, todo := [] }))

/-- A page of a promotion lands: its slot passes and its bytes come to its frame, or the frame is poisoned (R404, R409). -/
def Lands (j : Instr) (s : State) (i : Nat) (p : Park) (b n : Nat) : Prop :=
  let die := homeDie p.sid
  let q : Park := { p with kept := mdel p.kept b, wanted := p.wanted.filter (· != b) }
  ((∀ m, ¬ landsAs s p b m) → Keeps j s (s.setDesc die n none) i q) ∧
  ∀ m d, landsAs s p b m → mget (s.die die).descs n = some d →
    let a := Loc.frame (homeDie m.holder) m.frame 0
    (s.slotOk die n p.key d = true →
      Keeps j s (pointed ((s.putPage a (memCut s.mem (slotAt d.tier d.slot) 32768) (some (s.keyInst p.key)) []).setDesc die n none) m m.tier m.frame) i q) ∧
    (s.slotOk die n p.key d = false →
      Keeps j s (pointed ((s.putPage a [] (some (s.keyInst p.key)) (List.range 32768)).setDesc die n (some { d with psn := true })).pkErr m m.tier m.frame) i q)

end Sys2Proof.Claims
end

