-- ==== Sys2Proof/Claims/Whole.lean ====
section
/-! DEFINITION. The words of the statements about the step, the checks before an instruction's own, traps, and what an instruction leaves
as it was. -/

namespace Sys2Proof.Claims

open Sys2Proof.Machine

/-- Firing `a` goes before firing `b` (R90): the lower class, then the earlier ready clock, then the lower slot. -/
def goesBefore (a b : Nat × Firing) : Prop :=
  a.2.cls < b.2.cls ∨ a.2.cls = b.2.cls ∧ (a.2.ready < b.2.ready ∨ a.2.ready = b.2.ready ∧ a.1 < b.1)

/-- The first of the candidates. -/
def Best (xs : List (Nat × Firing)) (a : Nat × Firing) : Prop := a ∈ xs ∧ ∀ b ∈ xs, ¬ goesBefore b a

/-- The base word that stands at an address of a core's instruction store, and the immediate that its `LEN` gives it. -/
def baseWord (s : State) (c pc : Nat) : Word := BitVec.ofNat 64 (number (memRead s.mem (Loc.istore c pc) 8))
def immediate (s : State) (c pc : Nat) : Word :=
  let n := (baseWord s c pc).toNat % 4
  BitVec.ofNat 64 (number (memRead s.mem (Loc.istore c (pc + 8)) (if n = 1 then 4 else if n = 2 then 8 else 0)))

/-- A fetch breaks no rule of R10; a word whose `LEN` is 11 has no length. -/
def Fetchable (s : State) (c pc : Nat) : Prop :=
  let n := (baseWord s c pc).toNat % 4
  pc % 4 = 0 ∧ pc < 262144 ∧ (n = 3 ∨ pc % 32 + lengthOf (BitVec.ofNat 2 n) ≤ 32)

/-- The early read that `SBCHK` looks for among registers, as `TRAPVAL` (R29). -/
def earlyRead (s : State) (rs : List (Nat × Nat)) (v : Word) : Prop :=
  (firing s).sbchk.getLsbD 0 = true ∧ ∃ a r d, (firing s).early rs = some (a, r, d) ∧
    v = BitVec.ofNat 64 ((d - s.clk) % 256 * 256 + a % 4 * 64 + r % 64)

/-- The instruction traps before any effect. -/
def Stops (i : Instr) (s : State) (cause : Nat) (v : Word) : Prop :=
  exec i s = .next ((settled s).raiseAfter s.cur.core s.cur.slot cause v 0)

/-- What a firing keeps when an instruction completes: all of it but the results `rs` that it adds to those in flight, its place in the program, its issue record
and its signature checker. -/
def KeepsFiring (f : Firing) (rs : List Result) (g : Firing) : Prop :=
  ∃ pc ni rd yl cf dd blk, g =
    { f with flight := f.flight ++ rs, pc := pc, nextIssue := ni, ready := rd, yld := yl, tried := none, wait := .none, asked := [],
             issued := [], replies := [], sigCf := cf, sigDd := dd, sigBlock := blk }

/-- What a core keeps when an instruction of slot `k` completes: all of it but the clock of its last issue, the multipliers' free clock,
its slots and, where the instruction names links, the links. -/
def KeepsCore (links : Bool) (x y : Core) : Prop :=
  ∃ sl iss mf ff ar po ps, y = { x with slots := sl, issued := iss, mulFree := mf, fifos := ff, arriving := ar, popped := po, linkPsn := ps } ∧
    (links = false → ff = x.fifos ∧ ar = x.arriving ∧ po = x.popped ∧ ps = x.linkPsn)

end Sys2Proof.Claims
end

