-- ==== Sys2Proof/Certificates/Slice0/Obligations.lean ====
section
/-! DEFINITION. The statements for the provers. -/

open Sys2Proof Sys2Proof.Machine Sys2Proof.Claims

/-- The scalar arithmetic of R108 and R110, and `NOP` (R107): each instruction that issues completes with this result. The logical and shift
instructions and the bit fields of R108, R109 and R111. Moves, selection, comparison and addresses (R108): `ICMP` and `PLOG` write a
predicate. -/
def Obligations.ScalarResults : Prop :=
  (∀ w : Tolog,
  Gives (.nop w) 0x00 w (fun _ _ => []) ∧
  Gives (.iadd w) 0x01 w (fun x _ => [.g w.d (low ((x.g w.a).toInt + x.b.toInt))]) ∧
  Gives (.isub w) 0x02 w (fun x _ => [.g w.d (low ((x.g w.a).toInt - x.b.toInt))]) ∧
  Gives (.imul w) 0x03 w (fun x _ => [.g w.d (low ((x.g w.a).toInt * x.b.toInt))]) ∧
  Gives (.imulh w) 0x04 w (fun x _ => [.g w.d (low (num (isN w) (x.g w.a) * num (isN w) x.b / 2 ^ 64))]) ∧
  Gives (.idiv w) 0x05 w (fun x _ => [.g w.d (quotient (isN w) (x.g w.a) x.b)]) ∧
  Gives (.irem w) 0x06 w (fun x _ => [.g w.d (remainder (isN w) (x.g w.a) x.b)]) ∧
  Gives (.imin w) 0x07 w (fun x _ => [.g w.d (if num (isN w) (x.g w.a) ≤ num (isN w) x.b then x.g w.a else x.b)]) ∧
  Gives (.imax w) 0x08 w (fun x _ => [.g w.d (if num (isN w) (x.g w.a) ≤ num (isN w) x.b then x.b else x.g w.a)]) ∧
  Gives (.iabs w) 0x09 w (fun x _ => [.g w.d (low ((x.g w.a).toInt.natAbs : Nat))]) ∧
  Gives (.imad w) 0x1D w (fun x _ => [.g w.d (low ((x.g w.a).toInt * (x.g w.b).toInt + (x.g w.c).toInt))]) ∧
  Gives (.iadds w) 0x1E w (fun x _ => [.g w.d (low (held (isN w) (num (isN w) (x.g w.a) + num (isN w) x.b)))])) ∧
  (∀ w : Tolog,
  Gives (.and_ w) 0x0A w (fun x _ => [.g w.d (BitVec.ofNat 64 ((x.g w.a).toNat &&& x.b.toNat))]) ∧
  Gives (.or_ w) 0x0B w (fun x _ => [.g w.d (BitVec.ofNat 64 ((x.g w.a).toNat ||| x.b.toNat))]) ∧
  Gives (.xor_ w) 0x0C w (fun x _ => [.g w.d (BitVec.ofNat 64 ((x.g w.a).toNat ^^^ x.b.toNat))]) ∧
  Gives (.andn w) 0x0D w (fun x _ => [.g w.d (BitVec.ofNat 64 ((x.g w.a).toNat &&& (2 ^ 64 - 1 - x.b.toNat)))]) ∧
  Gives (.shl w) 0x0E w (fun x _ => [.g w.d (BitVec.ofNat 64 ((x.g w.a).toNat * 2 ^ amount x))]) ∧
  Gives (.shr w) 0x0F w (fun x _ => [.g w.d (BitVec.ofNat 64 ((x.g w.a).toNat / 2 ^ amount x))]) ∧
  Gives (.sar w) 0x10 w (fun x _ => [.g w.d (low ((x.g w.a).toInt / 2 ^ amount x))]) ∧
  Gives (.rot w) 0x11 w (fun x _ =>
    let a := (x.g w.a).toNat
    let r := amount x % 64
    [.g w.d (BitVec.ofNat 64 (if w.mod.getLsbD 5 then a / 2 ^ r + a * 2 ^ (64 - r) else a * 2 ^ r + a / 2 ^ (64 - r)))]) ∧
  Gives (.clz w) 0x12 w (fun x _ =>
    [.g w.d (BitVec.ofNat 64 (if x.g w.a = 0 then 64 else 63 - (x.g w.a).toNat.log2))]) ∧
  Gives (.popc w) 0x13 w (fun x _ => [.g w.d (BitVec.ofNat 64 ((List.range 64).countP fun i => (x.g w.a).getLsbD i))]) ∧
  Gives (.bfx w) 0x14 w (fun x _ =>
    [.g w.d (low (fieldNum (isN w) (width w) ((x.g w.a).toNat / 2 ^ pos w % 2 ^ width w)))]) ∧
  Gives (.bfi w) 0x15 w (fun x _ =>
    let d := (x.g w.d).toNat
    [.g w.d (BitVec.ofNat 64 (d - d / 2 ^ pos w % 2 ^ width w * 2 ^ pos w + (x.g w.a).toNat % 2 ^ width w * 2 ^ pos w))]) ∧
  Gives (.sext w) 0x16 w (fun x _ =>
    let n := if w.mod.toNat / 32 = 0 then 8 else if w.mod.toNat / 32 = 1 then 16 else 32
    [.g w.d (low (fieldNum (isN w) n ((x.g w.a).toNat % 2 ^ n)))])) ∧
  (∀ w : Tolog,
  Gives (.movi w) 0x17 w (fun _ _ =>
    [.g w.d (if w.len = 2 then w.imm else if isN w then BitVec.ofNat 64 (w.imm.toNat % 2 ^ 32)
      else low (fieldNum false 32 (w.imm.toNat % 2 ^ 32)))]) ∧
  Gives (.mov w) 0x18 w (fun x _ => [.g w.d (x.g w.a)]) ∧
  Gives (.sel w) 0x19 w (fun x _ => [.g w.d (if x.p w.c then x.g w.a else x.g w.b)]) ∧
  Gives (.icmp w) 0x1A w (fun x _ => [.p w.d.toNat (cond (w.mod.toNat / 4 % 8) (isN w) (x.g w.a) x.b)]) ∧
  Gives (.plog w) 0x1B w (fun x _ => [.p w.d.toNat (w.mod.getLsbD ((if x.p w.a then 2 else 0) + (if x.p w.b then 1 else 0)))]) ∧
  Gives (.lea w) 0x1C w (fun x _ => [.g w.d (BitVec.ofNat 64 ((x.g w.a).toNat + x.b.toNat * 2 ^ (w.mod.toNat / 32)))]))

/-- Control transfers (R112, R113, R115): the target and the link or counter; a bad target is the instruction's own
`IL.ALIGN`, with the full target as `TRAPVAL`. -/
def Obligations.ControlTransfer : Prop := ∀ (w : Tolog) (s : State),
  (Issues 0x20 w s → Transfers (.br w) 0x20 w (fun x => x.g w.a) (fun _ => []) s) ∧
  (Issues 0x21 w s → Transfers (.bri w) 0x21 w relTarget (fun _ => []) s) ∧
  (Issues 0x22 w s → Transfers (.call w) 0x22 w relTarget
    (fun x => [.g w.d (BitVec.ofNat 64 (successor x.f.pc (lengthOf w.len)))]) s) ∧
  (Issues 0x23 w s → Transfers (.ret w) 0x23 w (fun x => x.g w.a) (fun _ => []) s) ∧
  (Issues 0x25 w s →
    let n := (ctx 0x25 w s).g w.d - 1
    (n = 0 → Acts (.loop w) 0x25 w s { s := start s, writes := [.g w.d 0] }) ∧
    (n ≠ 0 → Transfers (.loop w) 0x25 w relTarget (fun _ => [.g w.d n]) s)) ∧
  (Issues 0x24 w s →
    let x := ctx 0x24 w s
    (w.imm.toNat / 2 ^ 32 % 2 ^ 16 ≤ (x.g w.b).toNat →
      Transfers (.jtab w) 0x24 w (fun x => low (x.f.pc + 4 * fieldNum false 16 (w.imm.toNat / 2 ^ 48))) (fun _ => []) s) ∧
    ((x.g w.b).toNat < w.imm.toNat / 2 ^ 32 % 2 ^ 16 → Fresh s → ∀ s1 a s2 bs,
      (start s).check x.c (x.res (start s)) x.sid (w.imm.toNat % 256)
        (low (x.g w.a).toInt + low (fieldNum false 24 (w.imm.toNat / 256 % 2 ^ 24)) + low (4 * (x.g w.b).toNat)).toNat
        4 4 .load [1, 2, 3, 4, 5] false w.ch.toNat = .ok (s1, a) → x.behind (start s) a = false → x.held s1 a = false → s1.read a = some (s2, bs) →
        bs.length = 4 →
      let t := low (x.f.pc + fieldNum false 32 (number bs))
      (Legal t → Acts (.jtab w) 0x24 w s { s := s2, jump := some t.toNat }) ∧ (¬ Legal t → Traps (.jtab w) 0x24 w 0x01 (fun _ => t) s)))

/-- A firing that ends (R84 to R87): with every result delivered, `FINI` frees the slot and the actor and counts the firing, `ABORT` frees them
and holds the actor. `YIELD` waits for the other candidates (R116), `FENCE` goes on once the counter adds that it orders are performed (R121), and `TRAP` raises `USER` with `IMM32` (R118).
`CLOCK` gives nanoseconds of the 2.25 GHz clock (R122), `GETID` the number its selector names (R123), and `TRET` sets `TRAPVEC.EN` and
returns to `TRAPPC` or its successor (R119).
Where the rules leave a point open, what it says is the model's choice (log entries 15, 20 and 44). -/
def Obligations.FiringControl : Prop :=
  (∀ (w : Tolog) (s : State),
  (Issues 0x26 w s → (ctx 0x26 w s).f.flight = [] → (ctx 0x26 w s).k < 8 → ∀ a, (start s).actor s.cur.core (ctx 0x26 w s).f.actor = some a →
    (∀ o ∈ a.outs, o.rate ≤ (mgetD (ctx 0x26 w s).f.closed o.ch []).length) →
    ∃ t b, exec (.fini w) s = .next t ∧ t.firing s.cur.core s.cur.slot = none ∧ t.actor s.cur.core (ctx 0x26 w s).f.actor = some b ∧
      b.seqNo = a.seqNo + 1 ∧ b.busy = false) ∧
  (Issues 0x27 w s → (ctx 0x27 w s).f.flight = [] → (ctx 0x27 w s).k < 8 → ∀ a, (start s).actor s.cur.core (ctx 0x27 w s).f.actor = some a →
    ∃ t b, exec (.abort w) s = .next t ∧ t.firing s.cur.core s.cur.slot = none ∧ t.actor s.cur.core (ctx 0x27 w s).f.actor = some b ∧
      b.seqNo = a.seqNo ∧ b.busy = false ∧ b.held = true) ∧
  (Issues 0x28 w s →
    let ks := (((start s).candidates s.cur.core).map (·.1)).filter (· != s.cur.slot)
    exec (.yield w) s = .next (State.complete (ctx 0x28 w s) { s := (start s).popAll s.cur.core (pops 0x28 w) }
      (if ks = [] then .none else .yield ks ks (s.clk + 64)))) ∧
  (Issues 0x2C w s → (¬ addsFirst (ctx 0x2C w s) (start s) → Acts (.fence w) 0x2C w s { s := start s }) ∧
    (addsFirst (ctx 0x2C w s) (start s) → exec (.fence w) s = .next ((start s).retry s.cur.core s.cur.slot))) ∧
  (Issues 0x29 w s → Traps (.trap w) 0x29 w 0x28 (fun x => BitVec.ofNat 64 (x.w.imm.toNat % 2 ^ 32)) s)) ∧
  (∀ (w : Tolog) (s : State),
  Gives (.clock w) 0x2D w (fun _ t => [.g w.d (BitVec.ofNat 64 (t.clk * 4 / 9))]) ∧
  (w.mod.toNat % 8 = 0 → Gives (.getid w) 0x2E w (fun x _ =>
    [.g w.d (BitVec.ofNat 64 (x.c / 256 * 65536 + x.c / 16 % 16 * 256 + x.c % 16))])) ∧
  (w.mod.toNat % 8 = 1 → Gives (.getid w) 0x2E w (fun _ t => [.g w.d (BitVec.ofNat 64 (t.pkg.fabid.toNat / 2 ^ 16 % 2 ^ 16))])) ∧
  (w.mod.toNat % 8 = 2 → Gives (.getid w) 0x2E w (fun x t => [.g w.d (clusId t x.c x.f.rti)])) ∧
  (w.mod.toNat % 8 = 3 → Gives (.getid w) 0x2E w (fun x _ =>
    [.g w.d (if x.f.gang = 2 then 16 else if x.f.gang = 4 then 32 else if x.f.gang = 8 then 48 else 0)])) ∧
  (w.mod.toNat % 8 = 4 → Gives (.getid w) 0x2E w (fun x _ => [.g w.d (BitVec.ofNat 64 (x.c / 16 % 16 / 2 * 8 + x.c % 16 / 2))])) ∧
  (Issues 0x2F w s → s.cur.slot < 8 →
    let x := ctx 0x2F w s
    let len := ((start s).fetchWord s.cur.core x.f.trapPc.toNat).1.toNat % 4
    let t : Word := if w.mod.getLsbD 0 then BitVec.ofNat 64 (successor x.f.trapPc.toNat (if len = 1 then 12 else if len = 2 then 16 else 8))
      else x.f.trapPc
    (Legal t → Acts (.tret w) 0x2F w s
      { s := (start s).setFiring s.cur.core s.cur.slot { x.f with trapVec := x.f.trapVec ||| 1 }, jump := some t.toNat }) ∧
    (¬ Legal t → Traps (.tret w) 0x2F w 0x01 (fun _ => t) s)))

/-- Channel access (R126 to R128): the counts, the window's words, and the entry being filled. An undeclared channel and an offset or entry out of range
raise `CHAN`; an entry of the actor table or of the window in uncorrectable error raises `POISON` (R208).
Where the rules leave a point open, what it says is the model's choice (log entries 40 and 120). -/
def Obligations.ChannelAccess : Prop := ∀ (w : Tolog) (s : State),
  let ch := w.mod.toNat % 4
  let place (out : Bool) (n : Nat) : Word := BitVec.ofNat 64 (ch + (if out then 16 else 0) + n % 2 ^ 16 * 256)
  (∀ i op, (i, op) ∈ [(Instr.chavl w, 0x31), (.chrd w, 0x32), (.chwr w, 0x33)] → Issues op w s →
    let x := ctx op w s
    let out := if op = 0x31 then w.mod.getLsbD 2 else op == 0x33
    (∀ a, (start s).actor x.c x.f.actor = some a → a.bad = true → TrapsOpen i 0x16 s) ∧
    (x.actorBad (start s) = false → s.cur.slot < 8 → (if out then (x.outChan (start s)).isNone else (x.inChan (start s)).isNone) = true →
      Traps i op w 0x18 (fun _ => place out 0) s)) ∧
  (Issues 0x31 w s → (ctx 0x31 w s).actorBad (start s) = false → w.mod.getLsbD 2 = true → ∀ o, (ctx 0x31 w s).outChan (start s) = some o →
    Acts (.chavl w) 0x31 w s { s := start s, writes := [.g w.d (BitVec.ofNat 64 (o.rate - (mgetD (ctx 0x31 w s).f.closed o.ch []).length))] }) ∧
  (Issues 0x31 w s → (ctx 0x31 w s).actorBad (start s) = false → w.mod.getLsbD 2 = false → ∀ i, (ctx 0x31 w s).inChan (start s) = some i →
    Acts (.chavl w) 0x31 w s { s := start s, writes := [.g w.d (BitVec.ofNat 64 (i.fifo.length + i.back.length + i.lent.length))] }) ∧
  (Issues 0x32 w s → (ctx 0x32 w s).actorBad (start s) = false → ∀ i, (ctx 0x32 w s).inChan (start s) = some i →
    let x := ctx 0x32 w s
    let win := mgetD x.f.window i.ch []
    let n := (x.g w.a).toNat
    (w.mod.getLsbD 7 = true → n < i.rate →
      (x.entryBad i n 0 16 = false →
        Acts (.chrd w) 0x32 w s { s := start s, writes := [.v w.d.toNat (BitVec.ofNat 8192 (win.getD n 0).toNat) (BitVec.allOnes 8192)] }) ∧
      (x.entryBad i n 0 16 = true → TrapsOpen (.chrd w) 0x16 s)) ∧
    (w.mod.getLsbD 7 = false → n % 8 = 0 → n < i.rate * 128 →
      (x.entryBad i (n / 128) (n % 128 / 8) 1 = false →
        Acts (.chrd w) 0x32 w s { s := start s, writes := [.g w.d (BitVec.ofNat 64 ((win.getD (n / 128) 0).toNat / 2 ^ (n % 128 * 8)))] }) ∧
      (x.entryBad i (n / 128) (n % 128 / 8) 1 = true → TrapsOpen (.chrd w) 0x16 s)) ∧
    (w.mod.getLsbD 7 = true → i.rate ≤ n → Traps (.chrd w) 0x32 w 0x18 (fun _ => place false n) s) ∧
    (w.mod.getLsbD 7 = false → n % 8 ≠ 0 ∨ i.rate * 128 ≤ n → Traps (.chrd w) 0x32 w 0x18 (fun _ => place false (n / 128)) s)) ∧
  (Issues 0x33 w s → s.cur.slot < 8 → (ctx 0x33 w s).actorBad (start s) = false → ∀ o, (ctx 0x33 w s).outChan (start s) = some o →
    let x := ctx 0x33 w s
    let n := (mgetD x.f.closed o.ch []).length
    let at_ := (x.g w.a).toNat
    let put (f : Firing) : Eff := { s := (start s).setFiring s.cur.core s.cur.slot f }
    let e := entrySet (mgetD x.f.filling o.ch 0) at_ (x.g w.b)
    (n < o.rate → w.mod.getLsbD 7 = true →
      Acts (.chwr w) 0x33 w s (put { x.f with closed := mset x.f.closed o.ch (mgetD x.f.closed o.ch [] ++ [BitVec.ofNat 1024 (x.v w.b).toNat]),
                                              filling := mdel x.f.filling o.ch })) ∧
    (n < o.rate → w.mod.getLsbD 7 = false → at_ % 8 = 0 → at_ < 128 → w.mod.getLsbD 3 = true →
      Acts (.chwr w) 0x33 w s (put { x.f with closed := mset x.f.closed o.ch (mgetD x.f.closed o.ch [] ++ [e]), filling := mdel x.f.filling o.ch })) ∧
    (n < o.rate → w.mod.getLsbD 7 = false → at_ % 8 = 0 → at_ < 128 → w.mod.getLsbD 3 = false →
      Acts (.chwr w) 0x33 w s (put { x.f with filling := mset x.f.filling o.ch e })) ∧
    (n < o.rate → w.mod.getLsbD 7 = false → at_ % 8 ≠ 0 ∨ 128 ≤ at_ → Traps (.chwr w) 0x33 w 0x18 (fun _ => place true n) s) ∧
    (o.rate ≤ n → Traps (.chwr w) 0x33 w 0x18 (fun _ => place true n) s))

/-- A send enters the core's interface whole (R129 to R132): `SEND` carries two words and `IMM32`, `SENDV` a vector, `SENDH` the
address of its handle and a word; a target that fails its checks raises `SENDT`, one behind the column's boundary `PERM` (R431).
Where the rules leave a point open, what it says is the model's choice (log entries 89 and 135). -/
def Obligations.Sends : Prop := ∀ (w : Tolog) (s : State),
  (Issues 0x34 w s →
    let x := ctx 0x34 w s
    let t := start s
    let m := t.sendTarget x.c x.k (x.res t).task (x.res t) (x.g w.a)
      (BitVec.ofNat 1024 ((x.g w.b).toNat + (x.g w.c).toNat * 2 ^ 64 + w.imm.toNat % 2 ^ 32 * 2 ^ 128))
    (∀ o, m = some o → roomFor x t o → Acts (.send w) 0x34 w s { s := t.nicPut x.c o }) ∧
    (∀ o, m = some o → t.walled x.c o = true → TrapsOpen (.send w) 0x12 s) ∧
    (m = none → Traps (.send w) 0x34 w 0x1A (fun x => x.g w.a) s)) ∧
  (Issues 0x36 w s →
    let x := ctx 0x36 w s
    let t := start s
    let a := if w.mod.getLsbD 0 then BitVec.ofNat 64 (w.imm.toNat % 2 ^ 32) else x.g w.a
    let m := t.sendTarget x.c x.k (x.res t).task (x.res t) a (BitVec.ofNat 1024 (x.v w.b).toNat)
    (∀ o, m = some o → roomFor x t o → Acts (.sendv w) 0x36 w s { s := t.nicPut x.c o }) ∧
    (∀ o, m = some o → t.walled x.c o = true → TrapsOpen (.sendv w) 0x12 s) ∧
    (m = none → Traps (.sendv w) 0x36 w 0x1A (fun _ => a) s)) ∧
  (Issues 0x35 w s →
    let x := ctx 0x35 w s
    let t := start s
    let b := (x.g w.b).toNat
    ((x.res t).handle (w.imm.toNat % 256) = none → Traps (.sendh w) 0x35 w 0x11 handleWord s) ∧
    ∀ h, (x.res t).handle (w.imm.toNat % 256) = some h → (h.space = 3 ∨ h.space = 4) → x.off < h.len →
      ∀ c e ch, (if h.space = 3 then t.ownerChip (x.c / 256) (h.base + x.off) else t.ownerDev (x.c / 256) (h.base + x.off)) = some c →
      b < 4096 → b / 4 % 16 = 0 → t.actorTarget (x.res t).task c (b / 64) (b % 4) = some (e, ch) →
      let o := OutMsg.actor (x.res t).task e ch (b % 4) (BitVec.ofNat 1024 ((h.base + x.off) % 2 ^ 64 + (x.g w.c).toNat * 2 ^ 64))
      (roomFor x t o → Acts (.sendh w) 0x35 w s { s := t.nicPut x.c o }) ∧
      (t.walled x.c o = true → TrapsOpen (.sendh w) 0x12 s))

/-- Scalar loads (R135, R136, R151, R152, R154): where the checks of R133 let the access through and nothing holds it, the result is
the little-endian value of its bytes, extended. `PREF` completes whatever its address is, and fills the line where the access would be performed in the L1; `RGCHK` says what the handle and the
records permit (R152). A load waits behind an earlier one of the same bytes that waits at its home (R137, R328).
Where the rules leave a point open, what it says is the model's choice (log entries 20, 39, 45, 116 and 133). -/
def Obligations.ScalarLoads : Prop := ∀ (w : Tolog) (s : State),
  (Issues 0x40 w s →
    let x := ctx 0x40 w s
    let n := bytesOf w
    Fresh s → ∀ s1 a s2 bs, access x (start s) n .load [1, 2, 3, 4, 5] false = .ok (s1, a) → x.behind (start s) a = false → x.held s1 a = false →
      s1.read a = some (s2, bs) → Acts (.ld w) 0x40 w s { s := s2, writes := [.g w.d (low (fieldNum (!w.mod.getLsbD 3) (8 * n) (number bs)))] }) ∧
  (Issues 0x42 w s →
    let x := ctx 0x42 w s
    Fresh s → ∀ s1 a s2 bs, access x (start s) 16 .load [1, 2, 3, 4, 5] false = .ok (s1, a) → x.behind (start s) a = false → x.held s1 a = false →
      s1.read a = some (s2, bs) → Acts (.ldp w) 0x42 w s { s := s2, writes := [.g w.d (BitVec.ofNat 64 (number (bs.take 8))),
                                                   .g w.b (BitVec.ofNat 64 (number ((bs.drop 8).take 8)))] }) ∧
  (Issues 0x44 w s →
    let x := ctx 0x44 w s
    let t := start s
    let c := t.check x.c (x.res t) x.sid (w.imm.toNat % 256) x.off 1 1 .load [0, 1, 2, 3, 4, 5] false w.ch.toNat
    (w.mod.getLsbD 7 = true ∨ (∃ b, c = .error b) ∨ (∃ s1 a, c = .ok (s1, a) ∧ (a.cached = false ∨ s1.read a = none)) → Acts (.pref w) 0x44 w s { s := t }) ∧
    (∀ s1 a s2 bs, w.mod.getLsbD 7 = false → c = .ok (s1, a) → a.cached = true → s1.read a = some (s2, bs) → Acts (.pref w) 0x44 w s { s := s2 })) ∧
  (Issues 0x4E w s →
    let x := ctx 0x4E w s
    let t := start s
    ((x.res t).handle (w.imm.toNat % 256) = none → Acts (.hld w) 0x4E w s { s := t, writes := [.g w.d 0] }) ∧
    (∀ h, (x.res t).handle (w.imm.toNat % 256) = some h →
      let j := w.imm.toNat / 256 % 4
      Acts (.hld w) 0x4E w s { s := t, writes := [.g w.d (if j = 0 then h.w0 else if j = 1 then h.w1 else if j = 2 then h.w2 else h.w3)] })) ∧
  (Issues 0x50 w s → ∃ v, Acts (.rgchk w) 0x50 w s { s := start s, writes := [.g w.d v] } ∧
    let x := ctx 0x50 w s
    let t := start s
    ((x.res t).handle (w.imm.toNat % 256) = none → v = 0) ∧
    (∀ h, (x.res t).handle (w.imm.toNat % 256) = some h →
      let n := max (x.g w.b).toNat 1
      let k := (t.task (x.res t).task).getD {}
      let g := if h.sid = 0 then x.sid else h.sid
      let rs := if h.space = 5 ∧ k.sid ≠ g ∧ g ∉ k.batch then [] else k.regions
      let within (p : Mode → Bool) : Bool := decide (3 ≤ h.space) && covered (rs.filter fun q => q.space == h.space && q.now.any p) 17 (h.base + x.off) n
      let first := rs.findIdx? fun q => q.space == h.space && decide (q.lo ≤ h.base + x.off ∧ h.base + x.off < q.hi) && q.now.isSome
      v.getLsbD 0 = true ∧ v.getLsbD 1 = decide (x.off + n ≤ h.len) ∧ v.getLsbD 2 = h.rd ∧ v.getLsbD 3 = h.wr ∧
      v.getLsbD 4 = within (fun m => m == .r || m == .rw) ∧ v.getLsbD 5 = within (fun m => m == .w || m == .rw) ∧ v.getLsbD 6 = within (· == .acc) ∧
      v.getLsbD 12 = (decide (3 ≤ h.space) && first.isSome) ∧ (∀ j, 3 ≤ h.space → first = some j → v.toNat / 2 ^ 8 % 2 ^ 4 = j % 16) ∧
      (h.space < 3 ∨ first = none → v.toNat / 2 ^ 8 % 2 ^ 4 = 0) ∧ v.getLsbD 7 = false ∧ v.toNat < 2 ^ 13)) ∧
  (Issues 0x53 w s →
    let x := ctx 0x53 w s
    let t := start s
    let n := w.b.toNat + 1
    ∀ h s1 a s2 bs, (x.res t).handle (w.imm.toNat % 256) = some h → (h.space = 1 ∨ h.space = 2) → h.rd = true → x.off + n ≤ 8 * h.len →
      bitAccess x t .load = .ok (s1, a) → x.held s1 a = false → s1.read a = some (s2, bs) →
      Acts (.ldbit w) 0x53 w s { s := s2, writes := [.g w.d (low (fieldNum (!w.mod.getLsbD 3) n (bitsOf (number bs) (x.off % 8) n)))] })

/-- Scalar stores (R135, R151, R153, R154): where the checks of R133 let the access through, its bytes are written, little-endian,
at the places the access names; a store waits behind an earlier load of its bytes that waits at its home (R137, R328); `HST` writes a word of the entry, privileged, and judges the entry (R184).
Where the rules leave a point open, what it says is the model's choice (log entries 20, 45 and 116). -/
def Obligations.ScalarStores : Prop := ∀ (w : Tolog) (s : State),
  (Issues 0x41 w s →
    let x := ctx 0x41 w s
    let n := bytesOf w
    Fresh s → ∀ s1 a, access x (start s) n .store [1, 2, 3, 4, 5] false = .ok (s1, a) →
      (x.behind (start s) a = false → Acts (.st w) 0x41 w s { s := s1.write a (leBytes n (x.g w.b).toNat) }) ∧
      (x.behind (start s) a = true → exec (.st w) s = .next ((start s).retry s.cur.core s.cur.slot))) ∧
  (Issues 0x43 w s →
    let x := ctx 0x43 w s
    Fresh s → ∀ s1 a, access x (start s) 16 .store [1, 2, 3, 4, 5] false = .ok (s1, a) →
      (x.behind (start s) a = false → Acts (.stp w) 0x43 w s { s := s1.write a (leBytes 16 ((x.g w.b).toNat + (x.g w.c).toNat * 2 ^ 64)) }) ∧
      (x.behind (start s) a = true → exec (.stp w) s = .next ((start s).retry s.cur.core s.cur.slot))) ∧
  (Issues 0x4F w s →
    let x := ctx 0x4F w s
    let t := start s
    let i := w.imm.toNat % 256
    let j := w.imm.toNat / 256 % 4
    let h := mgetD (x.res t).handles i {}
    let v := x.g w.b
    let h' : Handle := if j = 0 then { h with w0 := v } else if j = 1 then { h with w1 := v } else if j = 2 then { h with w2 := v } else { h with w3 := v }
    let r := x.res t
    ∃ inv, let r' := { r with handles := mset r.handles i h', invalid := inv }
      Acts (.hst w) 0x4F w s { s := t.setResident x.c x.f.rti r' } ∧ (∀ k, k ≠ i → (k ∈ inv ↔ k ∈ r.invalid)) ∧ (i ∈ inv ↔ t.handleOk x.c r' h' = false)) ∧
  (Issues 0x51 w s →
    let x := ctx 0x51 w s
    let n := (x.g w.b).toNat
    let t := start s
    let c := t.check x.c (x.res t) x.sid (w.imm.toNat % 256) x.off n 1 .any [0, 1, 2, 3, 4, 5] true 0
    (n = 0 → Acts (.flushr w) 0x51 w s { s := t }) ∧
    (∀ s1 a, n ≠ 0 → c = .ok (s1, a) → a.space ≠ 3 → a.space ≠ 4 → Acts (.flushr w) 0x51 w s { s := s1 }) ∧
    (∀ s1 a, n ≠ 0 → c = .ok (s1, a) → a.space = 3 ∨ a.space = 4 → Acts (.flushr w) 0x51 w s
      { s := ((s1.core a.core).l1Over a).foldl (fun s l => s.cleanLine a.core l) s1 })) ∧
  (Issues 0x52 w s →
    let x := ctx 0x52 w s
    let n := (x.g w.b).toNat
    let t := start s
    let c := t.check x.c (x.res t) x.sid (w.imm.toNat % 256) x.off n 1 .any [0, 1, 2, 3, 4, 5] true 0
    (n = 0 → Acts (.invr w) 0x52 w s { s := t }) ∧
    (∀ s1 a, n ≠ 0 → c = .ok (s1, a) → a.space ≠ 3 → a.space ≠ 4 → Acts (.invr w) 0x52 w s { s := s1 }) ∧
    (∀ s1 a, n ≠ 0 → c = .ok (s1, a) → a.space = 3 ∨ a.space = 4 → Acts (.invr w) 0x52 w s
      { s := ((s1.core a.core).l1Over a).foldl (fun s l =>
          (if a.addr ≤ l.line * 64 && l.line * 64 + 64 ≤ a.addr + a.n then s else s.writeBack a.core l).dropLine a.core l) s1 })) ∧
  (Issues 0x54 w s →
    let x := ctx 0x54 w s
    let t := start s
    let n := w.b.toNat + 1
    ∀ h s1 a s2 bs, (x.res t).handle (w.imm.toNat % 256) = some h → (h.space = 1 ∨ h.space = 2) → h.wr = true → x.off + n ≤ 8 * h.len →
      bitAccess x t .store = .ok (s1, a) → s1.read a = some (s2, bs) →
      ∃ v, Acts (.stbit w) 0x54 w s { s := s2.write a (leBytes a.n v) } ∧
        ∀ i, v.testBit i = if x.off % 8 ≤ i ∧ i < x.off % 8 + n then (x.g w.c).getLsbD (i - x.off % 8) else (number bs).testBit i)

/-- Atomics (R138 to R142): performed at the home, the old value returned; `AMO` goes by the routers where it passes any, and
completes there or on their response.
Where the rules leave a point open, what it says is the model's choice (log entries 15, 20 and 21). -/
def Obligations.Atomics : Prop := ∀ (w : Tolog) (s : State) (i : Instr) (op : Nat),
  (i, op) ∈ [(Instr.amo w, 0x45), (.cas w, 0x46), (.incw w, 0x47), (.faddb w, 0x48)] → Issues op w s →
  let x := ctx op w s
  let n := bytesOf w
  let k := atomicKind op w.c.toNat
  let done (s1 : State) (a : Acc) : Prop := ∃ t old p, atomicDone x s1 a t old p ∧ Acts i op w s
    { s := t, writes := if op = 0x48 then [.g w.d (BitVec.ofNat 64 old), .p w.e.toNat p] else [.g w.d (BitVec.ofNat 64 old)] }
  (Fresh s → ¬ addsFirst x (start s) → ∀ s1 a, access x (start s) n k [1, 2, 3, 4, 5] true = .ok (s1, a) → x.behind (start s) a = false →
    x.held s1 a = false → s1.segsBad a.segs = false → (s1.dropOwn a).segsBad a.segs = false →
    (k = .rmw ∨ a.far = false → done s1 a) ∧
    (k ≠ .rmw → a.far = true → let u : State := { s1 with freeCtr := s1.freeCtr + 1 }
      ∀ f, u.firing x.c x.k = some f → done u a ∨ Routed i x f u a w.c.toNat (BitVec.ofNat 64 ((x.g w.b).toNat % 2 ^ (8 * n))) s)) ∧
  (∀ tag r, (firing s).asked = [tag] → 2 ^ 20 ≤ tag → tag % 1024 = 0 → mget (firing s).replies tag = some r → r.lost = false → r.nack = none →
    r.cause = 0 → op = 0x45 →
    Acts i op w s { s := start s, writes := [.g w.d (BitVec.ofNat 64 (number r.bytes))] })

/-- Counters (R144 to R146, R274, R458): `CADD` adds and saturates at the home; to a far counter it goes by its core's router, or adds at once, and completes
there or on its response; `CREAD` reads, `CWAIT` gives the value and whether the
target is reached, or waits; `CADD.fab` sends its packet.
Where the rules leave a point open, what it says is the model's choice (log entries 15, 20 and 65). -/
def Obligations.CounterInstructions : Prop := ∀ (w : Tolog) (s : State),
  (Issues 0x49 w s →
    let x := ctx 0x49 w s
    let done (s1 : State) (a : Acc) : Prop :=
      let sum := number (s1.homeRead a.key a.place 8) + (x.g w.b).toNat
      let t := s1.homeWrite a.key a.place (leBytes 8 (if 2 ^ 64 ≤ sum then 2 ^ 64 - 1 else sum))
      (sum < 2 ^ 64 → Acts (.cadd w) 0x49 w s { s := t }) ∧
      (2 ^ 64 ≤ sum → Acts (.cadd w) 0x49 w s { s := t.post x.c (overflowRecord (x.res s1).task a.addr (x.g w.b)) })
    (Fresh s → ¬ addsFirst x (start s) → ∀ s1 a, access x (start s) 8 .cadd [1, 2, 3, 4] true = .ok (s1, a) → s1.segsBad a.segs = false →
      (a.far = false → done s1 a) ∧
      (a.far = true → let u : State := { s1 with freeCtr := s1.freeCtr + 1 }
        ∀ f, u.firing x.c x.k = some f → done u a ∨ Routed (.cadd w) x f u a 6 (x.g w.b) s)) ∧
    (∀ tag r, (firing s).asked = [tag] → 2 ^ 20 ≤ tag → tag % 1024 = 0 → mget (firing s).replies tag = some r → r.lost = false → r.nack = none →
      r.cause = 0 → Acts (.cadd w) 0x49 w s { s := start s })) ∧
  (Issues 0x49 w s →
    let x := ctx 0x49 w s
    let t := start s
    let d := x.g w.c
    ∀ h, (x.res t).handle (w.imm.toNat % 256) = some h → h.space = 4 → h.wr = true → t.keyLoaded h.key = true → x.off + 8 ≤ h.len →
      x.off % 8 = 0 → covered (((t.task (x.res t).task).getD {}).admitting .cadd 4 0) 17 (h.base + x.off) 8 = true → d.toNat < 2 ^ 16 →
      torusOk t.pkg.fabid d.toNat = true → (t.core x.c).nic.length < 8 → t.addsPending (x.res t).task = false →
      ∃ p : Packet, p.cls = 3 ∧ p.dpkg = d.toNat ∧ p.key = h.key ∧ p.addr = h.base + x.off ∧ p.val = (x.g w.b).toNat ∧
        Acts (.caddFab w) 0x49 w s { s := t.nicPut x.c (.packet p) }) ∧
  (Issues 0x4B w s →
    let x := ctx 0x4B w s
    ∀ s1 a, access x (start s) 8 .watch [1, 2, 3, 4] true = .ok (s1, a) → x.held s1 a = false → s1.segsBad a.segs = false →
      Acts (.cread w) 0x4B w s { s := s1, writes := [.g w.d (BitVec.ofNat 64 (number (s1.homeRead a.key a.place 8)))] }) ∧
  (Issues 0x4A w s →
    let x := ctx 0x4A w s
    ∀ s1 a, access x (start s) 8 .watch [1, 2, 3, 4] true = .ok (s1, a) → x.held s1 a = false → s1.segsBad a.segs = false →
      let v := BitVec.ofNat 64 (number (s1.homeRead a.key a.place 8))
      ((x.g w.b).toNat ≤ v.toNat → Acts (.cwait w) 0x4A w s { s := s1, writes := [.g w.d v, .p w.e.toNat true] }) ∧
      (v.toNat < (x.g w.b).toNat → x.g w.c = 0 → Acts (.cwait w) 0x4A w s { s := s1, writes := [.g w.d v, .p w.e.toNat false] }) ∧
      (v.toNat < (x.g w.b).toNat → x.g w.c ≠ 0 → exec (.cwait w) s = .next (State.complete x { s := (x.watching s1 a).popAll s.cur.core (pops 0x4A w) }
        (.cwait a.place a.key (x.g w.b) (if (x.g w.c).toNat = 2 ^ 64 - 1 then none else some (s1.clk + (x.g w.c).toNat)) w.d w.e))))

/-- Monitors (R147, R149): `MON` arms one on the line, the 64-entry table evicting its earliest; `MWAIT` gives the least wake code
that holds, disarms, and else waits. An entry of the firing's in the monitor table that is in uncorrectable error raises `POISON` (R181, R208).
Where the rules leave a point open, what it says is the model's choice (log entries 66 and 120). -/
def Obligations.MonitorInstructions : Prop := ∀ (w : Tolog) (s : State),
  (Issues 0x4C w s →
    let x := ctx 0x4C w s
    let t := start s
    ∀ s1 a, t.check x.c (x.res t) x.sid (w.imm.toNat % 256) x.off 1 1 .watch [1, 2, 3, 4] true 0 = .ok (s1, a) →
      let k := s1.core x.c
      ((∃ m ∈ k.monitors, m.slot = x.k ∧ m.bad = true) → ∃ v,
        exec (.mon w) s = .next ({ s1 with freeCtr := s1.freeCtr + 1 }.raiseAfter s.cur.core s.cur.slot 0x16 v 0)) ∧
      ((∀ m ∈ k.monitors, m.slot = x.k → m.bad = false) →
      ((∃ m ∈ k.monitors, m.slot = x.k ∧ m.home = a.place / 64) → Acts (.mon w) 0x4C w s { s := s1 }) ∧
      ((∀ m ∈ k.monitors, ¬ (m.slot = x.k ∧ m.home = a.place / 64)) → k.monitors.length < 64 →
        Acts (.mon w) 0x4C w s { s := s1.setCore x.c { k with monitors := k.monitors ++ [{ home := a.place / 64, slot := x.k, dir := a.dir }] } }) ∧
      ((∀ m ∈ k.monitors, ¬ (m.slot = x.k ∧ m.home = a.place / 64)) → ∀ m ms, k.monitors = m :: ms → 64 ≤ k.monitors.length →
        let j := ({ k with monitors := ms } : Core).evicted m
        Acts (.mon w) 0x4C w s { s := s1.setCore x.c { j with monitors := ms ++ [{ home := a.place / 64, slot := x.k, dir := a.dir }] } }))) ∧
  (Issues 0x4D w s → s.cur.slot < 8 →
    let x := ctx 0x4D w s
    let t := start s
    let ms := (t.core x.c).monitors.filter (·.slot == x.k)
    ((∃ m ∈ ms, m.bad = true) → TrapsOpen (.mwait w) 0x16 s) ∧
    ((∀ m ∈ ms, m.bad = false) → (∀ m ∈ ms, m.registered = true) →
    let code : Option Nat := if x.f.woken ∨ ms.any (·.fired) then some 0 else if x.f.overflow then some 1 else if x.f.restored then some 2
      else if x.g w.a = 0 ∨ ms = [] then some 3 else none
    (∀ n, code = some n → ∃ u, Acts (.mwait w) 0x4D w s { s := u, writes := [.g w.d (BitVec.ofNat 64 n)] } ∧
      (u.core x.c).monitors = (t.core x.c).monitors.filter (·.slot != x.k) ∧ u.mem = t.mem) ∧
    (code = none → exec (.mwait w) s = .next (State.complete x { s := t.popAll s.cur.core (pops 0x4D w) }
      (.mwait (if (x.g w.a).toNat = 2 ^ 64 - 1 then none else some (t.clk + (x.g w.a).toNat)) w.d)))))

/-- Vector integer arithmetic (R159 to R161): the elements of the active lanes. Vector logic, comparison, selection and moves, and
requantisation (R159, R161, R162). -/
def Obligations.VectorIntegers : Prop :=
  (∀ w : Tolog,
  GivesVec (.vadd w) 0x60 w (ew w) (fun x e => el true x w.a (ew w) e + el true x w.b (ew w) e) ∧
  GivesVec (.vsub w) 0x61 w (ew w) (fun x e => el true x w.a (ew w) e - el true x w.b (ew w) e) ∧
  GivesMul (.vmul w) 0x62 w (ew w) (ew w == 32 && m3 w) (fun x e => maySat w (product x w e)) ∧
  GivesMul (.vmulh w) 0x63 w (ew w) (ew w == 32 && m3 w) (fun x e => product x w e / 2 ^ ew w) ∧
  GivesMul (.vmad w) 0x64 w (ew w) (ew w == 32 && m3 w) (fun x e => maySat w (product x w e + el (vn w) x w.c (ew w) e)) ∧
  GivesVec (.vmin w) 0x65 w (ew w) (fun x e =>
    let a := el (vn w) x w.a (ew w) e
    let b := el (vn w) x w.b (ew w) e
    if a ≤ b then a else b) ∧
  GivesVec (.vmax w) 0x66 w (ew w) (fun x e =>
    let a := el (vn w) x w.a (ew w) e
    let b := el (vn w) x w.b (ew w) e
    if a ≤ b then b else a) ∧
  GivesVec (.vabs w) 0x67 w (ew w) (fun x e =>
    let a : Int := (el false x w.a (ew w) e).natAbs
    if vsat w then heldTo false (ew w) a else a) ∧
  GivesVec (.vshl w) 0x6B w (ew w) (fun x e =>
    if vsat w then heldTo (vn w) (ew w) (el (vn w) x w.a (ew w) e * 2 ^ vamount x w e) else el true x w.a (ew w) e * 2 ^ vamount x w e) ∧
  GivesVec (.vshr w) 0x6C w (ew w) (fun x e => el true x w.a (ew w) e / 2 ^ vamount x w e) ∧
  GivesVec (.vsar w) 0x6D w (ew w) (fun x e => el false x w.a (ew w) e / 2 ^ vamount x w e) ∧
  GivesVec (.vadds w) 0x73 w (ew w) (fun x e => heldTo (vn w) (ew w) (el (vn w) x w.a (ew w) e + el (vn w) x w.b (ew w) e)) ∧
  GivesVec (.vsubs w) 0x74 w (ew w) (fun x e => heldTo (vn w) (ew w) (el (vn w) x w.a (ew w) e - el (vn w) x w.b (ew w) e)) ∧
  GivesVec (.vavg w) 0x75 w (ew w) (fun x e => (el (vn w) x w.a (ew w) e + el (vn w) x w.b (ew w) e + 1) / 2) ∧
  GivesVec (.vdot4 w) 0x76 w 32 (fun x i =>
    let p (j : Nat) : Int := el (vn w || m3 w) x w.a 8 (4 * i + j) * el (vn w) x w.b 8 (4 * i + j)
    let t := el (vn w) x w.c 32 i + p 0 + p 1 + p 2 + p 3
    if vsat w then heldTo (vn w) 32 t else t)) ∧
  (∀ w : Tolog,
  GivesVec (.vand w) 0x68 w 32 (fun x e => ((el true x w.a 32 e).toNat &&& (el true x w.b 32 e).toNat : Nat)) ∧
  GivesVec (.vor w) 0x69 w 32 (fun x e => ((el true x w.a 32 e).toNat ||| (el true x w.b 32 e).toNat : Nat)) ∧
  GivesVec (.vxor w) 0x6A w 32 (fun x e => ((el true x w.a 32 e).toNat ^^^ (el true x w.b 32 e).toNat : Nat)) ∧
  GivesVec (.vclz w) 0x6E w (ew w) (fun x e => (lead (ew w) (el true x w.a (ew w) e).toNat : Nat)) ∧
  GivesVec (.vpopc w) 0x6F w (ew w) (fun x e => ((List.range (ew w)).countP fun j => (x.v w.a).getLsbD (e * ew w + j) : Nat)) ∧
  GivesVec (.vcmp w) 0x70 w (ew w) (fun x e => if vcond (w.mod.toNat / 8 % 8) (vn w) x w e then -1 else 0) ∧
  GivesVec (.vsel w) 0x71 w (ew w) (fun x e =>
    if (x.v w.c).getLsbD (e * ew w + ew w - 1) then el true x w.a (ew w) e else el true x w.b (ew w) e) ∧
  GivesVec (.vmov w) 0x77 w (ew w) (fun x e => if w.len = 0 then el true x w.a (ew w) e else (w.imm.toNat : Int)) ∧
  GivesVec (.viota w) 0x7E w (ew w) (fun x e => (x.g w.a).toNat + e) ∧
  (∀ s, Issues 0x72 w s →
    let x := ctx 0x72 w s
    let c := (x.g w.c).toNat
    let n := if m3 w then 4 else 8
    let o := if m3 w then 4 * (c / 2 ^ 16 % 8) else 8 * (c / 2 ^ 16 % 4)
    ∃ y m, (∀ i, i < x.f.lanes → i < 256 →
        (m.extractLsb' (32 * i) 32).toNat = (if x.active.getLsbD i then (2 ^ n - 1) * 2 ^ o else 0) ∧
        (x.active.getLsbD i = true →
          let p := el false x w.a 32 i * el false x w.b 32 i
          let q := if c % 64 = 0 then p else (p + 2 ^ (c % 64 - 1)) / 2 ^ (c % 64)
          ((y.extractLsb' (32 * i + o) n).toNat : Int) = heldTo (vn w) n (q + fieldNum false 8 (c / 256 % 256)) % 2 ^ n)) ∧
      Acts (.vrq w) 0x72 w s { s := start s, writes := [.v w.d.toNat y m] }))

/-- Elements, reductions, scans and lane masks (R164 to R166). -/
def Obligations.VectorReductions : Prop := ∀ w : Tolog,
  Gives (.vext w) 0x78 w (fun x _ => [.g w.d (low (el (vn w) x w.a (ew w) ((x.g w.b).toNat % (x.f.lanes * 32 / ew w))))]) ∧
  (∀ s, Issues 0x79 w s →
    let x := ctx 0x79 w s
    let o := (x.g w.b).toNat % (x.f.lanes * 32 / ew w) * ew w
    ∃ y m, (∀ j, j < 8192 → m.getLsbD j = decide (o ≤ j ∧ j < o + ew w) ∧ (o ≤ j → j < o + ew w → y.getLsbD j = (x.g w.a).getLsbD (j - o))) ∧
      Acts (.vins w) 0x79 w s { s := start s, writes := [.v w.d.toNat y m] }) ∧
  (∀ s, Issues 0x7A w s → (ctx 0x7A w s).f.lanes ≤ 256 →
    let op := w.mod.toNat / 8 % 8
    ∃ v, Reduced op (vn w || decide (3 ≤ op)) (ctx 0x7A w s) w.a (ew w) (activeBelow (ctx 0x7A w s) (ew w) ((ctx 0x7A w s).f.lanes * 32 / ew w)) v ∧
      Acts (.vred w) 0x7A w s { s := start s, writes := [.g w.d (low v)] }) ∧
  (∀ s, Issues 0x7B w s → (ctx 0x7B w s).f.lanes ≤ 256 →
    ∃ f : Nat → Int, (∀ e, Reduced (w.mod.toNat / 8 % 4) (vn w) (ctx 0x7B w s) w.a (ew w)
        (activeBelow (ctx 0x7B w s) (ew w) (if w.mod.getLsbD 5 then e else e + 1)) (f e)) ∧
      ∃ ws, Elements (ctx 0x7B w s) (ew w) f ws ∧ Acts (.vscan w) 0x7B w s { s := start s, writes := ws }) ∧
  GivesMask (.klog w) 0x7C w (fun x i => w.mod.getLsbD ((if (x.km w.a).getLsbD i then 2 else 0) + (if (x.km w.b).getLsbD i then 1 else 0))) ∧
  GivesMask (.klogFromv w) 0x7C w (fun x i => (x.v w.a).getLsbD (32 * i + 31)) ∧
  Gives (.kpopc w) 0x7D w (fun x _ => [.g w.d (BitVec.ofNat 64 ((List.range x.f.lanes).countP fun i => (x.km w.a).getLsbD i))])

/-- Floating arithmetic (R167, R168): every active element is the exact result of its decoded operands, rounded once; the flags
are those of all active elements together. `decode` gives each code the value of its format (R47, R49, R57); products, quotients and sums are exact (R56, R65);
the elementary functions give what R168's tables fix, and the roots round as the exact root does.
Where the rules leave a point open, what it says is the model's choice (log entries 13, 14 and 46). -/
def Obligations.FloatArithmetic : Prop :=
  DecodesCodes ∧ ExactProducts ∧ ExactSums ∧ SpecialResults ∧ SpecialExact ∧ SpecialRoots ∧ ∀ w : Tolog,
  GivesFloat (.vfadd w) 0x80 w (fun x e => rounded x w (plus x w (fel x w w.a e) (fel x w w.b e))) ∧
  GivesFloat (.vfsub w) 0x81 w (fun x e => rounded x w (plus x w (fel x w w.a e) (fel x w w.b e).flip)) ∧
  GivesFloat (.vfmul w) 0x82 w (fun x e => rounded x w ((fel x w w.a e).mul (fel x w w.b e))) ∧
  GivesFloat (.vfma w) 0x83 w (fun x e =>
    let p := (fel x w w.a e).mul (fel x w w.b e)
    let t := plus x w p.1 (fel x w w.c e)
    rounded x w (t.1, p.2 ||| t.2)) ∧
  GivesFloat (.vfmin w) 0x84 w (fun x e =>
    let a := fel x w w.a e
    let b := fel x w w.b e
    unrounded x w (if a.isNan ∨ b.isNan then .nan else if b.lt true a then b else a)) ∧
  GivesFloat (.vfmax w) 0x85 w (fun x e =>
    let a := fel x w w.a e
    let b := fel x w w.b e
    unrounded x w (if a.isNan ∨ b.isNan then .nan else if a.lt true b then b else a)) ∧
  GivesFloat (.vfneg w) 0x86 w (fun x e =>
    let a := fel x w w.a e
    unrounded x w (if rfield w = 0 ∨ (rfield w = 1 ∧ a.neg) ∨ (rfield w = 2 ∧ ¬ a.neg) then a.flip else a)) ∧
  GivesFloat (.vfcmp w) 0x87 w (fun x e =>
    let a := fel x w w.a e
    let b := fel x w w.b e
    let holds : Bool := if a.isNan ∨ b.isNan then rfield w == 1 || rfield w == 6
      else match rfield w with
        | 0 => a.same b
        | 1 => !a.same b
        | 2 => a.lt false b
        | 3 => a.lt false b || a.same b
        | 4 => b.lt false a
        | 5 => b.lt false a || a.same b
        | _ => false
    (if holds then 2 ^ fwidth w - 1 else 0, 0)) ∧
  GivesFloat (.vfdiv w) 0x88 w (fun x e => rounded x w ((fel x w w.a e).div (fel x w w.b e))) ∧
  GivesFloat (.vfsqrt w) 0x89 w (fun x e => rounded x w (Special.sqrt.eval (fel x w w.a e))) ∧
  GivesFloat (.vfrsq w) 0x8A w (fun x e => rounded x w (Special.rsq.eval (fel x w w.a e))) ∧
  GivesFloat (.vfrcp w) 0x8B w (fun x e => rounded x w (Special.rcp.eval (fel x w w.a e))) ∧
  GivesFloat (.vfexp2 w) 0x8C w (fun x e => rounded x w (Special.exp2.eval (fel x w w.a e))) ∧
  GivesFloat (.vflog2 w) 0x8D w (fun x e => rounded x w (Special.log2.eval (fel x w w.a e))) ∧
  GivesFloat (.vftrig w) 0x8E w (fun x e => rounded x w ((if w.b = 0 then Special.sinpi else Special.cospi).eval (fel x w w.a e))) ∧
  GivesFloat (.vftanh w) 0x8F w (fun x e => rounded x w (Special.tanh.eval (fel x w w.a e))) ∧
  GivesFloat (.vfsig w) 0x90 w (fun x e => rounded x w (Special.sig.eval (fel x w w.a e))) ∧
  GivesFloat (.vfscale w) 0x94 w (fun x e =>
    match fel x w w.a e with
    | .fin n p q => rounded x w ((Ex.fin n p q).scale (el false x w.b (fwidth w) e), 0)
    | .inf n => (((if n then 2 ^ (fwidth w - 1) else 0) + (fmtOf (fmt w)).maxCode + 1 : Nat), 0)
    | .nan => (((fmtOf (fmt w)).nan).getD 0, 0)) ∧
  GivesFloat (.vfclass w) 0x96 w (fun x e =>
    let v := ((x.v w.a).extractLsb' (e * fwidth w) (fwidth w)).toNat
    let neg := v.testBit (fwidth w - 1)
    let mag := v % 2 ^ (fwidth w - 1)
    let f := fmtOf (fmt w)
    (if f.maxCode + 1 < mag then 256
     else if mag = f.maxCode + 1 then (if neg then 1 else 128)
     else if mag = 0 then (if neg then 8 else 16)
     else if mag < 2 ^ f.mant then (if neg then 4 else 32)
     else if neg then 2 else 64, 0))

/-- Floating conversions (R170): each element by `convert` or `to_int` in its place; `VFUNPK` is exact; a stochastic conversion draws
once for each active element. `convert` and `to_int` take the neighbour that the mode asks for, with the overflow, the flush and the flags of R54, R58, R60, R63 to R66.
Where the rules leave a point open, what it says is the model's choice (log entry 46). -/
def Obligations.FloatConversions : Prop :=
  RoundsFinite ∧ RoundsSpecial ∧ RoundsToInteger ∧ ∀ (w : Tolog) (s : State),
  (Issues 0x91 w s →
    let x := ctx 0x91 w s
    let sw := (fmtOf w.b.toNat).width
    let ns := x.f.lanes * 32 / sw
    let nd := x.f.lanes * 32 / fwidth w
    let q := w.c.toNat
    let src (e : Nat) : Ex := decodeF w.b.toNat (ftz x) ((x.v w.a).extractLsb' (e * sw) sw).toNat
    let f (d : Nat) (v : Ex) : Nat × BitVec 7 := convertF (fmt w) (cmode x w) (vsat w) (ftz x) d v
    (nd ≤ ns → Converts (.vfcvt w) 0x91 w s (cmode x w == 5) (fwidth w) nd (fun e => e * fwidth w) (fun e => e * fwidth w / 32) (fun e => src (q * nd + e)) f) ∧
    (ns < nd → Converts (.vfcvt w) 0x91 w s (cmode x w == 5) (fwidth w) ns (fun e => (q * ns + e) * fwidth w) (fun e => (q * ns + e) * fwidth w / 32) src f)) ∧
  (Issues 0x92 w s →
    let x := ctx 0x92 w s
    let t := w.b.toNat % 8
    let iw := if t ≤ 1 then 32 else if t ≤ 3 then 16 else 8
    let u : Bool := t % 2 == 1
    let ni := x.f.lanes * 32 / iw
    let nf := x.f.lanes * 32 / fwidth w
    let q := w.c.toNat
    let int (e : Nat) : Ex := exInt (el u x w.a iw e)
    let toF (d : Nat) (v : Ex) : Nat × BitVec 7 := convertF (fmt w) (cmode x w) (vsat w) (ftz x) d v
    let toI (d : Nat) (v : Ex) : Nat × BitVec 7 := toIntF iw u (cmode x w) d v
    (w.b.getLsbD 3 = true → ni ≤ nf → Converts (.vicvt w) 0x92 w s (cmode x w == 5) iw ni (fun e => e * iw) (fun e => e * iw / 32) (fun e => fel x w w.a (q * ni + e)) toI) ∧
    (w.b.getLsbD 3 = true → nf < ni → Converts (.vicvt w) 0x92 w s (cmode x w == 5) iw nf (fun e => (q * nf + e) * iw) (fun e => (q * nf + e) * iw / 32) (fel x w w.a) toI) ∧
    (w.b.getLsbD 3 = false → nf ≤ ni → Converts (.vicvt w) 0x92 w s (cmode x w == 5) (fwidth w) nf (fun e => e * fwidth w) (fun e => e * fwidth w / 32) (fun e => int (q * nf + e)) toF) ∧
    (w.b.getLsbD 3 = false → ni < nf → Converts (.vicvt w) 0x92 w s (cmode x w == 5) (fwidth w) ni (fun e => (q * ni + e) * fwidth w) (fun e => (q * ni + e) * fwidth w / 32) int toF)) ∧
  (Issues 0x98 w s →
    let x := ctx 0x98 w s
    Converts (.vfpack w) 0x98 w s (cmode x w == 5) (fwidth w) x.f.lanes (fun e => (w.c.toNat * x.f.lanes + e) * fwidth w) (fun e => e)
      (fun e => decodeF 0 (ftz x) ((x.v w.a).extractLsb' (e * 32) 32).toNat) (fun d v => convertF (fmt w) (cmode x w) (vsat w) (ftz x) d v)) ∧
  (Issues 0x99 w s →
    let x := ctx 0x99 w s
    Converts (.vfunpk w) 0x99 w s false 32 x.f.lanes (fun e => e * 32) (fun e => e)
      (fun e => decodeF (fmt w) false ((x.v w.a).extractLsb' ((w.c.toNat * x.f.lanes + e) * fwidth w) (fwidth w)).toNat)
      (fun _ v => ((convertF 0 0 (vsat w) false 0 v).1, 0)))

/-- The floating reduction, the MX dot product and the merge of attention triples (R169, R171 to R173): the reduction's flags are those of every node of its tree, the
blocks of a dot product are exact sums rounded once, and a merge's components exact sums of the kept terms.
Where the rules leave a point open, what it says is the model's choice (log entry 119). -/
def Obligations.FloatReductions : Prop :=
  ExactExponents ∧ DotBlocks ∧ MergesTriples ∧ ∀ (w : Tolog) (s : State),
  (Issues 0x95 w s →
    let x := ctx 0x95 w s
    let n := x.f.lanes * 32 / fwidth w
    let on (e : Nat) : Bool := x.active.getLsbD (e * fwidth w / 32)
    let node : Nat → Nat → Ex := treeNode (fun a b => decodeF (fmt w) (ftz x) (rounded x w (plus x w a b)).1) (fun e => if on e then fel x w w.a e else .fin true 0 1)
    (∀ k, n = 2 ^ k → w.b = 0 → ∃ fl,
      (∀ j, j < 7 → (fl.getLsbD j = true ↔ (rounded x w (node k 0, 0)).2.getLsbD j = true ∨
        ∃ l, l < k ∧ ∃ i, i < 2 ^ (k - 1 - l) ∧ (rounded x w (plus x w (node l (2 * i)) (node l (2 * i + 1)))).2.getLsbD j = true)) ∧
      Acts (.vfred w) 0x95 w s { s := start s, flags := fl, writes := [.g w.d (BitVec.ofNat 64 (rounded x w (node k 0, 0)).1)] }) ∧
    (∀ k, n = 2 ^ k → w.b = 1 → Acts (.vfred w) 0x95 w s
      { s := start s, flags := (unrounded x w (treeNode exMin (fun e => if on e then fel x w w.a e else .inf false) k 0)).2,
        writes := [.g w.d (BitVec.ofNat 64 (unrounded x w (treeNode exMin (fun e => if on e then fel x w w.a e else .inf false) k 0)).1)] }) ∧
    (∀ k, n = 2 ^ k → w.b = 2 → Acts (.vfred w) 0x95 w s
      { s := start s, flags := (unrounded x w (treeNode exMax (fun e => if on e then fel x w w.a e else .inf true) k 0)).2,
        writes := [.g w.d (BitVec.ofNat 64 (unrounded x w (treeNode exMax (fun e => if on e then fel x w w.a e else .inf true) k 0)).1)] })) ∧
  (Issues 0x93 w s →
    let x := ctx 0x93 w s
    let p := (x.g w.e).toNat
    let bs := 8 * 2 ^ (p / 2 ^ 16 % 4)
    let sf := p / 2 ^ 18 % 4
    let nb := p / 2 ^ 20 % 256
    let bad := p / 2 ^ 16 % 4 = 3 ∨ sf = 3 ∨ 64 < nb ∨ 32 * x.f.lanes < nb * bs * fwidth w ∨ p / 2 ^ 28 ≠ 0
    let sc (i : Nat) : Ex := decodeScale sf ((x.v w.c).extractLsb' (i * 8) 8).toNat
    let a (r : BitVec 6) (i : Nat) : Ex := decodeF (fmt w) false ((x.v r).extractLsb' (i * fwidth w) (fwidth w)).toNat
    let out := mxBlocks (fmt w) bs (amode x w) (ftz x) (a w.a) (a w.b) sc (fun j => sc (64 + j)) 0 nb 0 0 false
    let m := (decodeF 0 (ftz x) out.1).mul (decodeF 1 (ftz x) (p % 2 ^ 16))
    let r := convertF 0 (amode x w) false (ftz x) 0 m.1
    (bad → Acts (.vfdotmx w) 0x93 w s { s := start s, writes := [.g w.d 0x7FC00000], flags := 0x10 }) ∧
    (¬ bad → out.2.2 = false → Acts (.vfdotmx w) 0x93 w s { s := start s, writes := [.g w.d (BitVec.ofNat 64 r.1)], flags := out.2.1 ||| (r.2 ||| m.2) }) ∧
    (¬ bad → out.2.2 = true → x.f.fmode.getLsbD 6 = false → Acts (.vfdotmx w) 0x93 w s
      { s := (start s).countSuspect x.c, writes := [.g w.d (BitVec.ofNat 64 r.1)], flags := out.2.1 ||| (r.2 ||| m.2) ||| 0x40 }) ∧
    (¬ bad → out.2.2 = true → x.f.fmode.getLsbD 6 = true → Traps (.vfdotmx w) 0x93 w 0x22 (fun _ => 0) s)) ∧
  (Issues 0x97 w s →
    let x := ctx 0x97 w s
    let t (r : BitVec 6) (i k : Nat) : Ex := decodeF 0 (ftz x) ((x.f.rv (r.toNat + k)).extractLsb' (i * 32) 32).toNat
    let out (i : Nat) := triMerge (x.f.fmode.getLsbD 7) (amode x w) (ftz x) (t w.a i 0) (t w.a i 1) (t w.b i 0) (t w.b i 1) [(t w.a i 2, t w.b i 2)]
    ∃ y0 y1 y2 m fl,
      (∀ i, i < x.f.lanes → i < 256 → m.extractLsb' (32 * i) 32 = (if x.active.getLsbD i then BitVec.allOnes 32 else 0) ∧
        (x.active.getLsbD i = true → (y0.extractLsb' (32 * i) 32).toNat = (out i).1.1 % 2 ^ 32 ∧ (y1.extractLsb' (32 * i) 32).toNat = (out i).1.2.1 % 2 ^ 32 ∧
          (y2.extractLsb' (32 * i) 32).toNat = ((out i).1.2.2.headD 0) % 2 ^ 32)) ∧
      Flagged x 32 x.f.lanes (fun i => (out i).2) fl ∧
      Acts (.vftri w) 0x97 w s { s := start s, flags := fl,
                                 writes := [.v w.d.toNat y0 m, .v (w.d.toNat + 1) y1 m, .v (w.d.toNat + 2) y2 m] })

/-- Vector loads and stores through a handle (R174, R175): every active lane is checked first and the lowest lane's fault is the
instruction's; then the lanes are performed, and a load's lanes are extended.
Where the rules leave a point open, what it says is the model's choice (log entries 20, 128 and 135). -/
def Obligations.VectorMemory : Prop := ∀ (w : Tolog) (s : State),
  (Issues 0xA0 w s → Loads (.vld w) 0xA0 w seqOff s ∧ LaneFault (.vld w) 0xA0 w (bytesOf w) .load false seqOff s) ∧
  (Issues 0xA1 w s → Stores (.vst w) 0xA1 w w.b seqOff s ∧ LaneFault (.vst w) 0xA1 w (bytesOf w) .store false seqOff s) ∧
  (Issues 0xA2 w s → Loads (.vlds w) 0xA2 w (fun x => strideOff x (x.g w.b)) s ∧
    LaneFault (.vlds w) 0xA2 w (bytesOf w) .load false (fun x => strideOff x (x.g w.b)) s) ∧
  (Issues 0xA3 w s → Stores (.vsts w) 0xA3 w w.b (fun x => strideOff x (x.g w.c)) s ∧
    LaneFault (.vsts w) 0xA3 w (bytesOf w) .store false (fun x => strideOff x (x.g w.c)) s) ∧
  (Issues 0xA4 w s → Loads (.vgath w) 0xA4 w idxOff s ∧ LaneFault (.vgath w) 0xA4 w (bytesOf w) .load false idxOff s) ∧
  (Issues 0xA5 w s → Stores (.vscat w) 0xA5 w w.c idxOff s ∧ LaneFault (.vscat w) 0xA5 w (bytesOf w) .store false idxOff s)

/-- Lane slices and bit addresses (R96, R176, R177): the offset's checks, with `TRAPVAL` in the bit-address form, then each active lane reads or
writes its own place; a store of bits changes no other bit of its bytes. Vector atomics (R179), the bit-address registers (R178) and the
permutes (R180).
Where the rules leave a point open, what it says is the model's choice (log entries 47, 130 and 134). -/
def Obligations.LanesAndPermutes : Prop :=
  (∀ (w : Tolog) (s : State),
  (∀ i op, (i, op) ∈ [(Instr.vldl w, 0xA8), (.vstl w, 0xA9)] → Issues op w s →
    let x := ctx op w s
    let t := start s
    let n := bytesOf w
    let b := (low (x.g w.a).toInt + low (fieldNum false 24 (w.imm.toNat / 256 % 2 ^ 24))).toNat
    let val : Word := BitVec.ofNat 64 (2 ^ 64 - 2 ^ 40 + b * 8 % 2 ^ 25)
    let at_ (i : Nat) : Nat := Loc.slice (x.laneCore i) (i % 32) ((x.laneRes t i).slBase + b)
    (∀ l ls, lanesOn x = l :: ls → (x.res t).slSize < b + n → exec i s = .next (t.raiseAfter x.c x.k 0x10 val (l / 32))) ∧
    (∀ l ls, lanesOn x = l :: ls → b + n ≤ (x.res t).slSize → b % n ≠ 0 → exec i s = .next (t.raiseAfter x.c x.k 0x15 val (l / 32))) ∧
    (b + n ≤ (x.res t).slSize → b % n = 0 →
      (op = 0xA8 → (∀ l ∈ lanesOn x, t.isBad (at_ l) n = false) → ∃ ws, Elements x 32 (fun i => fieldNum (!w.mod.getLsbD 3) (8 * n) (number (memRead t.mem (at_ i) n))) ws ∧
        Acts i op w s { s := t, writes := ws }) ∧
      (op = 0xA9 → Acts i op w s { s := (lanesOn x).foldl (fun v l => v.homeWrite 0 (at_ l) (leBytes n (laneOf x w.b l))) t }))) ∧
  (∀ i op, (i, op) ∈ [(Instr.vldb w, 0xA6), (.vstb w, 0xA7)] → Issues op w s →
    let x := ctx op w s
    let t := start s
    let n := w.b.toNat + 1
    let ba := (x.ba w.a).toNat
    let o (l : Nat) : Nat := ba % 2 ^ 25 + l * (w.imm.toNat % 2 ^ 16)
    let at_ (l : Nat) : Option (List Nat) := bitPlaces x t (ba / 2 ^ 38) l (o l / 8) ((o l % 8 + n + 7) / 8)
    (∀ l ls, lanesOn x = l :: ls → (ba / 2 ^ 25 % 2 ^ 13 ≠ 0 ∨ at_ l = none) →
      exec i s = .next (t.raiseAfter x.c x.k 0x10 (BitVec.ofNat 64 (2 ^ 64 - 2 ^ 40 + ba)) (l / 32))) ∧
    (∀ ps : Nat → List Nat, ba / 2 ^ 25 % 2 ^ 13 = 0 → (∀ l ∈ lanesOn x, at_ l = some (ps l) ∧ ∀ p ∈ ps l, t.isBad p 1 = false) →
      (op = 0xA6 → (t.core x.c).monPending x.k ((lanesOn x).flatMap fun l => (ps l).map (· / 64)) = false → ∃ ws, Elements x 32 (fun l => fieldNum (!w.mod.getLsbD 3) n (bitsOf (number ((ps l).map (memGet t.mem))) (o l % 8) n)) ws ∧
        Acts i op w s { s := t, writes := ws }) ∧
      (op = 0xA7 → ∃ v : State → Nat → Nat, (∀ u l j, (v u l).testBit j =
          if o l % 8 ≤ j ∧ j < o l % 8 + n then (laneOf x w.c l).testBit (j - o l % 8) else (number ((ps l).map (memGet u.mem))).testBit j) ∧
        Acts i op w s { s := (lanesOn x).foldl (fun u l => putAt u (ps l) (v u l)) t })))) ∧
  (∀ w : Tolog,
  (∀ s, Issues 0xB1 w s → ¬ addsFirst (ctx 0xB1 w s) (start s) → LaneFault (.vamo w) 0xB1 w 4 (if w.c = 6 then .rmw else .accum) true idxOff s ∧
    let x := ctx 0xB1 w s
    let ends (t : State) (f : Firing) : Prop := (∀ i ∈ lanesOn x, (laneOld f i).isSome = true) →
      ∃ ws, Elements x 32 (fun i => ((laneOld f i).getD 0 : Nat)) ws ∧ Acts (.vamo w) 0xB1 w s { s := t, writes := ws }
    (Fresh s → ∀ as t, laneAccs x 4 (if w.c = 6 then .rmw else .accum) true (idxOff x) (start s) (lanesOn x) as t → ∃ buffered meets : Bool,
      ∀ u f, laneAtomics x buffered meets { t with freeCtr := t.freeCtr + 1 } as u → u.firing x.c x.k = some f →
        ends u f ∧ ((∃ i ∈ lanesOn x, laneWaits f i) → exec (.vamo w) s = .next (u.retry x.c x.k))) ∧
    (lanesOn x ≠ [] → ends (start s) (firing s))) ∧
  Gives (.bamov w) 0xB2 w (fun x _ => [.ba w.d.toNat (BitVec.ofNat 40
    (if w.len = 0 then (x.g w.a).toNat else w.imm.toNat / 2 ^ 30 % 4 * 2 ^ 38 + w.imm.toNat % 2 ^ 25))]) ∧
  Gives (.bamovRd w) 0xB2 w (fun x _ => [.g w.d (BitVec.ofNat 64 (x.ba w.a).toNat)]) ∧
  Gives (.baadd w) 0xB3 w (fun x _ =>
    let a := (x.ba w.a).toNat
    [.ba w.d.toNat (BitVec.ofNat 40 (a / 2 ^ 25 * 2 ^ 25 + (a + (if w.len = 0 then (x.g w.b).toNat else w.imm.toNat % 2 ^ 32)) % 2 ^ 25))]) ∧
  (let count (x : Ctx) : Nat := x.f.lanes * 32 / ew w
   GivesVec (.vperm w) 0xAA w (ew w) (fun x e => el true x w.a (ew w) ((el true x w.b (ew w) e).toNat % count x)) ∧
   GivesVec (.vrot w) 0xAB w (ew w) (fun x e => el true x w.a (ew w) ((e + (x.g w.b).toNat) % count x)) ∧
   GivesVec (.vzip w) 0xAC w (ew w) (fun x e => el true x (if e % 2 = 0 then w.a else w.b) (ew w) (e / 2 + w.c.toNat * (count x / 2))) ∧
   GivesVec (.vuzp w) 0xAD w (ew w) (fun x e =>
     if e < count x / 2 then el true x w.a (ew w) (2 * e + w.c.toNat) else el true x w.b (ew w) (2 * (e - count x / 2) + w.c.toNat)) ∧
   GivesVec (.vbcast w) 0xAE w (ew w) (fun x _ =>
     if m3 w then el true x w.a (ew w) ((x.g w.b).toNat % count x) else ((x.g w.a).toNat : Int))) ∧
  GivesVec (.vcomp w) 0xAF w 32 (fun x e =>
    (((((List.range x.f.lanes).filter fun i => (x.km w.b).getLsbD i)[e]?).map (laneOf x w.a)).getD 0 : Nat)) ∧
  (∀ s, Issues 0xB0 w s →
    let x := ctx 0xB0 w s
    ∃ y m, (∀ i, i < x.f.lanes → i < 256 → m.extractLsb' (32 * i) 32 = (if (x.km w.b).getLsbD i then BitVec.allOnes 32 else 0) ∧
        ((x.km w.b).getLsbD i = true →
          (y.extractLsb' (32 * i) 32).toNat = laneOf x w.a ((List.range i).countP fun j => (x.km w.b).getLsbD j))) ∧
      Acts (.vexpd w) 0xB0 w s { s := start s, writes := [.v w.d.toNat y m] }))

/-- The instructions that append an entry to the array's chain or the copy engine's (R217 to R219, R232, R239, R240).
Where the rules leave a point open, what it says is the model's choice (log entries 39 and 52). -/
def Obligations.EngineAppends : Prop := ∀ w : Tolog,
  (let address (x : Ctx) : Nat := (low ((x.g w.a).toInt + fieldNum false 32 (w.imm.toNat % 2 ^ 32))).toNat
   let rm := w.mod.toNat / 4 % 8
   let sat := w.mod.getLsbD 1
   let dst (x : Ctx) : Nat := w.imm.toNat % 256 * 2 ^ 56 + (x.g w.a).toNat % 2 ^ 56
   let src (x : Ctx) : Nat := w.imm.toNat / 256 % 256 * 2 ^ 56 + (x.g w.b).toNat % 2 ^ 56
   Appends (.mwld w) 0xC0 w true 0x01 (fun x => { w1 := address x }) ∧
   Appends (.mswap w) 0xC1 w true 0x02 (fun _ => { ret := false }) ∧
   Appends (.mstrm w) 0xC2 w true 0x03 (fun x => { x := w.mod.getLsbD 0, w1 := address x, w2 := (x.g w.b).toNat }) ∧
   Appends (.mdrain w) 0xC3 w true 0x04 (fun x =>
     { rm := rm, sat := sat, x := w.mod.getLsbD 0, w1 := address x, w2 := (x.g w.b).toNat, w3 := (x.g w.c).toNat }) ∧
   Appends (.mzero w) 0xC4 w true 0x05 (fun _ => { w2 := w.b.toNat * 256 }) ∧
   Appends (.mspmap w) 0xC5 w true 0x06 (fun x => { x := w.mod.getLsbD 0, w1 := (x.g w.a).toNat, w3 := w.imm.toNat % 2 ^ 32 }) ∧
   Appends (.cpy w) 0xC6 w false 0x10 (fun x => { rm := rm, sat := sat, w1 := dst x, w2 := src x, w3 := (x.g w.c).toNat }) ∧
   Appends (.cpy2d w) 0xC7 w false 0x11 (fun x =>
     { rm := rm, sat := sat, w1 := dst x, w2 := src x, w5 := w.imm.toNat / 2 ^ 16 % 2 ^ 20 + w.imm.toNat / 2 ^ 36 % 2 ^ 12 * 2 ^ 20, w6 := (x.g w.c).toNat }))

/-- Chain control (R223, R226): `CHTAIL` clears a halt, so that the faulted entry continues from its prefix or, with `.skip`, completes with status `SKIP` and a
record, and advances the tail by the entries written after it; `CHSEQ` gives the completed
sequence or the halted entry, `CHWAIT` waits for a sequence number or a halt.
Where the rules leave a point open, what it says is the model's choice (log entries 51 and 131). -/
def Obligations.ChainControl : Prop := ∀ (w : Tolog) (s : State),
  (Issues 0xC8 w s →
    let x := ctx 0xC8 w s
    let t := start s
    let arr := !w.mod.getLsbD 0
    ∀ r, t.resident x.c x.f.rti = some r →
      let ch := chainOf r arr
      let n := (x.g w.a).toNat
      (arr = true → r.arr = false → Traps (.chtail w) 0xC8 w 0x12 (fun _ => 0) s) ∧
      ((arr = true → r.arr = true) → ch.room < n → Traps (.chtail w) 0xC8 w 0x08 (fun _ => if arr then 0x120 else 0x121) s) ∧
      let skip := w.mod.getLsbD 1
      ((arr = true → r.arr = true) → n ≤ ch.room → ∃ u q v new, Acts (.chtail w) 0xC8 w s { s := u } ∧ u.resident x.c x.f.rti = some q ∧
        Unhalted skip ch v ∧ Published t x.c r arr n new ∧ chainOf q arr = { v with tail := ch.tail + n, tags := v.tags ++ new } ∧
        (n = 0 → u.mem = t.mem) ∧ (n = 0 → ch.halted = none → u = t) ∧
        (∀ m g, ch.halted = some m → ch.tags.find? (·.seq == m) = some g → skip = true →
          (∃ e : EvRecord, (u.core x.c).evq ++ (u.core x.c).evHeld = (t.core x.c).evq ++ (t.core x.c).evHeld ++ [e] ∧ part e.w0 63 48 = 0x010B ∧
            part e.w0 47 44 = (if arr then 0 else 1) ∧ part e.w0 31 0 = r.task % 2 ^ 32 ∧ e.w1 = BitVec.ofNat 64 g.seq ∧ e.w2 = BitVec.ofNat 64 g.done) ∧
          (arr = false → ∀ y ∈ r.achain.tags, y.folDone = false → slotWord t x.c r.achain y.seq 5 = m →
            ∃ z ∈ q.achain.tags, z.seq = y.seq ∧ z.skipped = true)))) ∧
  (Issues 0xC9 w s →
    let x := ctx 0xC9 w s
    let r := x.res (start s)
    let arr := !w.mod.getLsbD 0
    let ch := chainOf r arr
    Acts (.chseq w) 0xC9 w s { s := start s, writes := [.g w.d
      (if arr && !r.arr then 0 else BitVec.ofNat 64 (if w.mod.getLsbD 1 then ch.halted.getD 0 else ch.done))] }) ∧
  (Issues 0xCA w s →
    let x := ctx 0xCA w s
    let r := x.res (start s)
    let arr := !w.mod.getLsbD 0
    let ch := chainOf r arr
    let done : Bool := (arr && !r.arr) || decide ((x.g w.a).toNat ≤ ch.done) || ch.halted.isSome
    (done = true → Acts (.chwait w) 0xCA w s { s := start s }) ∧
    (done = false → exec (.chwait w) s = .next (State.complete x { s := (start s).popAll s.cur.core (pops 0xCA w) }
      (.chwait (if arr then 0 else 1) (x.g w.a)))))

/-- The core's units (R187, R188, R204, R206, R208, R226): crossbar registers, bank formats, helper wake causes and the task's records of
the event queue.
Where the rules leave a point open, what it says is the model's choice (log entries 87, 120 and 132). -/
def Obligations.CoreUnits : Prop := ∀ (w : Tolog) (s : State),
  (Issues 0xCB w s →
    let x := ctx 0xCB w s
    let t := start s
    let i := w.imm.toNat % 256
    let v := x.g w.a
    let k := t.core x.c
    ((x.res t).xbar = false ∨ 0x29 ≤ i ∨ (i < 16 ∧ (v.toNat / 2 ^ 22 ≠ 0 ∨ v.toNat / 2 ^ 8 % 2 ^ 8 = 0)) ∨ (i = 0x28 ∧ 2 ^ 32 ≤ v.toNat) ∨
      (24 ≤ i ∧ i < 0x28 ∧ (v.toNat / 2 ^ 16 ≠ 0 ∨ v.toNat / 2 ^ 2 % 2 ^ 4 ≠ 0)) ∨ (24 ≤ i ∧ i < 28 ∧ (v.toNat / 2 ^ 6 % 2 ^ 6 ≠ 0 ∨ v.toNat % 2 ^ 2 ≠ 0)) ∨
      (28 ≤ i ∧ i < 0x28 ∧ ∀ q, t.actorOf x.c (x.res t).task (v.toNat / 2 ^ 6 % 2 ^ 6) = some q → ∀ c ∈ q.2.ins, c.ch ≠ v.toNat % 2 ^ 2) →
      Traps (.xbarw w) 0xCB w 0x08 (fun _ => BitVec.ofNat 64 i) s) ∧
    (∀ h : i < 16, (x.res t).xbar = true → v.toNat / 2 ^ 22 = 0 → v.toNat / 2 ^ 8 % 2 ^ 8 ≠ 0 →
      Acts (.xbarw w) 0xCB w s { s := t.setCore x.c { k with xbar := { k.xbar with counters := k.xbar.counters.set i v } } }) ∧
    (∀ h : i - 16 < 8, (x.res t).xbar = true → 16 ≤ i →
      Acts (.xbarw w) 0xCB w s { s := t.setCore x.c { k with xbar := { k.xbar with terms := k.xbar.terms.set (i - 16) v } } }) ∧
    (∀ h : i - 24 < 16, (x.res t).xbar = true → 24 ≤ i → v.toNat / 2 ^ 16 = 0 → v.toNat / 2 ^ 2 % 2 ^ 4 = 0 →
      (i < 28 → v.toNat / 2 ^ 6 % 2 ^ 6 = 0 ∧ v.toNat % 2 ^ 2 = 0) →
      (28 ≤ i → ∃ q, t.actorOf x.c (x.res t).task (v.toNat / 2 ^ 6 % 2 ^ 6) = some q ∧ ∃ c ∈ q.2.ins, c.ch = v.toNat % 2 ^ 2) →
      Acts (.xbarw w) 0xCB w s { s := t.setCore x.c { k with xbar := { k.xbar with starts := k.xbar.starts.set (i - 24) v } } }) ∧
    ((x.res t).xbar = true → i = 0x28 → v.toNat < 2 ^ 32 →
      Acts (.xbarw w) 0xCB w s { s := t.setCore x.c { k with xbar := { k.xbar with timer := v, timerAt := t.clk + v.toNat } } })) ∧
  (Issues 0xCC w s →
    let x := ctx 0xCC w s
    let t := start s
    let i := w.imm.toNat % 256
    let k := t.core x.c
    ((x.res t).xbar = false ∨ 0x29 < i → Traps (.xbarr w) 0xCC w 0x08 (fun _ => BitVec.ofNat 64 i) s) ∧
    (∀ h : i < 16, (x.res t).xbar = true → Acts (.xbarr w) 0xCC w s { s := t, writes := [.g w.d k.xbar.counters[i]] }) ∧
    (∀ h : i - 16 < 8, (x.res t).xbar = true → 16 ≤ i → Acts (.xbarr w) 0xCC w s { s := t, writes := [.g w.d k.xbar.terms[i - 16]] }) ∧
    (∀ h : i - 24 < 16, (x.res t).xbar = true → 24 ≤ i → Acts (.xbarr w) 0xCC w s { s := t, writes := [.g w.d k.xbar.starts[i - 24]] }) ∧
    ((x.res t).xbar = true → i = 0x28 → Acts (.xbarr w) 0xCC w s { s := t, writes := [.g w.d k.xbar.timer] }) ∧
    ((x.res t).xbar = true → i = 0x29 → Acts (.xbarr w) 0xCC w s
      { s := t.setCore x.c { k with xbar := { k.xbar with overrun := 0 } }, writes := [.g w.d (BitVec.ofNat 64 k.xbar.overrun.toNat)] })) ∧
  (Issues 0xCD w s →
    let x := ctx 0xCD w s
    let t := start s
    let b := w.b.toNat
    let r := x.res t
    let v := (x.g w.a).toNat
    let e := v / 2 ^ 4 % 2 ^ 4
    let mx := v / 2 ^ 8 % 4
    let ok := v / 2 ^ 44 = 0 ∧ v / 2 ^ 12 % 2 ^ 20 = 0 ∧ v % 2 ^ 4 = 0 ∧ e < 14 ∧ v / 2 ^ 10 % 4 ≠ 3 ∧ (mx = 0 → v / 2 ^ 32 % 2 ^ 12 = 0) ∧
      (mx ≠ 0 → 4 ≤ e ∧ e ≤ 9) ∧ r.spBase ≤ b * 65536 ∧ (b + 1) * 65536 ≤ r.spBase + r.spSize
    (¬ ok → Traps (.bfmt w) 0xCD w 0x08 (fun _ => BitVec.ofNat 64 (0x100 + b)) s) ∧
    (∀ h : b < 16, ok → let k := t.core x.c
      Acts (.bfmt w) 0xCD w s { s := t.setCore x.c { k with bfmt := k.bfmt.set b (x.g w.a) } })) ∧
  (Issues 0xCE w s →
    let x := ctx 0xCE w s
    let t := start s
    let k := t.core x.c
    ∃ u, Acts (.help w) 0xCE w s { s := u } ∧
      (∀ h : Fin 2, (u.core x.c).helpers[h] = if w.mod.getLsbD h then { k.helpers[h] with wake2 := true } else k.helpers[h]) ∧
      u.mem = t.mem ∧ (u.core x.c).slots = k.slots) ∧
  (Issues 0xCF w s →
    let x := ctx 0xCF w s
    let t := start s
    let k := t.core x.c
    let mine (r : EvRecord) : Bool := r.w0.toNat % 2 ^ 32 == x.task t && r.w0.toNat / 2 ^ 56 != 4
    (k.evq.find? mine = none → Acts (.evqr w) 0xCF w s { s := t, writes := [.v w.d.toNat 0 (BitVec.allOnes 8192)] }) ∧
    (∀ r, k.evq.find? mine = some r → r.psn = true → TrapsOpen (.evqr w) 0x16 s) ∧
    (∀ r, k.evq.find? mine = some r → r.psn = false → ∃ u, Acts (.evqr w) 0xCF w s { s := u, writes := [.v w.d.toNat
        (BitVec.ofNat 8192 (r.w0.toNat + r.w1.toNat * 2 ^ 64 + r.w2.toNat * 2 ^ 128 + r.w3.toNat * 2 ^ 192)) (BitVec.allOnes 8192)] } ∧
      u.mem = t.mem ∧ (k.evHeld = [] → (u.core x.c).evq = k.evq.eraseP mine)))

/-- Gangs and barriers (R250, R251, R253, R258): `GANG` traps with `PERM` or waits for its group, `DISBAND` ends the gang with every result
delivered, and `BAR` passes, waits, or completes the phase for all that arrived in it.
Where the rules leave a point open, what it says is the model's choice (log entries 23 and 33). -/
def Obligations.GangsAndBarriers : Prop := ∀ (w : Tolog) (s : State),
  (Issues 0xD0 w s →
    let x := ctx 0xD0 w s
    let t := start s
    let n := 2 ^ (w.mod.toNat % 4)
    let ok := (if n = 8 then xOf x.c % 4 = 0 ∧ yOf x.c % 2 = 0 else if n = 4 then xOf x.c % 2 = 0 ∧ yOf x.c % 2 = 0 else xOf x.c % 2 = 0) ∧
      (∀ m ∈ gangCores x.c n, ∃ k p, t.task (x.res t).task = some k ∧ p ∈ k.places ∧ p.band = (x.res t).band ∧ p.core = m) ∧
      (∃ k, t.task (x.res t).task = some k ∧ (k.tw.getD 0 0).getLsbD 48 = true) ∧ x.f.gang = 1
    (¬ ok → Traps (.gang w) 0xD0 w 0x12 (fun _ => 0) s) ∧
    (ok → exec (.gang w) s = .next (State.complete x { s := t.popAll s.cur.core (pops 0xD0 w) } (.gang n none)))) ∧
  (Issues 0xD1 w s →
    let x := ctx 0xD1 w s
    let t := start s
    (x.f.gang = 1 → Acts (.disband w) 0xD1 w s { s := t }) ∧
    (x.f.gang ≠ 1 → x.f.flight ≠ [] → exec (.disband w) s = .next (t.retry s.cur.core s.cur.slot)) ∧
    (x.f.gang ≠ 1 → x.f.flight = [] → x.f.wait = .none → ∃ u, Acts (.disband w) 0xD1 w s { s := u, hold := t.clk + 4 } ∧ u.mem = t.mem ∧
      ∃ g, u.firing x.c x.k = some g ∧ g.gang = 1 ∧ g.lanes = 32 ∧ (∀ j, j < 8192 → ∀ r, (g.rv r).getLsbD j = (decide (j < 1024) && (x.f.rv r).getLsbD j)))) ∧
  (Issues 0xD2 w s →
    let x := ctx 0xD2 w s
    let t := start s
    let p := (x.g w.a).toNat % 2 ^ 8
    let d := t.die (x.c / 256)
    let r := x.res t
    let key := r.barKey w.b.toNat
    let ph := mgetD d.barriers key { count := p, arrived := 0 }
    (p = 0 → Acts (.bar w) 0xD2 w s { s := t }) ∧
    (p ≠ 0 → ph.arrived + 1 < ph.count → exec (.bar w) s = .next (State.complete x
      { s := (t.setDie (x.c / 256) { d with barriers := mset d.barriers key { ph with arrived := ph.arrived + 1 } }).popAll s.cur.core (pops 0xD2 w) }
      (.bar w.b.toNat))) ∧
    (p ≠ 0 → ph.count ≤ ph.arrived + 1 → ∃ u, Acts (.bar w) 0xD2 w s { s := u, hold := t.clk + 6 } ∧ u.mem = t.mem ∧
      mget (u.die (x.c / 256)).barriers key = mget (mdel d.barriers key) key ∧
      (∀ k q f, t.task r.task = some k → q ∈ k.places → q.band = r.band → ∀ i, i < 8 → t.firing q.core i = some f → f.rti = q.rti → f.wait = .bar w.b.toNat →
        ∃ g, u.firing q.core i = some g ∧ g.wait = .none)))

/-- Links and reduction servers (R265, R266, R268 to R271): `LNKCFG` replaces the forward bits and discards the words of the cleared
FIFOs, `LNKST` reports them, `RSEND` carries a word to a server, and `RTREE` configures the core's own.
Where the rules leave a point open, what it says is the model's choice (log entries 31, 32, 43 and 89). -/
def Obligations.LinksAndServers : Prop := ∀ (w : Tolog) (s : State),
  (Issues 0xD3 w s →
    let x := ctx 0xD3 w s
    let t := start s
    let id := (x.res t).task
    let bad := ∃ d, d < 4 ∧ w.imm.getLsbD d = true ∧ t.linkOk x.c id ((d + 2) % 4) = false
    (bad → Traps (.lnkcfg w) 0xD3 w 0x05 (fun _ => w.bits 0xD3) s) ∧
    (¬ bad → (t.core x.c).linkTask id = true → ∃ k : Core, Acts (.lnkcfg w) 0xD3 w s { s := t.setCore x.c k } ∧ k.fwd.toNat = w.imm.toNat % 2 ^ 4 ∧
      (∀ d, d < 4 → k.fifo d = if w.imm.getLsbD (8 + d) then [] else (t.core x.c).fifo d) ∧ k.slots = (t.core x.c).slots ∧ k.tasks = (t.core x.c).tasks) ∧
    (¬ bad → (t.core x.c).linkTask id = false → Acts (.lnkcfg w) 0xD3 w s { s := t })) ∧
  (Issues 0xD4 w s →
    let x := ctx 0xD4 w s
    let t := start s
    let k := t.core x.c
    ∃ v, Acts (.lnkst w) 0xD4 w s { s := t, writes := [.g w.d v] } ∧
      (∀ d, d < 4 → v.getLsbD (36 + d) = (neighbour x.c d).isSome) ∧ v.getLsbD 40 = k.linkTask (x.res t).task ∧
      (k.linkTask (x.res t).task = true → v.toNat / 2 ^ 32 % 2 ^ 4 = k.fwd.toNat ∧
        ∀ d, d < 4 → v.toNat / 2 ^ (4 * d) % 2 ^ 4 = (k.fifo d).length % 16 ∧ v.toNat / 2 ^ (16 + 4 * d) % 2 ^ 4 = t.credits x.c d % 16) ∧
      (k.linkTask (x.res t).task = false → v.toNat % 2 ^ 36 = 0)) ∧
  (Issues 0xD5 w s →
    let x := ctx 0xD5 w s
    let t := start s
    let a := (x.g w.a).toNat
    let data : Entry := BitVec.ofNat 1024 (x.v w.b).toNat
    let c := (if (x.g w.a).getLsbD 23 then a / 2 ^ 20 % 8 else x.c / 256) * 256 + a / 2 ^ 16 % 16 * 16 + a / 2 ^ 12 % 16
    (a < 2 ^ 63 → (2 ^ 24 ≤ a ∨ a % 2 ^ 12 ≠ 0 ∨ 12 ≤ a / 2 ^ 16 % 16) → Traps (.rsend w) 0xD5 w 0x1A (fun x => x.g w.a) s) ∧
    (a < 2 ^ 24 → a % 2 ^ 12 = 0 → a / 2 ^ 16 % 16 < 12 → (t.core c).fenced = false →
      (roomFor x t (.partialSum c data false) → Acts (.rsend w) 0xD5 w s { s := t.nicPut x.c (.partialSum c data false) }) ∧
      (t.walled x.c (.partialSum c data false) = true → TrapsOpen (.rsend w) 0x12 s)) ∧
    (2 ^ 63 ≤ a →
      let fab := a / 2 ^ 61 % 4 = 0 ∧ a % 2 ^ 37 = 0 ∧ a / 2 ^ 41 % 16 < 12 ∧ torusOk t.pkg.fabid (a / 2 ^ 48 % 2 ^ 13) = true
      (¬ fab → Traps (.rsend w) 0xD5 w 0x1A (fun x => x.g w.a) s) ∧
      (fab → (t.core x.c).nic.length < 8 → ∃ p : Packet, p.cls = 2 ∧ p.dpkg = a / 2 ^ 48 % 2 ^ 13 ∧ p.die = a / 2 ^ 45 % 8 ∧ p.y = a / 2 ^ 41 % 16 ∧
        p.x = a / 2 ^ 37 % 16 ∧ p.data = leBytes 128 data.toNat ∧ Acts (.rsend w) 0xD5 w s { s := t.nicPut x.c (.packet p) }))) ∧
  (Issues 0xD6 w s →
    let x := ctx 0xD6 w s
    let t := start s
    let p := (x.g w.a).toNat
    let root := (x.g w.b).toNat
    let kind := p / 2 ^ 62
    let zero (lo n : Nat) : Prop := p / 2 ^ lo % 2 ^ n = 0
    let ok := zero 56 6 ∧ zero 35 5 ∧ zero 30 2 ∧ zero 0 12 ∧ (kind ≠ 2 → zero 40 16) ∧ (kind = 0 ∨ kind = 3 → zero 32 3) ∧ (kind ≠ 3 → zero 20 10) ∧
      (kind = 3 → zero 12 8 ∧ root / 2 ^ 52 = 0 ∧ root % 2 ^ 8 = 0) ∧ (kind ≠ 3 → p / 2 ^ 16 % 16 < 12)
    let k := t.core x.c
    (¬ ok → Traps (.rtree w) 0xD6 w 0x08 (fun _ => 0x169) s) ∧
    (ok → ∃ v : Server, Acts (.rtree w) 0xD6 w s { s := t.setCore x.c { k with server := v } } ∧
      v.cfg.toNat = w.imm.toNat % 2 ^ 12 ∧ v.parent = x.g w.a ∧ v.root = x.g w.b ∧ v.acc = 0 ∧ v.count = 0 ∧ v.psn = false ∧ v.waiting = k.server.waiting ∧
      (k.server.count = 0 → v.stat = if w.imm.getLsbD 12 then 0 else k.server.stat) ∧ (k.server.count ≠ 0 → v.stat.getLsbD 8 = true)))

/-- Tasks from a firing (R287, R303, R304, R311): `TSPAWN` reads the descriptor and gives an id or a refusal word, `TDONE` ends the running
phase, `TREG` gives up a record's rights, which count until its flush is done, and `TQRY` reports a task.
Where the rules leave a point open, what it says is the model's choice (log entries 55, 57, 58, 67, 68 and 122). -/
def Obligations.TaskInstructions : Prop := ∀ (w : Tolog) (s : State),
  (Issues 0xE0 w s →
    let x := ctx 0xE0 w s
    Fresh s → ∀ u1 hdr u bs, reads x (start s) 128 64 u1 hdr →
      let nreg := wordIn hdr 0 / 2 ^ 47 % 2 ^ 5
      (if nreg = 0 then u = u1 ∧ bs = hdr else reads x u1 (128 + 32 * nreg) 64 u bs) →
      (16 ≤ (x.g w.b).toNat → Acts (.tspawn w) 0xE0 w s { s := u, writes := [.g w.d 0x8000000000000007] }) ∧
      ∃ v t, Acts (.tspawn w) 0xE0 w s { s := t, writes := [.g w.d v] } ∧
        (v.getLsbD 63 = true → t = u ∧ 1 ≤ v.toNat % 2 ^ 8 ∧ v.toNat % 2 ^ 8 ≤ 8) ∧
        (s.cur.core < 2048 → v.getLsbD 63 = false → t.mem = u.mem ∧ ∃ k, t.task v.toNat = some k ∧ k.typ = wordIn bs 0 / 2 ^ 54 ∧
          k.parm = BitVec.ofNat 64 (wordIn bs 5) ∧ (k.state = .waiting ∨ k.state = .queued))) ∧
  (∀ kill i, (kill, i) ∈ [(false, Instr.tdone w), (true, .tdoneKill w)] → Issues 0xE1 w s →
    let x := ctx 0xE1 w s
    let t := start s
    let id := (x.res t).task
    ∀ k, t.task id = some k →
      (kill = false → Acts i 0xE1 w s { s := t.setTask id { k with tdone := true } }) ∧
      (kill = true → k.tdone = false ∨ k.status ≠ 2 →
        Acts i 0xE1 w s { s := (t.setTask id { k with tdone := true, status := 2 }).killLater id (some (x.c, x.k)) }) ∧
      (kill = true → k.tdone = true → k.status = 2 → Acts i 0xE1 w s { s := t.setTask id { k with tdone := true, status := 2 } })) ∧
  (∀ ro i, (ro, i) ∈ [(false, Instr.tregRel w), (true, .tregRo w)] → Issues 0xE2 w s →
    let x := ctx 0xE2 w s
    let t := start s
    let id := (x.res t).task
    let idx := w.imm.toNat % 16
    ∀ k, t.task id = some k →
      (k.regions.length ≤ idx → Acts i 0xE2 w s { s := t }) ∧
      (∀ r, k.regions[idx]? = some r → ∃ r' : Region, Acts i 0xE2 w s { s := t.setTask id { k with regions := k.regions.set idx r' } } ∧
        r'.space = r.space ∧ r'.base = r.base ∧ r'.ofs = r.ofs ∧ r'.ext = r.ext ∧
        (r.released = true → r'.now = r.now ∧ r'.released = true) ∧
        (r.released = false → ro = false → r.now ≠ none → r'.now = none ∧ r'.released = true ∧ r'.rights = r.rights) ∧
        (r.released = false → ro = true →
          (r.now = some .r → r'.now = some .r ∧ r'.released = false) ∧ (r.now = some .rw → r'.now = some .r ∧ r'.released = false ∧ r'.rights = r.rights) ∧
          (r.now = some .w ∨ r.now = some .acc → r'.now = none ∧ r'.released = true ∧ r'.rights = r.rights)))) ∧
  (Issues 0xE3 w s →
    let x := ctx 0xE3 w s
    let t := start s
    let id := (x.g w.b).toNat % 2 ^ 32
    let sel := w.imm.toNat % 4
    (t.task id = none → Acts (.tqry w) 0xE3 w s { s := t, writes := [.g w.d 0] }) ∧
    ∀ k, t.task id = some k →
      (sel = 0 → ∃ v, Acts (.tqry w) 0xE3 w s { s := t, writes := [.g w.d v] } ∧ v.toNat % 16 = k.state.code ∧ v.toNat / 16 % 4 = k.cls % 4 ∧
        v.getLsbD 6 = k.tdone ∧ v.getLsbD 7 = k.faulted ∧ v.toNat / 2 ^ 8 % 2 ^ 8 = min k.preempts 255 ∧ v.toNat / 2 ^ 48 = 0 ∧
        ∀ j, j < 16 → v.getLsbD (16 + j) = ((k.regions[j]?).map (·.released)).getD false) ∧
      (sel = 1 → Acts (.tqry w) 0xE3 w s { s := t, writes := [.g w.d (BitVec.ofNat 64 (k.ts % 2 ^ 48))] }) ∧
      (sel = 2 → k.places = [] → Acts (.tqry w) 0xE3 w s { s := t, writes := [.g w.d 0] }) ∧
      (∀ p ps, sel = 2 → k.places = p :: ps → Acts (.tqry w) 0xE3 w s { s := t, writes := [.g w.d (BitVec.ofNat 64
        (p.core / 256 * 2 ^ 16 + p.core / 16 % 16 * 2 ^ 8 + p.core % 16 + (tyBands k.tw - 1) * 2 ^ 20 + (tyCores k.tw - 1) * 2 ^ 24))] }))

/-- Forking and flattening (R355, R356): `SFORK` takes the first run of free entries, the parent becomes a snapshot and each child is
ready below it; at depth 8 it raises `FORKDEPTH`.
Where the rules leave a point open, what it says is the model's choice (log entries 73 and 74). -/
def Obligations.StreamForks : Prop := ∀ (w : Tolog) (s : State),
  (∀ isNew i, (isNew, i) ∈ [(false, Instr.sfork w), (true, .sforkNew w)] → Issues 0xE4 w s →
    let x := ctx 0xE4 w s
    let t := start s
    let v := (x.g w.c).toNat
    let n := v % 2 ^ 5
    let g := streamNamed x (x.g w.b)
    let die := if isNew then x.c / 256 else homeDie g
    let on := (t.die die).spcfg.getLsbD 0
    let ok := 1 ≤ n ∧ n ≤ 16 ∧ v / 2 ^ 26 % 2 ^ 6 = 0 ∧ v / 2 ^ 10 % 2 ^ 6 = 0 ∧ v / 2 ^ 5 % 2 ^ 3 = 0
    (isNew = false → homeOpen t g) →
    (on = false → Answers i 0xE4 w s t (refusal 0x0A)) ∧
    (on = true → ¬ ok → Answers i 0xE4 w s t (refusal 0x05)) ∧
    (Fresh s → ∀ u bs, on = true → ok → (if w.mod.getLsbD 0 then reads x t (8 * n) 8 u bs else u = t ∧ bs = []) →
      let bad := ∃ j, j < n ∧ w.mod.getLsbD 0 = true ∧ (wordIn bs j).testBit 63 = true
      (bad → Answers i 0xE4 w s u (refusal 0x05)) ∧
      (¬ bad → isNew = true → (x.res u).holdsKey (v / 2 ^ 16 % 2 ^ 10) = false → Answers i 0xE4 w s u (refusal 0x02)) ∧
      (¬ bad → isNew = true → (x.res u).holdsKey (v / 2 ^ 16 % 2 ^ 10) = true → (u.die die).freeRun n = none → Answers i 0xE4 w s u (refusal 0x04)) ∧
      (∀ k, s.cur.core < 2048 → ¬ bad → isNew = true → (x.res u).holdsKey (v / 2 ^ 16 % 2 ^ 10) = true → (u.die die).freeRun n = some k →
        ∃ q, Answers i 0xE4 w s q (u.idAt die k) ∧ ∀ j, j < n → ((q.die die).entry (k + j)).state = .ready ∧ ((q.die die).entry (k + j)).parent = 0 ∧
          ((q.die die).entry (k + j)).depth = 0 ∧ ((q.die die).entry (k + j)).key = v / 2 ^ 16 % 2 ^ 10 ∧ ((q.die die).entry (k + j)).len = 0 ∧
          ((q.die die).entry (k + j)).node = v / 2 ^ 48 ∧ ((q.die die).entry (k + j)).qcnt = one (w.mod.getLsbD 0) ∧ ((q.die die).entry (k + j)).horiz = v / 2 ^ 32 % 2 ^ 16) ∧
      (∀ code, ¬ bad → isNew = false → RefusedBy x u (x.g w.b) code → Answers i 0xE4 w s u (refusal code)) ∧
      (∀ e, ¬ bad → isNew = false → Names x u (x.g w.b) g e →
        (e.state ≠ .ready → e.state ≠ .running → Answers i 0xE4 w s u (refusal 0x03)) ∧
        (e.state = .ready ∨ e.state = .running →
          (e.depth = 8 → Traps i 0xE4 w 0x23 (fun _ => BitVec.ofNat 64 g) s) ∧
          (e.depth ≠ 8 → (u.die die).freeRun n = none → Answers i 0xE4 w s u (refusal 0x04)) ∧
          (∀ k, e.depth ≠ 8 → (u.die die).freeRun n = some k → ∃ q, Answers i 0xE4 w s q
              ((u.setStream g { e with state := .snapshot, nch := n, nret := 0, arm := false, absorbing := false }).idAt die k) ∧
            (∀ j, j < n → ((q.die die).entry (k + j)).state = .ready ∧ ((q.die die).entry (k + j)).parent = g ∧
              ((q.die die).entry (k + j)).depth = e.depth + 1 ∧ ((q.die die).entry (k + j)).len = e.len ∧ ((q.die die).entry (k + j)).key = e.key ∧
              ((q.die die).entry (k + j)).qcnt = one (w.mod.getLsbD 0) ∧ ((q.die die).entry (k + j)).cidx = (if g = 0 then 0 else j)) ∧
            ((k ≤ g % 2 ^ 16 ∧ g % 2 ^ 16 < k + n) ∨ (((q.die die).entry (g % 2 ^ 16)).state = .snapshot ∧ ((q.die die).entry (g % 2 ^ 16)).nch = n ∧
              ((q.die die).entry (g % 2 ^ 16)).nret = 0)))))) ) ∧
  (Issues 0xE7 w s →
    let x := ctx 0xE7 w s
    let t := start s
    (∀ code, RefusedBy x t (x.g w.a) code → Answers (.sflat w) 0xE7 w s t (refusal code)) ∧
    (∀ g e, Names x t (x.g w.a) g e →
      let ok := e.state = .ready ∨ e.state = .running ∨ e.state = .returned
      (¬ ok → Answers (.sflat w) 0xE7 w s t (refusal 0x03)) ∧ (ok → e.depth = 0 → Answers (.sflat w) 0xE7 w s t 0) ∧
      (ok → e.depth ≠ 0 → t.chainBlocks 9 g = [] → Answers (.sflat w) 0xE7 w s
        ((t.setStream g { e with parent := 0, depth := 0, counted := false }).leaveParent e) 0) ∧
      (ok → ∃ u v, Answers (.sflat w) 0xE7 w s u v)))

/-- Steps, returns, prunes, join groups and appends of streams (R357 to R361).
Where the rules leave a point open, what it says is the model's choice (log entries 73 and 77). -/
def Obligations.StreamInstructions : Prop := ∀ (w : Tolog) (s : State),
  (Issues 0xEE w s →
    let x := ctx 0xEE w s
    let t := start s
    let no (code : Nat) : Prop := Acts (.sstep w) 0xEE w s { s := t, writes := [.g w.d (refusal code), .p w.e.toNat false] }
    (∀ code, RefusedBy x t (x.g w.a) code → no code) ∧
    (∀ g e, Names x t (x.g w.a) g e → e.state ≠ .ready → e.state ≠ .running → no 0x03) ∧
    (∀ g e, Names x t (x.g w.a) g e → e.state = .ready ∨ e.state = .running → 2 ^ 16 ≤ (x.g w.b).toNat → no 0x05) ∧
    (∀ g e, Names x t (x.g w.a) g e → e.state = .ready ∨ e.state = .running → (x.g w.b).toNat < 2 ^ 16 →
      let b := (x.g w.b).toNat
      Acts (.sstep w) 0xEE w s
        { s := t.setStream g { e with
            qhead := if e.qcnt = 0 then e.qhead else (e.qhead + 1) % 8
            qcnt := e.qcnt - 1
            horiz := e.horiz - 1
            node := b
            readyAt := if e.state = .ready ∧ e.node ≠ b then t.clk else e.readyAt }
          writes := [.g w.d (if e.qcnt = 0 then 0 else e.act.toList.getD e.qhead 0), .p w.e.toNat (decide (e.horiz ≤ 1))] })) ∧
  (Issues 0xE5 w s →
    let x := ctx 0xE5 w s
    let t := start s
    let g := streamNamed x (x.g w.a)
    (∀ code, RefusedBy x t (x.g w.a) code → Acts (.sret w) 0xE5 w s { s := refusedOnce t (homeDie g) }) ∧
    (∀ e, Names x t (x.g w.a) g e →
      let ok := e.parent ≠ 0 ∧ (e.state = .ready ∨ e.state = .running)
      (¬ ok → Acts (.sret w) 0xE5 w s { s := refusedOnce t (homeDie g) }) ∧
      (ok →
        let u := t.setStream g { e with state := .returned, rval := x.g w.b, counted := true }
        (u.stream e.parent = none → Acts (.sret w) 0xE5 w s { s := u }) ∧
        (∀ p, u.stream e.parent = some p → Acts (.sret w) 0xE5 w s { s := u.setStream e.parent { p with nret := p.nret + 1 } })))) ∧
  (Issues 0xED w s →
    let x := ctx 0xED w s
    let t := start s
    let g := streamNamed x (x.g w.a)
    (∀ code, RefusedBy x t (x.g w.a) code → Acts (.sprune w) 0xED w s { s := refusedOnce t (homeDie g) }) ∧
    (∀ e, Names x t (x.g w.a) g e →
      (e.state = .migrating → Acts (.sprune w) 0xED w s { s := refusedOnce t (homeDie g) }) ∧
      (e.state = .ready ∨ e.state = .returned ∨ e.state = .parked → Acts (.sprune w) 0xED w s { s := t.startRelease g }) ∧
      (e.state = .running → Acts (.sprune w) 0xED w s { s := t.setStream g { e with ppnd := true } }) ∧
      (e.state = .pruned → Acts (.sprune w) 0xED w s { s := t }) ∧
      (e.state = .snapshot → Acts (.sprune w) 0xED w s { s := (t.children g).foldl (fun u c => u.prune 8 c.1) t }))) ∧
  (Issues 0xE6 w s →
    let x := ctx 0xE6 w s
    let t := start s
    let sel := w.imm.toNat % 4
    (∀ code, RefusedBy x t (x.g w.a) code → Answers (.sjoinQ w) 0xE6 w s t (if code = 0x05 then refusal 0x05 else 0)) ∧
    (∀ g e, Names x t (x.g w.a) g e →
      (sel < 3 → Answers (.sjoinQ w) 0xE6 w s t ((e.words g).getD sel 0)) ∧
      (sel = 3 → t.resolveBlock 8 g ((x.g w.b).toNat % 2 ^ 25) 0 = none → Answers (.sjoinQ w) 0xE6 w s t 0) ∧
      (∀ l m, sel = 3 → t.resolveBlock 8 g ((x.g w.b).toNat % 2 ^ 25) 0 = some (l, m) → m.al = false →
        Answers (.sjoinQ w) 0xE6 w s t (BitVec.ofNat 64 (2 ^ 63 + l * 2 ^ 59 + m.rc * 2 ^ 40 + m.frame))) ∧
      (∀ l m, sel = 3 → t.resolveBlock 8 g ((x.g w.b).toNat % 2 ^ 25) 0 = some (l, m) → m.al = true → ∃ v, Answers (.sjoinQ w) 0xE6 w s t v))) ∧
  (Issues 0xE6 w s →
    let x := ctx 0xE6 w s
    let t := start s
    let o := (x.g w.c).toNat
    let cw := (x.g w.e).toNat
    (homeOpen t (streamNamed x (x.g w.b)) → serving t (streamNamed x (x.g w.b)) = false → Answers (.sjoinArm w) 0xE6 w s t (refusal 0x0A)) ∧
    (∀ u a, homeOpen t (streamNamed x (x.g w.b)) → serving t (streamNamed x (x.g w.b)) = true →
      t.check x.c (x.res t) x.sid (w.imm.toNat % 256) x.off 128 64 .store [1, 2, 3, 4, 5] true 0 = .ok (u, a) →
      let ok := o / 2 ^ 13 = 0 ∧ o / 2 ^ 3 % 2 ^ 5 = 0 ∧ o % 2 ^ 3 ≤ 3 ∧ 1 ≤ o / 2 ^ 8 % 2 ^ 5 ∧ o / 2 ^ 8 % 2 ^ 5 ≤ 16
      (∀ code, RefusedBy x t (x.g w.b) code → Answers (.sjoinArm w) 0xE6 w s t (refusal code)) ∧
      (∀ g e, Names x t (x.g w.b) g e →
        (¬ ok → Answers (.sjoinArm w) 0xE6 w s t (refusal 0x05)) ∧
        (ok → cw / 2 ^ 48 % 2 ^ 8 ≠ 0 → counterBad (x.res u) (x.g w.e) → Answers (.sjoinArm w) 0xE6 w s t (refusal 0x09)) ∧
        (∀ v cp, ok → (cw / 2 ^ 48 % 2 ^ 8 = 0 ∧ v = u ∧ cp = none) ∨
            (cw / 2 ^ 48 % 2 ^ 8 ≠ 0 ∧ ∃ b, u.counterSeat x.c (x.res u) (x.g w.e) = .ok (v, b) ∧ cp = some b.place) →
          (e.state ≠ .snapshot → Answers (.sjoinArm w) 0xE6 w s t (refusal 0x03)) ∧
          (e.state = .snapshot → e.arm = true → Answers (.sjoinArm w) 0xE6 w s t (refusal 0x06)) ∧
          (e.state = .snapshot → e.arm = false → ∃ e' : Stream, Answers (.sjoinArm w) 0xE6 w s (v.setStream g e') 0 ∧
            e'.arm = true ∧ e'.op = o % 2 ^ 3 ∧ e'.kk = o / 2 ^ 8 % 2 ^ 5 ∧ e'.radr = a.addr ∧ e'.rsegs = a.segs ∧ e'.cplace = cp ∧
            part e'.jkey 9 0 = a.key % 2 ^ 10 ∧ part e'.jkey 17 10 = cw / 2 ^ 48 % 2 ^ 8 ∧
            (∀ h, cp ≠ none → (x.res t).handle (cw / 2 ^ 56) = some h → e'.cadr = h.base + cw % 2 ^ 45) ∧
            e'.cfmode.toNat = x.f.fmode.toNat % 2 ^ 8 ∧ e'.state = .snapshot ∧ e'.nch = e.nch ∧ e'.nret = e.nret))))) ∧
  (Issues 0xE9 w s →
    let x := ctx 0xE9 w s
    let t := start s
    let n := (x.g w.c).toNat
    let on := serving t (streamNamed x (x.g w.b))
    homeOpen t (streamNamed x (x.g w.b)) →
    (on = false → Answers (.sapp w) 0xE9 w s t (refusal 0x0A)) ∧
    (on = true → n = 0 ∨ 65536 < n → Answers (.sapp w) 0xE9 w s t (refusal 0x05)) ∧
    (Fresh s → ∀ u1 a u bs, on = true → 1 ≤ n → n ≤ 65536 →
      t.check x.c (x.res t) x.sid (w.imm.toNat % 256) x.off n 1 .load [1, 2, 3, 4] false w.ch.toNat = .ok (u1, a) → x.held u1 a = false →
      u1.read a = some (u, bs) → bs.length = n →
      (∀ code, RefusedBy x u (x.g w.b) code → Answers (.sapp w) 0xE9 w s u (refusal code)) ∧
      (∀ g e, Names x u (x.g w.b) g e →
        let ok := e.state = .ready ∨ e.state = .running ∨ e.state = .returned
        let cov := covered (((u.task (x.res u).task).getD {}).admitting .store 5 g) 17 e.len n
        (¬ ok → Answers (.sapp w) 0xE9 w s u (refusal 0x03)) ∧
        (ok → 2 ^ 40 < e.len + n → Answers (.sapp w) 0xE9 w s u (refusal 0x05)) ∧
        (ok → e.len + n ≤ 2 ^ 40 → cov = false → Answers (.sapp w) 0xE9 w s u (refusal 0x08)) ∧
        (ok → e.len + n ≤ 2 ^ 40 → cov = true → u.keyLoaded e.key = false → Traps (.sapp w) 0xE9 w 0x12 handleWord s) ∧
        (∀ q xs, ok → e.len + n ≤ 2 ^ 40 → cov = true → u.keyLoaded e.key = true → u.strmSegs g .store (pieces (n / 32768 + 2) e.len n 32768) = .ok (q, xs) →
          let a : Acc := { core := x.c, space := 5, ctx := 0, key := q.pinned e.key, addr := e.len, n := n, segs := xs, cached := false }
          q.fencedHome a .store = none → Answers (.sapp w) 0xE9 w s
            (((q.markWritten x.c (x.res u).task 5 e.len n).setStream g { e with len := e.len + n }).write a bs) (BitVec.ofNat 64 e.len)))))

/-- Parking, waking and leaving (R398, R406, R462): `SPARK` writes a park record and registers its watch, `SWAKE` acts on it by its
state, and `SMIG` begins a migration; every refusal gives its code, or counts in `PKSTAT`, and has no other effect.
Where the rules leave a point open, what it says is the model's choice (log entries 83 and 110). -/
def Obligations.StreamParking : Prop := ∀ (w : Tolog) (s : State),
  (Issues 0xEA w s →
    let x := ctx 0xEA w s
    let t := start s
    let v := (x.g w.c).toNat
    let e5 := (x.g w.e).toNat
    let on := serving t (streamNamed x (x.g w.b))
    homeOpen t (streamNamed x (x.g w.b)) →
    (on = false → Answers (.spark w) 0xEA w s t (refusal 0x0A)) ∧
    (∀ u a, on = true → t.check x.c (x.res t) x.sid (w.imm.toNat % 256) x.off 1 1 .watch [4] true 0 = .ok (u, a) →
      let tcx := if e5 % 2 ^ 32 = 0 then t.pkg.pktcxl.toNat % 2 ^ 32 else e5 % 2 ^ 32
      let tfl := if e5 / 2 ^ 32 = 0 then t.pkg.pktflash.toNat % 2 ^ 32 else e5 / 2 ^ 32
      (∀ code, RefusedBy x t (x.g w.b) code → Answers (.spark w) 0xEA w s t (refusal code)) ∧
      (∀ g e, Names x t (x.g w.b) g e →
        let ok := t.pkg.pkcfg.getLsbD 0 = true ∧ (e.state = .ready ∨ e.state = .running) ∧ e.ppnd = false ∧ t.parkOf g = none
        let fits := tcx < tfl ∧ v / 2 ^ 41 = 0 ∧ v / 2 ^ 25 % 2 ^ 7 = 0 ∧ v / 2 ^ 32 % 2 ^ 9 ≤ 256
        (¬ ok → Answers (.spark w) 0xEA w s t (refusal 0x03)) ∧
        (ok → 8 ≤ e.qcnt → Answers (.spark w) 0xEA w s t (refusal 0x04)) ∧
        (ok → e.qcnt ≤ 7 → ¬ fits → Answers (.spark w) 0xEA w s t (refusal 0x05)) ∧
        (ok → e.qcnt ≤ 7 → fits → u.freePark = none → Answers (.spark w) 0xEA w s t (refusal 0x04)) ∧
        (∀ i q, ok → e.qcnt ≤ 7 → fits → u.freePark = some (i, q) →
          let p : Park := { state := 1, sid := g, wake := a.addr / 64 * 64, tfl := tfl, tcx := tcx, hcnt := v / 2 ^ 32 % 2 ^ 9, hfirst := v % 2 ^ 25,
                            key := e.key, place := a.place / 64 * 64, lineKey := a.key % 1024 }
          let r := (q.putPark i p).addWatch p.wake p.place i
          Answers (.spark w) 0xEA w s (if e.state = .ready then r.parkNow i p else r) (BitVec.ofNat 64 i))))) ∧
  (∀ form i, (form, i) ∈ [(0, Instr.swakeWake w), (1, .swakePre w), (2, .swakeExt w)] → Issues 0xEB w s →
    let x := ctx 0xEB w s
    let t := start s
    let us := w.imm.toNat % 2 ^ 32
    (∀ code, RefusedBy x t (x.g w.a) code → Acts i 0xEB w s { s := t.pkRefused }) ∧
    (∀ g e, Names x t (x.g w.a) g e → t.parkOf g = none → Acts i 0xEB w s { s := t.pkRefused }) ∧
    (∀ g e j p, Names x t (x.g w.a) g e → t.parkOf g = some (j, p) →
      (form = 0 → Acts i 0xEB w s { s := t.wake j }) ∧
      (form = 1 → p.state ≠ 2 → Acts i 0xEB w s { s := t }) ∧
      (form = 1 → p.state = 2 → Acts i 0xEB w s { s := t.putPark j (p.promote 3) }) ∧
      (form = 2 → p.state ≠ 2 → p.state ≠ 3 → Acts i 0xEB w s { s := t }) ∧
      (form = 2 → p.state = 3 → Acts i 0xEB w s { s := t.putPark j { p with ext := some us } }) ∧
      (form = 2 → p.state = 2 → ∃ p' : Park, Acts i 0xEB w s { s := t.putPark j p' } ∧ p'.anchor = (t.clk / 2250 + us) % 2 ^ 48 ∧ p'.state = 2 ∧
        p'.kept = p.kept ∧ p'.sid = p.sid))) ∧
  (Issues 0xEC w s →
    let x := ctx 0xEC w s
    let t := start s
    let b := (x.g w.b).toNat
    let cw := (x.g w.c).toNat
    (∀ code, RefusedBy x t (x.g w.a) code → Answers (.smig w) 0xEC w s t (refusal code)) ∧
    (∀ g e, Names x t (x.g w.a) g e →
      (2 ^ 19 ≤ b → Answers (.smig w) 0xEC w s t (refusal 0x05)) ∧
      (b < 2 ^ 19 → cw / 2 ^ 48 % 2 ^ 8 = 0 ∨ counterBad (x.res t) (x.g w.c) → Answers (.smig w) 0xEC w s t (refusal 0x09)) ∧
      (∀ u a, b < 2 ^ 19 → cw / 2 ^ 48 % 2 ^ 8 ≠ 0 →
        t.counterSeat x.c (x.res t) (x.g w.c) = .ok (u, a) →
        let dst := t.pkg.fabcfg.getLsbD 63 = true ∧ torusOk t.pkg.fabid (b % 2 ^ 16) = true ∧ b % 2 ^ 16 ≠ t.pkg.fabid.toNat / 2 ^ 16 % 2 ^ 16
        let may := e.parent = 0 ∧ e.ppnd = false ∧ (e.state = .ready ∨ (e.state = .parked ∧ ∃ j p, t.parkOf g = some (j, p) ∧ p.state = 2))
        let room := (t.die (homeDie g)).stubFree
        (¬ dst → Answers (.smig w) 0xEC w s t (refusal 0x05)) ∧
        (dst → ¬ may → Answers (.smig w) 0xEC w s t (refusal 0x03)) ∧
        (dst → may → room = false → Answers (.smig w) 0xEC w s t (refusal 0x04)) ∧
        (dst → may → room = true → ∃ m p, m.pkg = b % 2 ^ 16 ∧ m.die = b / 2 ^ 16 ∧ m.prev = e.state ∧ m.committed = false ∧ m.d = w.d ∧
          m.stub = (if w.imm.toNat % 2 ^ 24 = 0 then t.pkg.fabcfg.toNat / 2 ^ 16 % 2 ^ 16 else w.imm.toNat % 2 ^ 24) ∧
          p.cls = 5 ∧ p.op = 1 ∧ p.dpkg = b % 2 ^ 16 ∧ p.die = b / 2 ^ 16 ∧ p.sid = g ∧ p.key = e.key ∧
          Acts (.smig w) 0xEC w s { s := ((u.setStream g { e with state := .migrating }).setOutMig g (some m)).fabSend p, writes := [.g w.d 0], await := true }))))

/-- Attention over a stream (R366, R368): the descriptor, the queries and the result range are checked first; a refused descriptor or
stream gives its code; no visited token writes the empty results; else the request goes to the slices and the result follows.
Where the rules leave a point open, what it says is the model's choice (log entry 80). -/
def Obligations.StreamAttention : Prop := ∀ (w : Tolog) (s : State), Issues 0xE8 w s →
  let x := ctx 0xE8 w s
  let t := start s
  let r := x.res t
  let hi := w.imm.toNat % 256
  let on := serving t (streamNamed x (x.g w.b))
  homeOpen t (streamNamed x (x.g w.b)) →
  (on = false → Answers (.sattn w) 0xE8 w s t (refusal 0x0A)) ∧
  (∀ u1 a u2 bs, on = true → t.check x.c r x.sid hi x.off 64 64 .rmw [1, 2] true 0 = .ok (u1, a) → u1.read a = some (u2, bs) → bs.length = 64 →
    let d (i : Nat) : Nat := wordIn bs i
    let fmt := d 0 / 2 ^ 48 % 8
    let dim := if d 0 / 2 ^ 46 % 4 = 0 then 64 else 128
    let eb := if fmt = 1 then 2 else 1
    let nq := d 0 / 2 ^ 40 % 2 ^ 6 + 1
    let tstr := d 4 % 2 ^ 16
    let ok := d 0 / 2 ^ 51 = 0 ∧ d 0 / 2 ^ 46 % 4 ≤ 1 ∧ (fmt = 1 ∨ fmt = 3 ∨ fmt = 4) ∧ d 0 % 16 = 0 ∧ d 0 / 2 ^ 20 % 16 = 0 ∧ d 1 < 2 ^ 32 ∧ d 2 < 2 ^ 40 ∧
      d 3 < 2 ^ 40 ∧ d 4 < 2 ^ 48 ∧ d 5 = 0 ∧ d 6 = 0 ∧ d 7 = 0 ∧ (∃ k, 6 ≤ k ∧ k ≤ 15 ∧ tstr = 2 ^ k) ∧ d 4 / 2 ^ 16 % 2 ^ 16 + dim * eb ≤ tstr ∧
      d 4 / 2 ^ 32 + dim * eb ≤ tstr
    (¬ ok → Answers (.sattn w) 0xE8 w s u2 (refusal 0x05)) ∧
    (∀ u3 qa u4 qs u5 oa, ok → u2.check x.c r x.sid hi (d 0 % 2 ^ 20) (nq * dim * eb) 16 .load [1, 2] true 0 = .ok (u3, qa) → u3.read qa = some (u4, qs) →
      u4.check x.c r x.sid hi (d 0 / 2 ^ 20 % 2 ^ 20) (nq * (16 + 4 * dim)) 16 .store [1, 2] true 0 = .ok (u5, oa) →
      (∀ code, RefusedBy x u4 (x.g w.b) code → Answers (.sattn w) 0xE8 w s u4 (refusal code)) ∧
      (∀ g e, Names x u4 (x.g w.b) g e →
        let n := (if d 3 ≤ e.len / tstr then d 3 else e.len / tstr) - d 2
        let cov := covered (((u4.task (x.res u4).task).getD {}).admitting .watch 5 g) 17 (d 2 * tstr) (n * tstr)
        (n = 0 → Answers (.sattn w) 0xE8 w s
          (u4.write oa (List.replicate nq (leBytes 4 0xFF800000 ++ List.replicate (12 + 4 * dim) 0)).flatten) 0) ∧
        (n ≠ 0 → cov = false → Answers (.sattn w) 0xE8 w s u4 (refusal 0x08)) ∧
        (n ≠ 0 → cov = true → u4.keyLoaded e.key = false → Traps (.sattn w) 0xE8 w 0x12 handleWord s) ∧
        (∀ q blocks, n ≠ 0 → cov = true → u4.keyLoaded e.key = true →
          u4.tokenBlocks g ((List.range (((d 2 + n) * tstr - 1) / 32768 - d 2 * tstr / 32768 + 1)).map (· + d 2 * tstr / 32768)) = .ok (q, blocks) →
          ∃ j : Attn, j.slot = x.k ∧ j.task = (x.res q).task ∧ j.d = w.d ∧ j.sid = g ∧ j.key = q.pinned e.key ∧ j.blocks = blocks ∧ j.t0 = d 2 ∧ j.n = n ∧ j.fmt = fmt ∧ j.dim = dim ∧ j.out = oa.segs ∧ j.flags = 0 ∧
            j.queries.length = nq ∧ j.accs = List.replicate nq (0xFF800000, 0, List.replicate dim 0) ∧
            let k := q.core x.c
            Acts (.sattn w) 0xE8 w s { s := q.setCore x.c { k with attns := k.attns ++ [j] }, writes := [.g w.d 0], await := true }))))

/-- Reading control registers (R93, R120): each assigned register gives its value, an index that is not assigned raises `EX.CTL`; and
`ECALL` asks for its service (R124), a number that is not offered giving all ones.
Where the rules leave a point open, what it says is the model's choice (log entries 8 and 89). -/
def Obligations.ControlReads : Prop := ∀ (w : Tolog) (s : State),
  (Issues 0x2A w s →
    let x := ctx 0x2A w s
    let t := start s
    let d := t.die (x.c / 256)
    (∀ v, (ctlIdx w, v) ∈ registers x t → Acts (.ctlr w) 0x2A w s { s := t, writes := [.g w.d v] }) ∧
    (assigned (ctlIdx w) = false → Traps (.ctlr w) 0x2A w 0x08 (fun _ => BitVec.ofNat 64 (ctlIdx w)) s) ∧
    (ctlIdx w = 0x203 → Acts (.ctlr w) 0x2A w s { s := t, writes := [.g w.d (BitVec.ofNat 64
      (d.tasks.countP (fun k => k.2.state == .queued || k.2.state == .held) * 2 ^ 16 + d.tasks.length))] }) ∧
    (ctlIdx w = 0x235 → Acts (.ctlr w) 0x2A w s { s := t, writes := [.g w.d (BitVec.ofNat 64
      (t.pkg.pkstat.toNat / 2 ^ 21 * 2 ^ 21 + t.pkg.parks.length % 2 ^ 21))] }) ∧
    (∀ i, ctlIdx w = 0x400 + i → i < 0x400 → Acts (.ctlr w) 0x2A w s { s := t, writes := [.g w.d (mgetD t.pkg.fabin i 0)] }) ∧
    (ctlIdx w = 0x28D ∨ ctlIdx w = 0x28F → ∃ v, Acts (.ctlr w) 0x2A w s { s := { t with freeCtr := t.freeCtr + 1 }, writes := [.g w.d v] })) ∧
  (Issues 0x30 w s →
    let x := ctx 0x30 w s
    let t := start s
    let svc := w.imm.toNat % 2 ^ 16
    let open_ := t.inColumn x.c = true ∨ (t.die 0).fwin.getLsbD 0 = true
    (open_ → svc = 0 ∨ 6 ≤ svc → t.fwAway = false → Acts (.ecall w) 0x30 w s { s := t, writes := [.g w.d (BitVec.allOnes 64)] }) ∧
    (open_ → 1 ≤ svc → svc ≤ 5 → ∃ j : Call, j.slot = x.k ∧ j.d = w.d ∧ j.svc = svc ∧ j.a = x.g w.a ∧ j.b = x.g w.b ∧
      j.key = ((t.task (x.res t).task).getD {}).key ∧
      let k := t.core x.c
      Acts (.ecall w) 0x30 w s { s := t.setCore x.c { k with calls := k.calls ++ [j] }, writes := [.g w.d 0], await := true }))

/-- Writing control registers (R67, R93, R120, R215, R298, R323, R337, R344, R410, R431, R437, R441 to R448, R467): a value that the register
takes replaces the old one; any other is `EX.CTL` with the index and no effect; the registers of the die and the package take a
write from a privileged firing only.
Where the rules leave a point open, what it says is the model's choice (log entries 71, 87 and 88). -/
def Obligations.ControlWrites : Prop := ∀ (w : Tolog) (s : State), Issues 0x2B w s →
  let x := ctx 0x2B w s
  let t := start s
  let v := x.g w.a
  let n := v.toNat
  let idx := ctlIdx w
  let firing (i : Nat) (ok : Prop) (f : Firing) : Prop := idx = i → Writes (.ctlw w) w s ok (t.setFiring x.c x.k f)
  let d := t.die (x.c / 256)
  let die (i : Nat) (ok : Prop) (e : Die) : Prop := idx = i → x.f.priv = true → Writes (.ctlw w) w s ok (t.setDie (x.c / 256) e)
  let p := t.pkg
  let pkg (i : Nat) (ok : Prop) (q : Pkg) : Prop := idx = i → x.f.priv = true → Writes (.ctlw w) w s ok { t with pkg := q }
  (assigned idx = false ∨ idx ∈ [0x020, 0x021, 0x022, 0x030, 0x122, 0x123, 0x140, 0x141, 0x142, 0x150, 0x160, 0x168, 0x169, 0x16A, 0x16B, 0x203, 0x221, 0x223,
      0x235, 0x250, 0x251, 0x252, 0x258, 0x25A, 0x28D, 0x28F, 0x2B2] ∨ (0x100 ≤ idx ∧ idx < 0x110) ∨ (0x2C0 ≤ idx ∧ idx < 0x300) ∨
      (0x200 ≤ idx ∧ x.f.priv = false) → Traps (.ctlw w) 0x2B w 0x08 (fun _ => BitVec.ofNat 64 idx) s) ∧
  firing 0x010 (within v 0xCF ∧ n % 8 ≤ 5) { x.f with fmode := v } ∧
  firing 0x011 (within v 0x7F) { x.f with fstat := v } ∧
  firing 0x013 (within v 1) { x.f with sbchk := v } ∧
  firing 0x023 (within v 0x3FFFD) { x.f with trapVec := v } ∧
  firing 0x014 (within v 3 ∧ within v (t.sigCarried x)) { x.f with sigctl := v } ∧
  (∀ arr, idx = (if arr then 0x120 else 0x121) →
    let r := x.res t
    let ch := chainOf r arr
    let logn := n / 2 ^ 32 % 2 ^ 4
    let lo := n % 2 ^ 14 * 64
    let ch' : Chain := { ch with cfg := v }
    Writes (.ctlw w) w s ((arr = true → r.arr = true) ∧ ch.tags = [] ∧ ch.halted = none ∧ within v 0xF00003FFF ∧ 4 ≤ logn ∧ logn ≤ 8 ∧ r.spBase ≤ lo ∧
        lo + 2 ^ logn * 64 ≤ r.spBase + r.spSize)
      (t.setResident x.c x.f.rti (if arr then { r with achain := ch' } else { r with cchain := ch' }))) ∧
  (idx = 0x012 → Writes (.fseedWrite w) w s (within v 0xFFFFFFFF)
    (t.setFiring x.c x.k { x.f with fseed := v, gens := BitVec.ofNat 8192 (seedLanes n x.f.lanes) })) ∧
  die 0x200 (n < 2 ^ 32) { d with tepwait := v } ∧ die 0x201 (n < 2 ^ 32) { d with tepage := v } ∧
  die 0x202 (n < 2 ^ 16 ∧ ∀ k, k < 4 → n / 16 ^ k % 16 ≠ 0) { d with tewgt := v } ∧
  die 0x206 (n < 2 ^ 57 ∧ n % 2 ^ 12 = 0) { d with tesave := v } ∧ die 0x207 (n < 2 ^ 40) { d with tesavesz := v } ∧
  die 0x210 (n < 2 ^ 52 ∧ n % 2 ^ 12 = 0) { d with xlctx := v } ∧ die 0x211 (n < 2 ^ 57) { d with xlinva := v } ∧
  die 0x220 (d.on = false ∧ n < 2 ^ 52 ∧ n / 2 ^ 5 % 2 ^ 7 = 0 ∧ 16 ≤ n % 2 ^ 5 ∧ n % 2 ^ 5 ≤ 26) { d with sptbase := v } ∧
  die 0x224 (d.on = false ∧ n < 2 ^ 52 ∧ n % 2 ^ 12 = 0) { d with stbase := v } ∧ die 0x225 (d.on = false ∧ n < 2 ^ 52 ∧ n % 2 ^ 12 = 0) { d with snode := v } ∧
  die 0x240 (d.fwin.getLsbD 63 = false ∧ within v 0x800000000000000F) { d with fwin := v } ∧
  die 0x253 (1 ≤ n ∧ n ≤ 3) { d with ldthr := v } ∧ die 0x28C (1 ≤ n ∧ n < 2 ^ 16) { d with pfthr := v } ∧
  die 0x257 (n < 2 ^ 16 ∧ n / 2 ^ 8 ≠ 0 ∧ n % 2 ^ 8 ≠ 0) { d with relthr := v } ∧
  die 0x234 (p.pkcfg.getLsbD 0 = false ∧ n < 2 ^ 52 ∧ n % 2 ^ 12 = 0) { d with tdbase := v } ∧
  die 0x259 (n < 2 ^ 57 ∧ n % 2 ^ 3 = 0) { d with relctr := v, relctrCtx := ((t.task (x.res t).task).getD {}).ctx } ∧
  (∀ h : idx - 0x254 < 3, 0x254 ≤ idx → x.f.priv = true → Acts (.ctlw w) 0x2B w s
    { s := (t.setDie (x.c / 256) { d with cquar := d.cquar.set (idx - 0x254) v }).clearCounts (x.c / 256) (idx - 0x254) d.cquar[idx - 0x254] v }) ∧
  (∀ h : idx - 0x260 < 32, 0x260 ≤ idx → x.f.priv = true → Writes (.ctlw w) w s
    (within v 0x800000000000FFFF ∧ (v.getLsbD 63 = true → t.rectOk (x.c / 256) (idx - 0x260) v = true))
    (t.setDie (x.c / 256) { d with crect := d.crect.set (idx - 0x260) v })) ∧
  pkg 0x230 (1 ≤ n ∧ n < 2 ^ 32 ∧ n < p.pktflash.toNat) { p with pktcxl := v } ∧ pkg 0x231 (n < 2 ^ 32 ∧ p.pktcxl.toNat < n) { p with pktflash := v } ∧
  pkg 0x232 (p.pkcfg.getLsbD 0 = false ∧ n < 2 ^ 52 ∧ n % 2 ^ 12 = 0) { p with pkbase := v } ∧ pkg 0x233 (n < 8) { p with pkcfg := v } ∧
  pkg 0x236 (p.hbmWritten = false ∧ n ≤ 192 ∧ n % 3 = 0) { p with hbmloc := v } ∧ pkg 0x28E (1500 ≤ n ∧ n ≤ 6000) { p with plim := v } ∧
  pkg 0x2B0 (p.fabcfg.getLsbD 63 = false ∧ n < 2 ^ 32 ∧ n % 2 ^ 3 = 0 ∧ torusOk v (n / 2 ^ 16) = true) { p with fabid := v } ∧
  pkg 0x2B1 (n / 2 ^ 48 % 2 ^ 15 = 0 ∧ n / 2 ^ 16 % 2 ^ 16 ≠ 0 ∧ n % 2 ^ 16 ≠ 0 ∧ (p.fabcfg.getLsbD 63 = true → n / 2 ^ 32 % 2 ^ 16 = p.fabcfg.toNat / 2 ^ 32 % 2 ^ 16))
    { p with fabcfg := v } ∧
  (∀ i, i < 0x400 → pkg (0x400 + i) (within v 0x80000000000003FF) { p with fabin := mset p.fabin i v }) ∧
  (idx = 0x212 → Writes (.xlinvcWrite w) w s (x.f.priv = true ∧ d.xlinvc.getLsbD 63 = false ∧ within v 0x303FF)
    ((t.setDie (x.c / 256) { d with xlinvc := v ||| 0x8000000000000000 }).invalidateTlbs (n % 2 ^ 10) (d.xlinva.toNat % 2 ^ 57)
      (if n / 2 ^ 16 = 0 then some (2 ^ 16) else if n / 2 ^ 16 = 1 then some (2 ^ 21) else if n / 2 ^ 16 = 2 then some (2 ^ 30) else none))) ∧
  (idx = 0x204 →
    let ok := x.f.priv = true ∧ d.tepreq.getLsbD 63 = false ∧ v.getLsbD 63 = false ∧ n / 2 ^ 32 % 2 ^ 30 = 0 ∧ (v.getLsbD 62 = true → d.tepreq.getLsbD 62 = true)
    (¬ ok → Traps (.tepreqWrite w) 0x2B w 0x08 (fun _ => BitVec.ofNat 64 idx) s) ∧
    (ok → ∀ r u, t.requestPreempt (n % 2 ^ 32) = (r, u) →
      let e := u.die (x.c / 256)
      let flag := if r = .busy then 2 ^ 63 else if r = .refused then 2 ^ 62 else 0
      Acts (.tepreqWrite w) 0x2B w s { s := u.setDie (x.c / 256) { e with tepreq := BitVec.ofNat 64 (n % 2 ^ 32 + flag) } })) ∧
  (idx = 0x222 → Writes (.spcfgWrite w) w s
    (x.f.priv = true ∧ n < 8 ∧ (d.on = true → v.getLsbD 0 = false → ∀ e ∈ d.streams, e.2.state = .free))
    (if v.getLsbD 0 && !d.on then (t.setDie (x.c / 256) { d with spcfg := v, streams := [] }).homeWrite 0
        (Loc.phys (d.stbase.toNat / 2 ^ 12 % 2 ^ 40 * 2 ^ 12)) (List.replicate 65536 (bytesOf (({} : Stream).words 0))).flatten
      else t.setDie (x.c / 256) { d with spcfg := v })) ∧
  (∀ h : idx - 0x280 < 12, 0x280 ≤ idx →
    let old := d.vdom[idx - 0x280]
    let keeps (lo k : Nat) : Prop := n / 2 ^ lo % 2 ^ k = 0 ∨ n / 2 ^ lo % 2 ^ k = old.toNat / 2 ^ lo % 2 ^ k
    Writes (.vdomWrite w) w s (x.f.priv = true ∧ keeps 63 1 ∧ keeps 62 1 ∧ n / 2 ^ 16 % 2 ^ 46 = 0 ∧ keeps 8 8 ∧ n % 2 ^ 8 ≤ 20 ∧
        old.toNat / 2 ^ 8 % 2 ^ 8 ≤ n % 2 ^ 8)
      (t.setDie (x.c / 256) { d with vdom := d.vdom.set (idx - 0x280) (BitVec.ofNat 64 (old.toNat / 2 ^ 8 * 2 ^ 8 + n % 2 ^ 8)) }))

/-- The RV32IMC instructions of a helper (R202, R203, R205): results, branches, loads and stores of its map, CSRs, and the exceptions.
Where the rules leave a point open, what it says is the model's choice (log entry 7). -/
def Obligations.HelperInstructions : Prop := ∀ (s : State) (len : Nat), Fetches s len →
  let x := helper s
  let c := s.cur.core
  let h := s.cur.hart
  let l := x.pc + BitVec.ofNat 32 len
  let i (r : Rv) : Instr := .rv32imcInstruction r len
  (∀ rd imm, HActs (i (.lui rd imm)) s s (retired x rd imm l)) ∧ (∀ rd imm, HActs (i (.auipc rd imm)) s s (retired x rd (x.pc + imm) l)) ∧
  (∀ rd off, HActs (i (.jal rd off)) s s (retired x rd l (x.pc + off))) ∧
  (∀ rd rs off, HActs (i (.jalr rd rs off)) s s (retired x rd l ((xr x rs + off) &&& ~~~1))) ∧
  (∀ o rs rt off, HActs (i (.branch o rs rt off)) s s (retired x 0 0 (if taken o (xr x rs) (xr x rt) then x.pc + off else l))) ∧
  (∀ o rd rs imm, HActs (i (.opImm o rd rs imm)) s s (retired x rd (alu o (xr x rs) imm) l)) ∧
  (∀ o rd rs rt, HActs (i (.op o rd rs rt)) s s (retired x rd (alu o (xr x rs) (xr x rt)) l)) ∧
  HActs (i .fence) s s (retired x 0 0 l) ∧ HActs (i .wfi) s s (retired x 0 0 l) ∧
  HActs (i .mret) s s (retired { x with mstatus := if x.mstatus.getLsbD 7 then 0x1888 else 0x1880 } 0 0 x.mepc) ∧
  HTraps (i .ecall) s s 11 0 ∧ HTraps (i .ebreak) s s 3 0 ∧ (∀ w, HTraps (i (.illegal w)) s s 2 w) ∧
  (∀ n sx rd rs off, 1 ≤ n →
    let a := xr x rs + off
    (a.toNat % n ≠ 0 → HTraps (i (.load n sx rd rs off)) s s 4 a) ∧
    (∀ p, a.toNat % n = 0 → (a.toNat + n ≤ 0x4000 ∧ p = Loc.hcode c h a.toNat) ∨ place s a.toNat n p → s.isBad p n = false →
      HActs (i (.load n sx rd rs off)) s s (retired x rd (BitVec.ofInt 32 (fieldNum (!sx) (8 * n) (number (memRead s.mem p n)))) l)) ∧
    (a.toNat % n = 0 → 0x4000 < a.toNat + n → (¬ ∃ p, place s a.toNat n p) → HTraps (i (.load n sx rd rs off)) s s 5 a)) ∧
  (∀ n rs rt off, 1 ≤ n →
    let a := xr x rs + off
    (a.toNat % n ≠ 0 → HTraps (i (.store n rs rt off)) s s 6 a) ∧
    (∀ p, a.toNat % n = 0 → place s a.toNat n p →
      HActs (i (.store n rs rt off)) s (s.homeWrite 0 p (leBytes n (xr x rt).toNat)) (retired x 0 0 l)) ∧
    (a.toNat % n = 0 → (¬ ∃ p, place s a.toNat n p) → HTraps (i (.store n rs rt off)) s s 7 a)) ∧
  (∀ o imm rd src (n : BitVec 12),
    let v : BitVec 32 := if imm then BitVec.ofNat 32 src.toNat else xr x src
    let writes := o = .rw ∨ src ≠ 0
    let cycles := x.mcycle.toNat + s.clk
    (∀ old put, (n.toNat, old, put) ∈ csrs x →
      HActs (i (.csr o imm rd src n)) s s (retired (if writes then put (csrValue o old v) else x) rd old l)) ∧
    (∀ old, (n.toNat, old) ∈ [(0xF14, BitVec.ofNat 32 h), (0xB00, BitVec.ofNat 32 cycles), (0xB80, BitVec.ofNat 32 (cycles / 2 ^ 32)),
        (0xB02, BitVec.ofNat 32 x.minstret.toNat), (0xB82, BitVec.ofNat 32 (x.minstret.toNat / 2 ^ 32))] → ¬ writes →
      HActs (i (.csr o imm rd src n)) s s (retired x rd old l)) ∧
    (n.toNat = 0x301 → HActs (i (.csr o imm rd src n)) s s (retired x rd 0x40001104 l)) ∧
    (∀ hi : Bool, writes →
      let k := if hi then 32 else 0
      let put (m : Nat) (old : BitVec 32) : Nat :=
        if hi then (csrValue o old v).toNat * 2 ^ 32 + m % 2 ^ 32 else m / 2 ^ 32 % 2 ^ 32 * 2 ^ 32 + (csrValue o old v).toNat
      (n.toNat = (if hi then 0xB80 else 0xB00) → ∃ m : Word, (m.toNat + s.clk) % 2 ^ 64 = put cycles (BitVec.ofNat 32 (cycles / 2 ^ k)) ∧
        HActs (i (.csr o imm rd src n)) s s (retired { x with mcycle := m } rd (BitVec.ofNat 32 (cycles / 2 ^ k)) l)) ∧
      (n.toNat = (if hi then 0xB82 else 0xB02) → ∃ m : Word, (m.toNat + 1) % 2 ^ 64 = put x.minstret.toNat (BitVec.ofNat 32 (x.minstret.toNat / 2 ^ k)) ∧
        HActs (i (.csr o imm rd src n)) s s (retired { x with minstret := m } rd (BitVec.ofNat 32 (x.minstret.toNat / 2 ^ k)) l))) ∧
    (∀ k, k < 8 → n.toNat = 0x7C8 + k → ¬ writes →
      HActs (i (.csr o imm rd src n)) s s (retired x rd (BitVec.ofNat 32 (((s.resident c k).map (·.task)).getD 0)) l)) ∧
    (writes → n.toNat = 0xF14 ∨ (0x7C8 ≤ n.toNat ∧ n.toNat ≤ 0x7CF) → HTraps (i (.csr o imm rd src n)) s s 2 (s.helperWord c h)) ∧
    (n.toNat ∉ [0x300, 0x301, 0xF14, 0x305, 0x341, 0x342, 0x343, 0x340, 0xB00, 0xB80, 0xB02, 0xB82, 0x7C0] → ¬ (0x7C8 ≤ n.toNat ∧ n.toNat ≤ 0x7CF) →
      HTraps (i (.csr o imm rd src n)) s s 2 (s.helperWord c h)))

/-- The custom instructions of a helper (R204): the counter add, the send, the chain append, the event queue, the sleep and the
pulse, each with its faults.
Where the rules leave a point open, what it says is the model's choice (log entries 17 and 120). -/
def Obligations.HelperCustoms : Prop := ∀ (s : State) (b a d : BitVec 5),
  let x := helper s
  let c := s.cur.core
  let h := s.cur.hart
  (Fetches s 4 →
    (∀ i ∈ [Instr.hCadd b a, .hPush b a, .hChap b a d], selected s = none → HTraps i s s 24 (BitVec.ofNat 32 (x.hsel.toNat / 2 ^ 16 % 8))) ∧
    (∀ r, selected s = some r →
      let scope := x.hsel.toNat / 2 ^ 8 % 8
      let off := xr x a
      let chk := s.check c r 0 (x.hsel.toNat % 2 ^ 8) off.toNat 8 8 .cadd [1, 2, 3, 4] true 0
      (scope = 0 ∨ 6 ≤ scope → HTraps (.hCadd b a) s s 25 (BitVec.ofNat 32 scope)) ∧
      (1 ≤ scope → scope ≤ 5 →
        (chk = .error (.trap 0x11) → HTraps (.hCadd b a) s s 24 (BitVec.ofNat 32 (x.hsel.toNat % 2 ^ 8))) ∧
        (chk = .error (.trap 0x12) → HTraps (.hCadd b a) s s 25 (BitVec.ofNat 32 (x.hsel.toNat % 2 ^ 8))) ∧
        (chk = .error (.trap 0x10) ∨ chk = .error (.trap 0x15) → HTraps (.hCadd b a) s s 26 off) ∧
        (chk = .error (.trap 0x13) → HTraps (.hCadd b a) s s 27 off) ∧
        (∀ u q, chk = .ok (u, q) → u.segsBad q.segs = false →
          let sum := number (u.homeRead q.key q.place 8) + (xr x b).toNat
          let t := u.homeWrite q.key q.place (leBytes 8 (if 2 ^ 64 ≤ sum then 2 ^ 64 - 1 else sum))
          HGives (.hCadd b a) s (if 2 ^ 64 ≤ sum then t.post c (overflowRecord r.task q.addr (BitVec.ofNat 64 (xr x b).toNat)) else t) 0 0)) ∧
      ((¬ ∃ o, inData (xr x a) 128 o) → HTraps (.hPush b a) s s 26 (xr x a)) ∧
      (∀ o, inData (xr x a) 128 o →
        let m := s.dieTarget (c / 256) r.task (BitVec.ofNat 64 (xr x b).toNat) (BitVec.ofNat 1024 (number (memRead s.mem (Loc.hdata c h o) 128)))
        (m = none → HTraps (.hPush b a) s s 28 (xr x b)) ∧
        (∀ q, m = some q → s.isBad (Loc.hdata c h o) 128 = false → (s.core c).nic.length < 8 → HGives (.hPush b a) s (s.nicPut c q) 0 0)) ∧
      ((¬ ∃ o, inData (xr x a) 64 o) → HTraps (.hChap b a d) s s 26 (xr x a)) ∧
      (∀ o, inData (xr x a) 64 o →
        let e := (xr x b).toNat
        (2 ≤ e → HTraps (.hChap b a d) s s 28 (xr x b)) ∧
        (e ≤ 1 → (e = 0 → r.arr = true) → s.isBad (Loc.hdata c h o) 64 = false → (chainOf r (e == 0)).room ≠ 0 →
          ∀ n u, s.appendEntry c (x.hsel.toNat / 2 ^ 16 % 8) (e == 0)
              ((List.range 8).map fun j => BitVec.ofNat 64 (wordIn (memRead s.mem (Loc.hdata c h o) 64) j)) id = (n, u) →
            n = (chainOf r (e == 0)).tail + 1 ∧ HGives (.hChap b a d) s u d (BitVec.ofNat 32 n)))) ∧
    (h = 1 → HTraps (.hEvq b a d) s s 2 (s.helperWord c h)) ∧
    (h = 0 → (¬ ∃ o, inData (xr x a) 32 o) → HTraps (.hEvq b a d) s s 26 (xr x a)) ∧
    (∀ o, h = 0 → inData (xr x a) 32 o →
      ((s.core c).evq = [] → HGives (.hEvq b a d) s s d 0) ∧
      (∀ r rs, (s.core c).evq = r :: rs → r.psn = true → HTraps (.hEvq b a d) s { s with fenceReq := s.fenceReq ++ [c] } 1 (xr x a)) ∧
      (∀ r rs u, (s.core c).evq = r :: rs → r.psn = false → s.popEvent c (fun _ => true) = (some r, u) → HGives (.hEvq b a d) s
        (u.homeWrite 0 (Loc.hdata c h o) (leBytes 8 r.w0.toNat ++ leBytes 8 r.w1.toNat ++ leBytes 8 r.w2.toNat ++ leBytes 8 r.w3.toNat)) d
        (BitVec.ofNat 32 (r.w0.toNat / 2 ^ 56)))) ∧
    (let sel := BitVec.ofNat 4 (xr x a).toNat
     ∀ p, Pending s sel (xr x b) p →
      (sel = 0 ∨ p ≠ 0 → HActs (.hWait b a d) s s (reported x d p)) ∧
      (sel ≠ 0 → p = 0 → HActs (.hWait b a d) s s { x with asleep := some (sel, xr x b, d) })) ∧
    HGives .hPulse s (s.pulse c (9 + h)) 0 0) ∧
  (h < 2 → ∀ sel dl rd p, x.asleep = some (sel, dl, rd) → Pending s sel dl p →
    (p = 0 → exec .helperWake s = .next s) ∧ (p ≠ 0 → HActs .helperWake s s (reported x rd p)))

/-- The checks of an access in their order, each with its cause (R133, R134); the fields and ranges of a valid handle entry (R183 to R185). Table walks (R319 to R322):
a hit in the cluster's TLB fills the core's; a walk that ends in a leaf which permits the access fills the TLBs of the core and its cluster, a full
one losing some entry; a hit in the core's keeps all as it is, and a failure leaves nothing behind.
Where the rules leave a point open, what it says is the model's choice (log entries 35 and 88). -/
def Obligations.AddressTranslation : Prop := ChecksInOrder ∧ EntriesValid ∧ ∀ (s : State) (ctx va : Nat) (wr ilv : Bool),
  let c := s.cur.core
  let q := c / 256 * 12 + (c / 16 % 16 / 4 * 4 + c % 16 / 4)
  let holds (e : TlbEntry) : Prop := e.ctx = ctx ∧ e.page ≤ va ∧ va < e.page + e.size
  let a := part (s.die (c / 256)).xlctx 51 12 * 4096 + 8 * ctx
  let entry := number (memRead s.mem a 8)
  let lo := (1536 - 8 * part s.pkg.hbmloc 7 0 + va / 2 ^ 53 % 8 * part s.pkg.hbmloc 7 0) * 2 ^ 30
  let allowed (pa sz : Nat) (r w : Bool) : Prop :=
    (if wr then w else r) = true ∧ (ilv = true → lo ≤ pa ∧ pa + sz ≤ lo + part s.pkg.hbmloc 7 0 * 2 ^ 30)
  let found (pa sz : Nat) (r w : Bool) : Prop := part (s.die (c / 256)).xlctx 12 12 = 0 ∧ part (s.die (c / 256)).xlctx 51 12 * 4096 + 8192 ≤ 1536 * 2 ^ 30 ∧
    s.isBad a 8 = false ∧ entry % 2 ^ 12 = 1 ∧ entry / 2 ^ 52 = 0 ∧
    entry / 2 ^ 12 * 4096 + 4096 ≤ 1536 * 2 ^ 30 ∧ Walked s va 0 (entry / 2 ^ 12 * 4096) pa sz r w
  let put (xs : List TlbEntry) (cap : Nat) (e : TlbEntry) (j : Nat) : List TlbEntry := if xs.length < cap then xs ++ [e] else xs.eraseIdx j ++ [e]
  ((∃ e ∈ (s.core c).tlb, holds e) → exec (.tableWalk ctx va wr ilv) s = .next s) ∧
  (∀ l e m, (∀ y ∈ (s.core c).tlb, ¬ holds y) → (s.cluster q).tlb = l ++ e :: m → holds e → (∀ y ∈ l, ¬ holds y) →
    (allowed e.pa e.size e.r e.w → ∃ j, exec (.tableWalk ctx va wr ilv) s =
      .next (({ s with freeCtr := s.freeCtr + 1 } : State).setCore c { s.core c with tlb := put (s.core c).tlb 64 e j })) ∧
    (¬ allowed e.pa e.size e.r e.w → exec (.tableWalk ctx va wr ilv) s = .next s)) ∧
  ((∀ e ∈ (s.core c).tlb, ¬ holds e) → (∀ e ∈ (s.cluster q).tlb, ¬ holds e) →
    (∀ pa sz r w, found pa sz r w → allowed pa sz r w → ∃ i j,
      let e : TlbEntry := { ctx := ctx, page := va / sz * sz, size := sz, pa := pa, r := r, w := w }
      exec (.tableWalk ctx va wr ilv) s = .next ((({ s with freeCtr := s.freeCtr + 1 } : State).setCluster q
        { tlb := put (s.cluster q).tlb 2048 e i }).setCore c { s.core c with tlb := put (s.core c).tlb 64 e j })) ∧
    ((¬ ∃ pa sz r w, found pa sz r w ∧ allowed pa sz r w) → exec (.tableWalk ctx va wr ilv) s = .next s))

/-- The wake alias and BAR2 (R417): who may write a record's line, and what the window reads and writes under key 0. The page of a host queue
(R417, R418, R421, R424, R435): where it stands in a function's BAR0, each register's write and read, what it ignores, and the reset.
Where the rules leave a point open, what it says is the model's choice (log entries 92, 104 and 137). -/
def Obligations.HostAccess : Prop :=
  (∀ s : State,
  let fn := s.cur.n
  let closed : Prop := ∃ f ∈ s.pkg.tdisp, f.2 = 2
  (∀ p bs,
    (mget s.pkg.parks p = none → exec (.wakeAliasWrite p bs) s = .next s) ∧
    (∀ r, mget s.pkg.parks p = some r →
      let owner : Prop := ∃ q ∈ s.pkg.queues, owned fn q.2 ∧ q.2.bound = true ∧ q.2.key = r.key
      (¬ owner → fn % 256 = 0 → exec (.wakeAliasWrite p bs) s = .next (ignored s 0)) ∧
      (¬ owner → fn % 256 ≠ 0 → ∀ q qs, s.pkg.queues.filter (fun q => q.2.bound && q.2.fn == fn) = q :: qs →
        exec (.wakeAliasWrite p bs) s = .next (ignored s q.1)) ∧
      (∀ die, owner → r.wake ≠ 0 → s.rangeNack r.wake 64 = some die → exec (.wakeAliasWrite p bs) s = .next (s.countNack die)) ∧
      (owner → r.wake ≠ 0 → s.rangeNack r.wake 64 = none → (mget s.pkg.keys r.lineKey).isSome = true →
        exec (.wakeAliasWrite p bs) s = .next (s.homeWrite r.lineKey r.place (bs.take 64))) ∧
      (owner → r.wake = 0 → exec (.wakeAliasWrite p bs) s =
        .next { s with pkg := { s.pkg with wakes := if p ∈ s.pkg.wakes then s.pkg.wakes else s.pkg.wakes ++ [p] } }))) ∧
  (∀ pa len bs, fn % 256 = 0 →
    Does (.bar2Access true pa len bs) s (¬ closed ∧ pa + bs.length ≤ 1536 * 2 ^ 30) (s.homeWrite 0 pa bs) ∧
    (closed → exec (.bar2Access false pa len bs) s = .next (s.say (.bytes (List.replicate len 0xFF)))) ∧
    (¬ closed → pa + len ≤ 1536 * 2 ^ 30 → ∃ xs n, xs.length = len ∧ (s.isBad pa len = false → n = s.freeCtr) ∧
      (∀ i, i < len → s.isBad (pa + i) 1 = false → xs[i]? = some (s.byteAt 0 (pa + i))) ∧
      exec (.bar2Access false pa len bs) s = .next (({ s with freeCtr := n } : State).say (.bytes xs)))) ∧
  (∀ wr pa len bs, fn % 256 ≠ 0 → exec (.bar2Access wr pa len bs) s = .next s)) ∧
  (∀ (s : State) (fn j : Nat),
    (fn % 256 = 0 → s.pageQueue fn j = if j < 1024 then some j else none) ∧
    (fn % 256 ≠ 0 → s.pageQueue fn j = ((s.pkg.queues.filter fun y => y.2.bound && y.2.fn == fn)[j]?).map (·.1))) ∧
  (∀ s : State, s.pageQueue s.cur.hart s.cur.n = none →
    (∀ v, ∀ i ∈ [Instr.qbaseWrite v, .qtailWrite v, .qdwbWrite v, .qkickWrite v, .queueEnable, .queueReset], exec i s = .next s) ∧
    exec .qstatRead s = .next (s.say (.word 0))) ∧
  (∀ (s : State) (q : Nat), s.pageQueue s.cur.hart s.cur.n = some q →
  let x := s.hostQueue q
  let set (y : Queue) : State := s.setHostQueue q y
  let room := 2 ^ part x.base 3 0
  let work (t : Task) : Prop := t.queue = some q ∨ ∃ g ∈ t.batch, ∃ e, s.stream g = some e ∧ e.queue = some q
  (∀ v : Word,
    let good := x.en = false ∧ 4 ≤ v.toNat % 16 ∧ v.toNat % 16 ≤ 12
    (good → exec (.qbaseWrite v) s = .next (set { x with base := BitVec.ofNat 64 (v.toNat / 2 ^ 12 * 2 ^ 12 + v.toNat % 16) })) ∧
    (¬ good → exec (.qbaseWrite v) s = .next (ignored s q)) ∧
    (v.toNat % 2 ^ 12 < room → exec (.qtailWrite v) s = .next (set { x with tail := v.toNat % 2 ^ 12 })) ∧
    (room ≤ v.toNat % 2 ^ 12 → exec (.qtailWrite v) s = .next (ignored s q)) ∧
    exec (.qdwbWrite v) s = .next (set { x with qdwb := BitVec.ofNat 64 (v.toNat / 8 * 8) }) ∧
    (s.cur.k ≠ 1 → x.rst = true → exec (.qkickWrite v) s = .next (set { x with code := 8 })) ∧
    (s.cur.k ≠ 1 → x.rst = false → x.en = false → exec (.qkickWrite v) s = .next (ignored s q)) ∧
    (s.cur.k ≠ 1 → x.rst = false → x.en = true → x.kicks ≠ [] → exec (.qkickWrite v) s = .next (set { x with kicks := x.kicks ++ [v] })) ∧
    (s.cur.k ≠ 1 → x.rst = false → x.en = true → x.kicks = [] →
      (∀ t, s.kick q x v = .done t → exec (.qkickWrite v) s = .next t) ∧
      (∀ code t, s.kick q x v = .refuse code t → exec (.qkickWrite v) s = .next (t.setHostQueue q { t.hostQueue q with code })) ∧
      (s.kick q x v = .wait → exec (.qkickWrite v) s = .next (set { x with kicks := [v] }))) ∧
    (s.cur.k = 1 → x.kicks = [] → exec (.qkickWrite v) s = .next s) ∧
    (∀ k ks, s.cur.k = 1 → x.kicks = k :: ks →
      let u := set { x with kicks := ks }
      (∀ t, u.kick q x k = .done t → exec (.qkickWrite v) s = .next t) ∧
      (∀ code t, u.kick q x k = .refuse code t → exec (.qkickWrite v) s = .next (t.setHostQueue q { t.hostQueue q with code })) ∧
      (u.kick q x k = .wait → exec (.qkickWrite v) s = .next s))) ∧
  (s.cur.k = 1 → exec .queueEnable s = .next (set { x with en := false })) ∧
  (s.cur.k ≠ 1 → x.bound = false → exec .queueEnable s = .next (ignored s q)) ∧
  (s.cur.k ≠ 1 → x.bound = true → x.en = true → exec .queueEnable s = .next s) ∧
  (s.cur.k ≠ 1 → x.bound = true → x.en = false → exec .queueEnable s = .next (set { x with en := true, rstdone := false, done := 0 })) ∧
  (s.cur.k = 0 ∨ s.cur.k = 7 → exec .qstatRead s = .next ((set { x with code := 0, badw := false, slot := 0 }).say
    (.word (BitVec.ofNat 64 (x.code % 256 * 2 ^ 56 + one x.badw * 2 ^ 55 + x.slot % 4096))))) ∧
  (∀ r v, s.cur.k = r + 1 → r ≠ 6 → (r, v) ∈ [(0, x.base), (1, BitVec.ofNat 64 x.tail), (2, BitVec.ofNat 64 x.head), (3, (0 : Word)),
      (4, BitVec.ofNat 64 (one x.rstdone * 4 + one x.rst * 2 + one x.en)),
      (5, BitVec.ofNat 64 (one x.bound * 2 ^ 63 + x.ctx % 1024 * 2 ^ 32 + x.key % 1024)), (7, x.done), (8, x.qdwb)] ∨ (9 ≤ r ∧ v = 0) →
    s.cur.k = r + 1 → exec .qstatRead s = .next (s.say (.word v))) ∧
  (x.rst = true → exec .queueReset s = .next s) ∧
  (x.rst = false →
    let a := set { x with rst := true, rstdone := false, head := x.tail, kicks := [] }
    let b : State := { a with pkg := { a.pkg with runs := a.pkg.runs.map fun r => if r.2.queue = q then (r.1, { r.2 with expanded := true, status := 2 }) else r } }
    ∀ ts : List (Nat × Task), ts = b.allTasks.filter (fun t => b.ofQueue q t.2) →
      (∀ t ∈ ts, work t.2) ∧ (∀ t ∈ b.allTasks, work t.2 → t ∈ ts) ∧
      let u := ts.foldl (fun u t => u.endOutside t.1) b
      exec .queueReset s = .next ((u.queueStreams q).foldl (fun u g => u.prune 9 g.1) u))) ∧
  (∀ s : State,
  let q := s.cur.n
  let x := s.hostQueue q
  let set (y : Queue) : State := s.setHostQueue q y
  let work (t : Task) : Prop := t.queue = some q ∨ ∃ g ∈ t.batch, ∃ e, s.stream g = some e ∧ e.queue = some q
  (∀ key ctx fn,
    let locked (f : Nat) : Prop := mget s.pkg.tdisp f = some 1 ∨ mget s.pkg.tdisp f = some 2
    let broken (f : Nat) : State :=
      (s.pkg.queues.filter fun y => decide (f % 256 = 0) || y.2.bound && y.2.fn == f).foldl (fun t y => t.resetQueue y.1)
        { s with pkg := { s.pkg with tdisp := mset s.pkg.tdisp f 3 } }
    (x.bound = true → locked x.fn → exec (.queueBind key ctx fn) s = .next (broken x.fn)) ∧
    (¬ (x.bound = true ∧ locked x.fn) → locked fn → exec (.queueBind key ctx fn) s = .next (broken fn)) ∧
    (¬ (x.bound = true ∧ locked x.fn) → ¬ locked fn → Does (.queueBind key ctx fn) s (x.en = false)
      (set { x with bound := true, key := key % 1024, ctx := ctx % 1024, fn }))) ∧
  (let quiet := x.rst = true ∧ x.started = [] ∧ (∀ t ∈ s.allTasks, ¬ work t.2) ∧ (∀ r ∈ s.pkg.runs, r.2.queue ≠ q) ∧
      (∀ g ∈ s.queueStreams q, g.2.state = .pruned) ∧ (∀ f ∈ s.pkg.fabOut, f.p.srcTask ≠ 0 → ∀ t, s.task f.p.srcTask = some t → ¬ work t) ∧
      (∀ f ∈ s.pkg.fabOut, f.p.srcTask ≠ 0 → s.task f.p.srcTask ≠ none)
   (quiet → s.pkg.stopping = [] →
      exec .rstdone s = .next (set { x with rst := false, rstdone := true, en := false, head := x.tail })) ∧
   (¬ quiet → exec .rstdone s = .next s)))

/-- The entries of a host queue (R419, R420, R426, R428): how one starts, what each does when it is performed, and its refusals.
Where the rules leave a point open, what it says is the model's choice (log entries 91, 92, 96, 123 and 124). -/
def Obligations.QueueEntries : Prop := ∀ (s : State) (c : Container),
  let q := s.cur.n
  let x := s.hostQueue q
  let all : List (Nat × Instr) := [(1, .kick), (2, .hostCadd), (3, .amsg), (4, .hostFence), (5, .load c), (6, .hwrite), (7, .hread)]
  let work (t : Task) : Prop := t.queue = some q ∨ ∃ g ∈ t.batch, ∃ e, s.stream g = some e ∧ e.queue = some q
  (s.cur.k = 0 → ∀ ws, ws = (List.range 8).map (fun i => BitVec.ofNat 64 (wordIn (memRead s.mem (2 ^ 64 + part x.base 63 12 * 4096 + 64 * x.head) 64) i)) →
    let op := part (ws.getD 0 0) 63 56
    let next : Queue := { x with head := (x.head + 1) % 2 ^ part x.base 3 0 }
    let refused (code : Nat) : State := completed (noted (s.setHostQueue q next) q code x.head) q
    let starts := x.en = true ∧ x.head ≠ x.tail ∧ x.kicks = [] ∧ ∀ e ∈ x.started, part (e.2.getD 0 0) 63 56 ∉ [3, 4] ∧
      (part (e.2.getD 0 0) 63 56 = 1 → mget s.pkg.runs (part (e.2.getD 1 0) 63 52) = none)
    (¬ starts → ∀ i ∈ all, exec i.2 s = .next s) ∧
    (starts →
      (op = 0 ∨ 8 ≤ op → exec .kick s = .next (refused (if x.rst then 8 else 1))) ∧
      (∀ i ∈ all, i.1 = op →
        (x.rst = true → exec i.2 s = .next (refused 8)) ∧
        (x.rst = false → reservedBits op ws → exec i.2 s = .next (refused 2)) ∧
        (x.rst = false → ¬ reservedBits op ws → exec i.2 s = .next (s.setHostQueue q { next with started := x.started ++ [(x.head, ws)] }))))) ∧
  (∀ slot ws j,
    let w (i : Nat) : Nat := (ws.getD i 0).toNat
    let add := w 1 % 2 ^ 57
    (Performs s 1 slot ws j →
      let g := w 1 / 2 ^ 52
      let at_ := w 1 / 2 ^ 6 % 2 ^ 46 * 64
      (x.rst = true → Rejected .kick s j slot 8 s) ∧
      (x.rst = false → w 1 % 2 ^ 6 ≠ 0 → Rejected .kick s j slot 2 s) ∧
      (x.rst = false → w 1 % 2 ^ 6 = 0 → (∀ o, mget s.pkg.graphs g = some o → o.owner ≠ x.key) → Rejected .kick s j slot 3 s) ∧
      (∀ o, x.rst = false → w 1 % 2 ^ 6 = 0 → mget s.pkg.graphs g = some o → o.owner = x.key →
        ((mget s.pkg.runs g).isSome = true → exec .kick s = .next s) ∧
        (mget s.pkg.runs g = none →
          (PatchesFail s x o.graph.np at_ → Rejected .kick s j slot 5 s) ∧
          (∀ h, at_ ≠ 0 → (mget s.pkg.keys x.key).isSome = true → s.devRead 0 x.ctx x.key at_ 8 = .ok h → o.graph.np < wordIn h 0 →
            Rejected .kick s j slot 4 s) ∧
          (∀ ps, Patches s x o.graph.np at_ ps →
            ((∃ p ∈ ps, badPatch o.graph.tasks.length p) → Rejected .kick s j slot 4 s) ∧
            ((∀ p ∈ ps, ¬ badPatch o.graph.tasks.length p) → ∃ r, Replays q x o ps r ∧
              Performed .kick s j { s with pkg := { s.pkg with runs := mset s.pkg.runs g r } }))))) ∧
    (Performs s 2 slot ws j → ∀ die, s.rangeNack add 8 = some die → Rejected .hostCadd s j slot 5 (s.countNack die)) ∧
    (Performs s 2 slot ws j → s.rangeNack add 8 = none → ∀ t, Added s x.ctx x.key add (ws.getD 2 0) t →
      (∀ u, t = some u → Performed .hostCadd s j u) ∧ (t = none → Rejected .hostCadd s j slot 5 s)) ∧
    (Performs s 3 slot ws j →
      let id := w 2 / 2 ^ 32
      let ch := w 2 % 4
      let target (c e : Nat) (a : Actor) : Prop := ∃ t, s.task id = some t ∧ t.state = .running ∧ work t ∧ s.ownerDev (homeSlice add).1 add = some c ∧
        (∃ p ∈ t.places, p.core = c) ∧ (s.core c).actors.find? (fun a => a.2.task == id && a.2.idx == w 2 / 2 ^ 6 % 2 ^ 6) = some (e, a) ∧ ∃ i ∈ a.ins, i.ch = ch
      ((¬ ∃ c e a, target c e a) → Rejected .amsg s j slot 6 s) ∧
      (∀ c e a, target c e a →
        let m : OutMsg := .actor id c e ch (BitVec.ofNat 1024 (add + w 4 * 2 ^ 64 + w 5 * 2 ^ 128 + w 6 * 2 ^ 192 + w 7 * 2 ^ 256))
        w 1 < 2 ^ 57 →
        (s.accepts m = true → Performed .amsg s j (s.deliverMsg m)) ∧ (s.accepts m = false → exec .amsg s = .next s))) ∧
    (Performs s 4 slot ws j →
      let quiet := x.kicks = [] ∧ ∀ r ∈ s.pkg.runs, r.2.queue ≠ q
      (quiet → Performed .hostFence s j s) ∧ (¬ quiet → exec .hostFence s = .next s)) ∧
    (Performs s 5 slot ws j →
      let pa := w 1 % 2 ^ 52
      let rec_ := w 2 % 2 ^ 57
      let record (status sect count first : Nat) : List Byte := leBytes 8 (9 * 2 ^ 56 + status % 256 * 2 ^ 48 + sect % 256 * 2 ^ 40 + count % 4096 * 2 ^ 16 + first % 4096)
      (s.fwAway = true → exec (.load c) s = .next s) ∧
      let fine := pa % 4096 = 0 ∧ pa + 4096 ≤ 1536 * 2 ^ 30 ∧ rec_ % 64 = 0
      let gs := s.graphsOf x.key pa c.sections.length
      let bytes := s.homeRead x.key (2 ^ 65 + pa) (4096 * part (s.hbmWord x.key pa) 31 0)
      (s.fwAway = false → ¬ fine → Rejected (.load c) s j slot 5 s) ∧
      (∀ die, s.fwAway = false → fine → s.rangeNack rec_ 64 = some die → Rejected (.load c) s j slot 5 (s.countNack die)) ∧
      (s.fwAway = false → fine → s.rangeNack rec_ 64 = none → (mget s.pkg.keys x.key).isSome = false ∨
        (∃ e, s.xlateDie 0 x.ctx rec_ true = .error e) → Rejected (.load c) s j slot 5 s) ∧
      (∀ a, s.fwAway = false → fine → s.rangeNack rec_ 64 = none → (mget s.pkg.keys x.key).isSome = true →
        s.xlateDie 0 x.ctx rec_ true = .ok a →
        (∀ n k, s.containerBad x.key pa c = some (n, k) → Rejected (.load c) s j slot 7 (s.homeWrite x.key a (record n k 0 0))) ∧
        (s.containerBad x.key pa c = none → mrising s.pkg.graphs = true → ∃ g t, s.accept x.ctx x.key c gs bytes = (g, t) ∧ g + gs.length ≤ 4096 ∧
          (∀ (i : Nat) o, gs[i]? = some o → mget s.pkg.graphs (g + i) = none ∧
            ∃ o', Filled x.key c.tables i o o' ∧ mget t.pkg.graphs (g + i) = some { graph := o', owner := x.key }) ∧
          (∀ i, i < g ∨ g + gs.length ≤ i → mget t.pkg.graphs i = mget s.pkg.graphs i) ∧ t.pkg.measured = s.pkg.measured + 1 ∧
          Performed (.load c) s j (t.homeWrite x.key a (record 0 0 gs.length g))))) ∧
    (Performs s 6 slot ws j →
      let n := w 3 % 2 ^ 32
      let bs := memRead s.mem (2 ^ 64 + w 2) n
      (n = 0 → Performed .hwrite s j s) ∧
      (∀ die, n ≠ 0 → s.rangeNack add n = some die → Rejected .hwrite s j slot 5 (s.countNack die)) ∧
      (n ≠ 0 → s.rangeNack add n = none →
        (∀ t, s.devWrite 0 x.ctx x.key add bs = some t → Performed .hwrite s j t) ∧
        (s.devWrite 0 x.ctx x.key add bs = none → Rejected .hwrite s j slot 5 s))) ∧
    (Performs s 7 slot ws j →
      let n := w 3 % 2 ^ 32
      let places := s.hostPlaces x.ctx (pieces (n / 65536 + 2) add n 65536)
      (n = 0 → Performed .hread s j s) ∧
      (∀ die, n ≠ 0 → s.rangeNack add n = some die → Rejected .hread s j slot 5 (s.countNack die)) ∧
      (n ≠ 0 → s.rangeNack add n = none → (mget s.pkg.keys x.key).isSome = false ∨ places = none → Rejected .hread s j slot 5 s) ∧
      (∀ ps, n ≠ 0 → s.rangeNack add n = none → (mget s.pkg.keys x.key).isSome = true → places = some ps → ∃ (bs : List Byte) (k : Nat),
        (∀ i b : Nat, (ps.flatMap fun p => (List.range p.2).map (p.1 + ·))[i]? = some b → s.isBad b 1 = false → bs[i]? = some (s.byteAt x.key b)) ∧
        bs.length = (ps.map (·.2)).sum ∧
        Performed .hread s j { s with freeCtr := k, mem := memWrite s.mem (2 ^ 64 + w 2) bs })))

/-- Replays (R425): the expansion spawns the tasks in order, and the completion writes the record and then adds to the counter; what
fails its translation or key is dropped.
Where the rules leave a point open, what it says is the model's choice (log entry 94). -/
def Obligations.GraphReplays : Prop := ∀ s : State,
  let g := s.cur.n
  (mget s.pkg.runs g = none → exec .graphReplay s = .next s ∧ exec .graphComplete s = .next s) ∧
  (∀ r, mget s.pkg.runs g = some r →
    (r.expanded = true → exec .graphReplay s = .next s) ∧
    (r.expanded = false → ∃ t r', Spawned g s { r with expanded := true } 0 r.graph.tasks t r' ∧
      exec .graphReplay s = .next { t with pkg := { t.pkg with runs := mset t.pkg.runs g r' } }) ∧
    (let ended := r.expanded = true ∧ ∀ t ∈ r.spawned, t.1 ∈ r.published
     (¬ ended → exec .graphComplete s = .next s) ∧
     (ended →
      let record := leBytes 8 (8 * 2 ^ 56 + r.status * 2 ^ 48 + r.refused % 4096 * 2 ^ 32 + r.word.toNat % 2 ^ 32) ++ List.replicate 56 0
      let t := if r.graph.grec = 0 then s else match s.rangeNack r.graph.grec 64 with
        | some die => s.countNack die
        | none => (s.devWrite 0 r.ctx r.key r.graph.grec record).getD s
      let ends (v : State) : Prop := exec .graphComplete s = .next { v with pkg := { v.pkg with runs := mdel v.pkg.runs g } }
      (∀ die, t.rangeNack r.graph.gdone 8 = some die → ends (t.countNack die)) ∧
      (t.rangeNack r.graph.gdone 8 = none → ∀ u, Added t r.ctx r.key r.graph.gdone r.graph.gval u → ends (u.getD t)))))

/-- The services of firmware (R429): each answers its call, whose result is then delivered; while firmware is away they wait.
Where the rules leave a point open, what it says is the model's choice (log entry 90). -/
def Obligations.FirmwareServices : Prop := ∀ s : State,
  let c := s.cur.core
  let away : Prop := s.pkg.restarting = true ∨ ∃ o ∈ dieCores 0, s.inColumn o = true ∧ (s.core o).fenced = true
  let all : List (Nat × Instr) := [(1, .map_), (2, .unmap), (3, .keyq), (4, .hrst), (5, .preempt)]
  (∀ i ∈ all, (∀ j, (s.core c).calls[s.cur.n]? = some j → j.svc ≠ i.1 ∨ away) → exec i.2 s = .next s) ∧
  (∀ j, (s.core c).calls[s.cur.n]? = some j → ¬ away →
    let answers (i : Instr) (v : Word) (t : State) : Prop :=
      exec i s = .next ((t.setCore c { t.core c with calls := (t.core c).calls.eraseIdx s.cur.n }).fillResult c j.slot j.d v)
    let va := j.a.toNat % 2 ^ 57
    let size := j.b.toNat % 4
    let level := 4 - size
    let entry := number (memRead s.mem (part (s.die (c / 256)).xlctx 51 12 * 4096 + 8 * j.ctx) 8)
    let at_ (a : Nat) : Prop := entry % 2 = 1 ∧ TablePath s va level 0 (entry / 2 ^ 12 % 2 ^ 40 * 4096) a
    let left (i : Instr) (t : State) : Prop := answers i 0 (t.invalidateTlbs j.ctx va (some (pageSize level)))
    (j.svc = 1 →
      let pa := part j.b 51 8 * 256
      let granted := pa % pageSize level = 0 ∧ ∃ xs, mget s.pkg.allot j.key = some xs ∧ ∃ r ∈ xs, r.1 ≤ pa ∧ pa + pageSize level ≤ r.1 + r.2
      (size = 3 → answers .map_ (BitVec.ofNat 64 (Config.free s.freeCtr)) { s with freeCtr := s.freeCtr + 1 }) ∧
      (size ≠ 3 → ¬ granted → answers .map_ 1 s) ∧
      (size ≠ 3 → granted →
        (∀ a, at_ a → number (memRead s.mem a 8) % 4 = 3 → answers .map_ 2 s) ∧
        (∀ a, at_ a → number (memRead s.mem a 8) % 4 = 1 →
          (s.mapsAny (4 - level) (level + 1) (number (memRead s.mem a 8) / 2 ^ 8 % 2 ^ 44 * 256) = true → answers .map_ 2 s) ∧
          (s.mapsAny (4 - level) (level + 1) (number (memRead s.mem a 8) / 2 ^ 8 % 2 ^ 44 * 256) = false →
            answers .map_ 0 (s.homeWrite 0 a (leBytes 8 (pa + part j.b 3 2 * 4 + 3))))) ∧
        (∀ a, at_ a → number (memRead s.mem a 8) % 2 = 0 → answers .map_ 0 (s.homeWrite 0 a (leBytes 8 (pa + part j.b 3 2 * 4 + 3)))) ∧
        (∀ root u, s.rootTable (c / 256) j.ctx = (root, u) →
          (∀ t, u.putLeaf 5 0 level root va (pa + part j.b 3 2 * 4 + 3) = some t → answers .map_ 0 t) ∧
          (u.putLeaf 5 0 level root va (pa + part j.b 3 2 * 4 + 3) = none → answers .map_ 2 u)))) ∧
    (j.svc = 2 →
      (size = 3 → answers .unmap (BitVec.ofNat 64 (Config.free s.freeCtr)) { s with freeCtr := s.freeCtr + 1 }) ∧
      (size ≠ 3 →
        (∀ a, at_ a → number (memRead s.mem a 8) % 4 = 3 → left .unmap (s.homeWrite 0 a (leBytes 8 0))) ∧
        (∀ a, at_ a → number (memRead s.mem a 8) % 4 ≠ 3 → left .unmap s) ∧ ((¬ ∃ a, at_ a) → left .unmap s))) ∧
    (j.svc = 3 → answers .keyq (if (mget s.pkg.keys j.a.toNat).isSome then 1 else 0) s) ∧
    (j.svc = 4 →
      let h (i : Fin 2) : Helper := let y := (s.core c).helpers[i]
        if j.b.getLsbD i.val = true ∧ y.held = false then { held := false } else y
      answers .hrst 0 (s.setCore c { s.core c with helpers := #v[h 0, h 1] })) ∧
    (j.svc = 5 →
      ((∀ t, s.task j.a.toNat = some t → t.key ≠ j.key) → answers .preempt 1 s) ∧
      (∀ t, s.task j.a.toNat = some t → t.key = j.key → ∀ r u, s.requestPreempt j.a.toNat = (r, u) →
        answers .preempt (if r = .refused then 1 else 0) u)))

/-- The SPDM responder, the keys and the interfaces (R391, R433, R435): the requests in the order that the model presumes (log entry 60), key
loading inside a session, and the binding of a locked interface. Firmware update (R434), in the order of the commands that the model
presumes (log entry 61): the data goes to the inactive bank, verification checks the signature and the version, and activation swaps the
banks and restarts the column. -/
def Obligations.TrustServices : Prop :=
  (∀ s : State,
  let p := s.pkg
  let responds (i : Instr) (x : Spdm) (a : Answer) : Prop := exec i s = .next { s with pkg := { p with spdm := x, answer := a } }
  let secret (i : Instr) (x : Spdm) (r : Nat) : Prop :=
    exec i s = .next { s with pkg := { p with spdm := x, answer := .spdm r [Config.free s.freeCtr] }, freeCtr := s.freeCtr + 1 }
  let n := p.spdm.nego
  let k := p.spdm.session
  let turned (i : Instr) (ok : Prop) : Prop := ¬ ok → responds i p.spdm .error
  (p.restarting = true → ∀ i ∈ [Instr.getVersion, .getCapabilities, .negotiateAlgorithms, .getDigests, .getCertificate, .challenge, .getMeasurements,
    .keyExchange, .finish, .endSession, .heartbeat], responds i p.spdm .busy) ∧
  (p.restarting = false →
    responds .getVersion { nego := 1 } (.spdm 1 [13]) ∧
    (n = 1 → secret .getCapabilities { p.spdm with nego := 2 } 2) ∧ turned .getCapabilities (n = 1) ∧
    (n = 2 → responds .negotiateAlgorithms { p.spdm with nego := 3 } (.spdm 3 [87, 512])) ∧ turned .negotiateAlgorithms (n = 2) ∧
    (n = 3 → responds .getDigests p.spdm (.spdm 4 [sha3 Config.certChain]) ∧ (s.cur.n = 0 → responds .getCertificate p.spdm (.spdm 5 (Config.certChain.map (·.toNat)))) ∧
      secret .challenge p.spdm 6 ∧ responds .getMeasurements p.spdm (.measurements p.meas)) ∧
    (∀ i ∈ [Instr.getDigests, .challenge, .getMeasurements], turned i (n = 3)) ∧ turned .getCertificate (n = 3 ∧ s.cur.n = 0) ∧
    (n = 3 → k = 0 → secret .keyExchange { p.spdm with session := 1 } 8) ∧ turned .keyExchange (n = 3 ∧ k = 0) ∧
    (k = 1 → responds .finish { p.spdm with session := 2 } (.spdm 9 [])) ∧ turned .finish (k = 1) ∧
    (k = 2 → responds .endSession { p.spdm with session := 0 } (.spdm 10 [])) ∧ turned .endSession (k = 2) ∧
    (k = 2 → responds .heartbeat p.spdm (.spdm 11 [])) ∧ turned .heartbeat (k = 2)) ∧
  (∀ key load allot,
    let i : Instr := .keyLoad key load allot
    let bound (q : Nat × Queue) : Bool := q.2.bound && q.2.key == key && (mgetD p.tdisp q.2.fn 0 == 1 || mgetD p.tdisp q.2.fn 0 == 2)
    let ok := k = 2 ∧ 0 < key ∧ key < 1024
    (p.restarting = true → responds i p.spdm .busy) ∧ (p.restarting = false → turned i ok) ∧
    (p.restarting = false → ok →
      (∀ q, p.queues.find? bound = some q → exec i s = .next (s.violate q.2.fn)) ∧
      (p.queues.find? bound = none →
        (load = true → exec i s = .next { s with pkg := { p with keys := mset p.keys key p.nextKey, nextKey := p.nextKey + 1, allot := mset p.allot key allot } }) ∧
        (load = false → exec i s = .next { s with pkg := { p with keys := mdel p.keys key, allot := mdel p.allot key } })))) ∧
  (let fn := s.cur.n
   let at_ := mgetD p.tdisp fn 0
   let mine := if fn % 256 = 0 then p.queues else p.queues.filter fun q => q.2.bound && q.2.fn == fn
   let put (t : Nat) : State := { s with pkg := { p with tdisp := mset p.tdisp fn t } }
   Does .lockInterface s (fn % 256 ≠ 0 ∧ at_ = 0) (put 1) ∧
   Does .startInterface s (at_ = 1 ∧ s.cur.k = 1) (put 2) ∧
   Does .bindingViolation s (at_ = 1 ∨ at_ = 2) (mine.foldl (fun t q => t.resetQueue q.1) (put 3)) ∧
   let stopped : State := { s with pkg := { p with tdisp := mset p.tdisp fn 0, stopping := fn :: p.stopping.filter (· != fn) } }
   Does .stopInterface s (fn % 256 ≠ 0) ((mine.foldl (fun t q => t.resetQueue q.1) stopped).finishStops) ∧
   let report : Answer := .report (mine.map fun q => (q.1, BitVec.ofNat 64 (one q.2.bound * 2 ^ 63 + q.2.ctx % 1024 * 2 ^ 32 + q.2.key % 1024)))
     ((List.range mine.length).map (fun j => (4096 * j, 4096)) ++ [(0x4000000, 64 * 2 ^ 20)])
   exec .getDeviceInterfaceReport s = .next { s with pkg := { p with answer := report } })) ∧
  (∀ s : State,
  let p := s.pkg.pldm
  let goes (i : Instr) (from_ : List Update) (y : Pldm) : Prop :=
    (p.state ∈ from_ → exec i s = .next { s with pkg := { s.pkg with pldm := y, answer := .pldm y.state.code } }) ∧
    (p.state ∉ from_ → exec i s = .next { s with pkg := { s.pkg with answer := .error } })
  let any : List Update := [.idle, .learn, .ready, .download, .verify, .apply]
  (∀ i ∈ [Instr.queryDeviceIdentifiers, .getFirmwareParameters, .getStatus], goes i any p) ∧
  goes .requestUpdate [.idle] { p with state := .learn, applied := [] } ∧
  goes .passComponentTable [.learn] { p with state := .ready } ∧
  (∀ comp, goes (.updateComponent comp) [.ready] { p with state := .download, comp := comp % 2, inactive := mset p.inactive (comp % 2) [], applied := p.applied.filter (· != comp % 2) }) ∧
  (∀ bs, goes (.requestFirmwareData bs) [.download] { p with inactive := mset p.inactive p.comp (mgetD p.inactive p.comp [] ++ bs) }) ∧
  goes .transferComplete [.download] { p with state := .verify } ∧
  (∀ good version,
    let least := if p.comp = 0 then s.pkg.boot.minFw else s.pkg.fuse
    (good = true → least ≤ version → goes (.verifyComplete good version) [.verify] { p with state := .apply }) ∧
    (good = false ∨ version < least → goes (.verifyComplete good version) [.verify] { p with state := .idle })) ∧
  goes .applyComplete [.apply] { p with state := .ready, applied := p.comp :: p.applied } ∧
  (p.applied = [] → goes .activateFirmware [.ready] p) ∧
  (∀ c, p.state = .ready → p.applied = [c] →
    let swapped (to_ from_ : SMap (List Byte)) : SMap (List Byte) := match mget from_ c with
      | some bs => mset to_ c bs
      | none => mdel to_ c
    let y : Pldm := { p with state := .idle, applied := [], active := swapped p.active p.inactive, inactive := swapped p.inactive p.active }
    exec .activateFirmware s = .next { s with pkg := { s.pkg with restarting := true, pldm := y, answer := .pldm 0 } }) ∧
  (p.state = .ready → p.applied ≠ [] → ∃ y, exec .activateFirmware s = .next { s with pkg := { s.pkg with restarting := true, pldm := y, answer := .pldm 0 } }) ∧
  (p.state ≠ .ready → exec .activateFirmware s = .next { s with pkg := { s.pkg with answer := .error } }) ∧
  goes .cancelUpdateComponent [.download, .verify, .apply] { p with state := .ready } ∧
  goes .cancelUpdate [.learn, .ready, .download, .verify, .apply] { p with state := .idle, applied := [] } ∧
  (s.pkg.restarting = false → exec .firmwareRestartComplete s = .next s) ∧
  (s.pkg.restarting = true →
    exec .firmwareRestartComplete s = .next
      { s with pkg := { s.pkg with meas := mset s.pkg.meas 3 (sha3 ((mget p.active 0).getD Config.columnImage)), restarting := false } }))

/-- Scrubbing, lines, domains and throttling (R208, R436, R438, R439, R445 to R448): `scrub`, `bitmapFlashWrite`, `domainRaise`,
`domainWindowExpiry`, `throttleStart` and `throttleEnd` complete in every state, and leave what the rules give. How an operand of `scrub` names a
place, and what it finds there, is the model's choice (log entry 120); that the first clear measurement begins the 1 ms of R448
is too (log entry 101). -/
def Obligations.CorrectedErrors : Prop := ∀ s : State,
  let raised (v : Word) (hi lo : Nat) : Word :=
    BitVec.ofNat 64 (v.toNat - part v hi lo * 2 ^ lo + (if part v hi lo + 1 < 65535 then part v hi lo + 1 else 65535) * 2 ^ lo)
  (∀ die kind detail,
    let d := s.die die
    s.relEvent die kind detail = s.setDie die (if d.relClk = some s.clk ∧ part d.rellast 63 56 < kind then { d with relDue := d.relDue + 1 }
      else { d with rellast := BitVec.ofNat 64 (kind * 2 ^ 56 + detail % 2 ^ 48), relClk := some s.clk, relDue := d.relDue + 1 })) ∧
  (∀ die n, n < 2 ^ 64 →
    let d := s.die die
    let a := part d.relctr 56 0
    (d.relctr = 0 → s.relAdd die n = s) ∧
    (∀ e, d.relctr ≠ 0 → s.xlateDie die d.relctrCtx a true = .error e → s.relAdd die n = s) ∧
    (∀ pa, d.relctr ≠ 0 → s.xlateDie die d.relctrCtx a true = .ok pa →
      let sum := number (s.homeRead 0 pa 8) + n
      (∀ o, s.rangeNack a 8 = some o → s.relAdd die n = s.setDie o { s.die o with cfstat := raised (s.die o).cfstat 47 32 }) ∧
      (s.rangeNack a 8 = none → s.relAdd die n = s.homeWrite 0 pa (leBytes 8 (if sum < 2 ^ 64 then sum else 2 ^ 64 - 1))))) ∧
  (s.relSettle = (s.dies.filter fun d => d.2.relDue != 0).foldl (fun t d => (t.setDie d.1 { t.die d.1 with relDue := 0 }).relAdd d.1 d.2.relDue) s) ∧
  (∀ a, exec (.scrub a 0) s = .next s) ∧
  (∀ a, a < 11 * 2 ^ 60 →
    let c := s.cur.core
    let w (b : Nat) : Nat := b / (if b / 2 ^ 60 = 3 then 4 else 8)
    let hi := if a / 2 ^ 60 = 3 then 63 else if a / 2 ^ 60 = 1 ∨ (a / 2 ^ 60 = 9 ∧ 2 ≤ a / 2 ^ 56 % 16) then 47 else if a / 2 ^ 60 = 10 then 31 else 15
    let i := a / 64 % 2 ^ 10
    let mask : BitVec 64 := 0xFF#64 <<< (a % 64 / 8 * 8)
    let t : State := { s with bad := s.bad.filter fun b => w b != w a }
    let line (f : Line → Line) : State := match (s.core c).l1[i]? with
      | some l => t.setCore c { s.core c with l1 := (s.core c).l1.set i (f l) }
      | none => t.setCore c (s.core c)
    let v := if a / 2 ^ 59 = 20 then line (fun l => { l with err := l.err &&& ~~~ mask }) else if a / 2 ^ 60 = 9 then t.markTable c a false else t
    exec (.scrub a 1) s = .next ((v.setCore c { v.core c with cecnt := raised (v.core c).cecnt hi (hi - 15) }).domainEvent c) ∧
    (a / 2 ^ 59 ≠ 20 → a / 2 ^ 60 ≠ 9 → exec (.scrub a 2) s = .next { s with bad := s.bad ++ [a] }) ∧
    (a / 2 ^ 60 = 9 → exec (.scrub a 2) s = .next (s.markTable c a true)) ∧
    (∀ e, s.actor c (a % 64) = some e → a / 2 ^ 56 = 144 → s.markTable c a true = s.setActor c (a % 64) { e with bad := true }) ∧
    (∀ l, a / 2 ^ 59 = 20 → (s.core c).l1[i]? = some l →
      exec (.scrub a 2) s = .next (s.setCore c { s.core c with l1 := (s.core c).l1.set i { l with err := l.err ||| mask } }))) ∧
  (∀ k r n f, s.firing s.cur.core k = some f → k < 8 → r < 16 → n < 256 →
    exec (.scrub (12 * 2 ^ 60 + k * 2 ^ 12 + r * 2 ^ 8 + n) 2) s = .next (s.setFiring s.cur.core k { f with parity := f.parity ++ [(r, n)] })) ∧
  (∀ die sl set way, die < 8 → sl < 48 → set < 1024 → way < 12 →
    let i := sl * 2 ^ 14 + set * 16 + way
    let t := s.domainEvent (die * 256 + sl / 8 * 2 * 16 + sl % 8 * 2)
    let d := t.die die
    let was := mgetD d.lineCount i 0
    let n := if was + 1 < 3 then was + 1 else 3
    let u := t.setDie die { d with lineCount := mset d.lineCount i n }
    let pend (v : State) : State := let e := v.die die
      (v.setDie die { e with slpend := e.slpend ||| BitVec.ofNat 64 (2 ^ sl) }).relEvent die 2 sl
    let x := exec (.scrub (11 * 2 ^ 60 + die * 2 ^ 20 + i) 1) s
    (i ∈ d.lineOff → x = .next t) ∧
    (i ∉ d.lineOff → n < d.ldthr.toNat → x = .next u) ∧
    (i ∉ d.lineOff → d.ldthr.toNat ≤ n → 12 - d.ways ≤ way → x = .next (if was < d.ldthr.toNat ∨ d.slpend.getLsbD sl = false then pend u else u)) ∧
    (i ∉ d.lineOff → d.ldthr.toNat ≤ n → way < 12 - d.ways →
      let off := d.lineOff ++ [i]
      let v := (u.setDie die { u.die die with lineCount := mdel (u.die die).lineCount i, lineOff := off, relstat := raised d.relstat 63 48 }).relEvent die 1
        (sl * 2 ^ 16 + set * 16 + way)
      x = .next (if ((List.range (12 - d.ways)).filter fun w => !off.contains (sl * 2 ^ 14 + set * 16 + w)).length = 1 then pend v else v))) ∧
  (let i := s.cur.n
   let k := s.cur.k
   let d := s.die i
   exec .bitmapFlashWrite s = .next { s with pkg := { s.pkg with
     masks := mset s.pkg.masks i (mgetD s.pkg.masks i 0 ||| d.slret ||| d.slpend), lineMaps := mset s.pkg.lineMaps i d.lineOff } } ∧
   (12 ≤ k → exec .domainRaise s = .next s ∧ exec .domainWindowExpiry s = .next s) ∧
   (∀ h : k < 12,
    let v := d.vdom[k].toNat
    let step := v % 2 ^ 8 + 1
    let cleared : Die := { d with domCount := d.domCount.set k 0 }
    (d.domCount[k] = 0 ∨ d.domCount[k] < d.pfthr.toNat → exec .domainRaise s = .next s) ∧
    (d.domCount[k] ≠ 0 → d.pfthr.toNat ≤ d.domCount[k] → v % 2 ^ 8 < 20 →
      exec .domainRaise s = .next ((s.setDie i { cleared with vdom := d.vdom.set k (BitVec.ofNat 64 (2 ^ 63 + v / 2 ^ 16 % 2 ^ 47 * 2 ^ 16 + step * 2 ^ 8 + step)) }).relEvent
        i 5 (step * 2 ^ 8 + k))) ∧
    (d.domCount[k] ≠ 0 → d.pfthr.toNat ≤ d.domCount[k] → 20 ≤ v % 2 ^ 8 →
      exec .domainRaise s = .next ((s.setDie i { cleared with vdom := d.vdom.set k (BitVec.ofNat 64 (v / 2 ^ 63 * 2 ^ 63 + 2 ^ 62 + v % 2 ^ 62)) }).relEvent i 6 k)) ∧
    (s.clk < d.domOpen[k] + 2250000 → exec .domainWindowExpiry s = .next s) ∧
    (d.domOpen[k] + 2250000 ≤ s.clk →
      exec .domainWindowExpiry s = .next (s.setDie i { cleared with domOpen := d.domOpen.set k (s.clk / 2250000 * 2250000) }))) ∧
   (∀ tj pwr,
    let hot := 105 * 16 ≤ tj ∨ part s.pkg.plim 15 0 < pwr
    (hot → exec (.throttleStart tj pwr) s = .next (s.setDie i { d with therm := d.therm ||| 0x10000, coolAt := none }) ∧
      exec (.throttleEnd tj pwr) s = .next (s.setDie i { d with coolAt := none })) ∧
    (¬ hot → exec (.throttleStart tj pwr) s = .next s ∧
      (d.coolAt = none → exec (.throttleEnd tj pwr) s = .next (s.setDie i { d with coolAt := some s.clk })) ∧
      (∀ since, d.coolAt = some since →
        (s.clk < since + 2250000 → exec (.throttleEnd tj pwr) s = .next s) ∧
        (since + 2250000 ≤ s.clk → exec (.throttleEnd tj pwr) s = .next (s.setDie i { d with therm := d.therm &&& ~~~0x10000 }))))))

/-- Fences (R441, R442): the rectangle of the oldest core that asks is counted and its event reported, and unless the core is disabled the parts of the rectangle
are then reset, with scratchpads and slices zeroed; its boundary opens again. Resets and starts (R430, R432, R437, R439, R440, R448): flash, fuses and the
outside last; pending slices start retired after a package reset, and a loss of power forgets them; the boot ROM takes the table of either bank once, where it
verifies, keeps the rule's limits and is no older than the fuses. That a table whose limits are broken fails like one whose signature does, and what is measured of the
bitmaps and of a shipped column, are the model's choices (log entries 124 and 125), as are the grouping of a fence's steps and what a reset keeps beyond the
rules' lists (log entries 98 and 99). -/
def Obligations.FencesAndResets : Prop :=
  (∀ s : State,
  (s.fenceReq = [] → exec .rectFence s = .next s) ∧
  (∀ c rest, s.fenceReq = c :: rest →
    let s0 : State := { s with fenceReq := rest }
    ((s.core c).fenced = true → exec .rectFence s = .next s0) ∧
    ((s.core c).fenced = false →
      let die := c / 256
      let d := s.die die
      let has (v : Word) (o : Nat) : Prop := part v 15 12 ≤ o % 16 ∧ o % 16 ≤ part v 7 4 ∧ part v 11 8 ≤ o / 16 % 16 ∧ o / 16 % 16 ≤ part v 3 0
      let named (n : Nat) : Prop := s.inColumn c = false ∧ ∃ h : n < 32, (s.die die).crect[n].getLsbD 63 = true ∧ has (s.die die).crect[n] c ∧
        ∀ m, (l : m < n) → ¬ ((s.die die).crect[m].getLsbD 63 = true ∧ has (s.die die).crect[m] c)
      let implicit : Prop := s.inColumn c = false ∧ ¬ ∃ n, named n
      let first (detail : Nat) (last : Option Nat) : State :=
        let busy := (counts d.cfstat 63 48) ||| 0x20
        (s0.setDie die { d with cfstat := match last with
          | some n => BitVec.ofNat 64 (busy.toNat / 32 * 32 + n)
          | none => busy }).relEvent die 3 detail
      let begun (t : State) : Prop := (s.inColumn c = true → t = first 512 none) ∧ (∀ n, named n → t = first n (some n)) ∧
        (implicit → t = first (256 + c / 16 % 16 * 2 ^ 16 + c % 16 * 2 ^ 12) none)
      ((s.core c).disabled = true → ∃ t, exec .rectFence s = .next t ∧ begun t) ∧
      ((s.core c).disabled = false → ∃ t, exec .rectFence s = .next t ∧
        let e := t.die die
        let inside (o : Nat) : Prop := o / 256 = die ∧ o % 256 < 192 ∧
          ((s.inColumn c = true ∧ s.inColumn o = true) ∨ (∃ n, named n ∧ ∃ h : n < 32, has (s.die die).crect[n] o) ∨
            (implicit ∧ s.inColumn o = false ∧ o / 32 % 8 = c / 32 % 8 ∧ o % 16 / 2 = c % 16 / 2))
        let lost (sl : Nat) : Prop := s.inColumn c = false ∧ ∃ o, inside o ∧ sl = o / 32 % 8 * 8 + o % 16 / 2
        (part e.cfstat 63 48 = (if part d.cfstat 63 48 + 1 < 65535 then part d.cfstat 63 48 + 1 else 65535) ∧ e.cfstat.getLsbD 5 = true ∧
          (∀ n, named n → part e.cfstat 4 0 = n) ∧ ((¬ ∃ n, named n) → part e.cfstat 4 0 = part d.cfstat 4 0)) ∧
        (e.relDue = d.relDue + 1 ∧ (d.relClk = some s.clk → part d.rellast 63 56 < 3 → e.rellast = d.rellast) ∧
          (d.relClk ≠ some s.clk ∨ 3 ≤ part d.rellast 63 56 → part e.rellast 63 56 = 3 ∧ (∀ n, named n → part e.rellast 47 0 = n) ∧
            (s.inColumn c = true → part e.rellast 47 0 = 512) ∧ (implicit → part e.rellast 47 0 = 256 + c / 16 % 16 * 2 ^ 16 + c % 16 * 2 ^ 12))) ∧
        (∀ id T p, s.task id = some T → p ∈ T.places → inside p.core → ∃ T', t.task id = some T' ∧ T'.faulted = true ∧
          (T.faulted = false → T'.cause = 0x30 ∧ T'.fcore = c) ∧
          (T.state = .running ∨ T.state = .preempting → ∀ q ∈ T.places, ∀ k f, k < 8 → t.firing q.core k = some f → f.rti = q.rti → f.killed = true ∨ f.wait = .record) ∧
          (T.state ∉ [.running, .preempting, .draining, .flushing] → T'.state = .draining ∧ T'.saved = [])) ∧
        (∀ sl, lost sl →
          (∀ g i, die < 8 → d.ways ≤ 12 → g < d.ways * 64 → i < 4096 → Loc.chip die ((g * 48 + sl) * 4096 + i) ∈ t.bad) ∧ (∀ x ∈ e.dirs, x.1 ≠ sl) ∧
          (∀ w ∈ t.pkg.watches, homeSlice w.2.addr ≠ (die, sl)) ∧
          (∀ o, ∀ m ∈ (t.core o).monitors, m.registered = true → m.dir < 1000 → m.dir ≠ die * 48 + sl)) ∧
        (∀ o, inside o →
          let x := t.core o
          x.fenced = true ∧ x.slots = Vector.replicate 8 none ∧ x.l1 = [] ∧ x.tlb = [] ∧ x.nic = [] ∧ x.monitors = [] ∧
          (∀ h : Fin 2, x.helpers[h].pc = 0 ∧ x.helpers[h].halted = false) ∧
          (∀ a, a < 2 ^ 20 → memGet t.mem (Loc.sp o a) = 0 ∧ Loc.sp o a ∉ t.bad) ∧
          (∀ l a, l < 32 → a < 4096 → memGet t.mem (Loc.slice o l a) = 0 ∧ Loc.slice o l a ∉ t.bad))))) ∧
  (let c := s.cur.core
   let die := c / 256
   ((s.core c).fenced = false → exec .fenceComplete s = .next s) ∧
   ((s.core c).fenced = true →
    let cs := ((List.range 192).map (die * 256 + ·)).filter fun o => (s.core o).fence == (s.core c).fence
    let t := cs.foldl (fun t o => t.setCore o { t.core o with fenced := false, fence := none }) s
    let d := t.die die
    let more := t.cores.any fun o => o.1 / 256 == die && o.2.fenced
    exec .fenceComplete s = .next (t.setDie die { d with cfstat := if more then d.cfstat ||| 0x20 else d.cfstat &&& ~~~0x20 }).renewWatches))) ∧
  (∀ s : State,
  let lost (masks : SMap Word) (i : Instr) : Prop := ∃ t, exec i s = .next t ∧
    t.clk = 0 ∧ t.cores = [] ∧ t.clusters = [] ∧ t.dies = [] ∧ t.inputs = s.inputs ∧ t.freeCtr = s.freeCtr ∧ t.fenceReq = [] ∧ t.turn = .firings ∧
    t.pkg.fuse = s.pkg.fuse ∧ t.pkg.keys = [(0, 0)] ∧ t.pkg.tdisp = [] ∧ t.pkg.queues = [] ∧ t.pkg.types = [] ∧ t.pkg.meas = [] ∧ t.pkg.plim = 6000 ∧
    t.pkg.pldm = { active := s.pkg.pldm.active, inactive := s.pkg.pldm.inactive } ∧ t.pkg.lineMaps = s.pkg.lineMaps ∧ t.pkg.masks = masks ∧
    (∀ a, memGet t.mem a = if Loc.slot 3 0 0 ≤ a then memGet s.mem a else 0)
  lost s.pkg.masks .powerFailure ∧
  (115 * 16 ≤ s.cur.n → lost s.pkg.masks .powerRemoval) ∧ (s.cur.n < 115 * 16 → exec .powerRemoval s = .next s) ∧
  (∃ masks, lost masks .packageReset ∧
    (mrising s.dies = true → ∀ n, mgetD masks n 0 = mgetD s.pkg.masks n 0 ||| (s.die n).slret ||| (s.die n).slpend)) ∧
  (∀ a b : BootTable,
    let good (bank : SMap (List Byte)) (x : BootTable) : Prop := x.signed = true ∧ s.pkg.fuse ≤ x.version ∧ (x.colW = 1 ∨ x.colW = 2) ∧ x.colX + x.colW ≤ 16 ∧
      x.signers.length ≤ 8 ∧ (∀ i, i < 8 → (x.disabled.filter fun c => c / 256 == i).eraseDups.length ≤ 8) ∧ ∀ bs, mget bank 1 = some bs → bs = x.bytes
    let fab (v : Word) : Word := let u := v &&& 0xFFFFFFF8#64
      if torusOk u (part u 31 16) then u else 0
    let inUse := s.pkg.pldm.active
    let other := s.pkg.pldm.inactive
    (s.pkg.meas ≠ [] → exec (.measuredStart a b) s = .next s) ∧
    (s.pkg.meas = [] → ¬ good inUse a → ¬ good other b → exec (.measuredStart a b) s = .next s) ∧
    (∀ x, s.pkg.meas = [] → (good inUse a ∧ x = a) ∨ (¬ good inUse a ∧ good other b ∧ x = b) → ∃ t, exec (.measuredStart a b) s = .next t ∧
      t.pkg.boot = x ∧ t.pkg.fabid = fab x.fabid ∧ t.pkg.cxlSize = x.cxlSize ∧ t.pkg.cxlSize1 = x.cxlSize1 ∧ t.mem = s.mem ∧
      mget t.pkg.meas 1 = some (sha3 Config.bootRom) ∧ mget t.pkg.meas 2 = some (sha3 x.bytes) ∧
      mget t.pkg.meas 3 = some (sha3 ((mget inUse 0).getD Config.columnImage)) ∧ t.freeCtr = s.freeCtr ∧
      mget t.pkg.meas 4 = some (sha3 ((List.range 8).flatMap fun i =>
        leBytes 8 (mgetD s.pkg.masks i 0).toNat ++ (mgetD s.pkg.lineMaps i []).flatMap (leBytes 4))) ∧
      (∀ i, i < 8 → (t.die i).slret = mgetD s.pkg.masks i 0 ∧ (t.die i).lineOff = mgetD s.pkg.lineMaps i [] ∧ (t.die i).ways = min 12 (x.ways.getD i 0) ∧
        (t.die i).hbmFree = x.hbm.getD i [] ∧
        ∀ f, f ∈ (t.die i).chipFree ↔ f ∈ x.chip.getD i [] ∧ ∀ k, k < 8 → (mgetD s.pkg.masks i 0).getLsbD ((f % 2 ^ 23 * 8 + k) % 48) = false) ∧
      (∀ c, (t.core c).disabled = (decide (c ∈ x.disabled) || (s.core c).disabled)))))

/-- Packets that arrive (R443, R452 to R455, R458, R459, R465): messages, sums, counter adds, wakes, replayed accesses, and the answers
to this package's own.
Where the rules leave a point open, what it says is the model's choice (log entries 48, 89, 106, 108 and 114). -/
def Obligations.FabricArrivals : Prop := ∀ (s : State) (p : Packet),
  let c := p.die * 256 + p.y * 16 + p.x
  let home := homeSlice p.addr
  let walled (t : State) (m : Bool) : Prop := t.inColumn c = true ∧ ¬ (m = true ∧ (t.die 0).fwin.getLsbD 1 = true)
  let any := List.range 16
  let all : List (Nat × List Nat × Instr) := [(1, any, .fabMsg p), (2, any, .fabRed p), (3, any, .fabCtr p), (4, any, .fabWake p), (5, [1], .sxreq p),
    (5, [2], .sxack p), (5, [3], .sxnak p), (5, [4], .sxpull p), (5, [5], .sxdata p), (5, [6], .sxdone p), (5, [7], .sxfin p), (5, [8], .sxabort p),
    (6, any, .rmem p), (7, [4], .moved p), (7, [2], .rspBounce p), (7, [1, 3], .rspAcknowledge p)]
  (∀ i ∈ all, p.cls = i.1 → p.op ∈ i.2.1 → passes s p → exec i.2.2 s = .next (s.fabSend p)) ∧
  (∀ i ∈ all, s.pkg.fabcfg.getLsbD 63 = false ∨ p.dpkg ≠ ownId s → ¬ (p.cls = i.1 ∧ p.op ∈ i.2.1 ∧ passes s p) → exec i.2.2 s = .next s) ∧
  (∀ i ∈ all, p.cls = i.1 → p.op ∈ i.2.1 → i.1 ≠ 7 → ∀ t, p.part < 65536 → p.part ≠ part s.pkg.fabcfg 47 32 → s.cur.n = 0 →
    Arrives s { p with part := part s.pkg.fabcfg 47 32 } i.1 t → exec i.2.2 s = .next (bouncedBack s p)) ∧
  (∀ i ∈ all, s.pkg.fabcfg.getLsbD 63 = true → fitsHeader p → p.dpkg = ownId s → s.cur.n = 0 → (∃ k, isUp s k) → p.cls = 0 ∨ 8 ≤ p.cls →
    exec i.2.2 s = .next (bouncedBack s p)) ∧
  (∀ t, Arrives s p 1 t →
    let i := exec (.fabMsg p) s
    let msg (e : Nat) : OutMsg := .actor p.task c e p.chan (BitVec.ofNat 1024 (number p.data))
    let found (e : Nat) : Prop := ∃ T a, t.task p.task = some T ∧ (∃ x ∈ T.places, x.core = c) ∧
      (t.core c).actors.find? (fun a => a.2.task == p.task && a.2.idx == p.actor) = some (e, a) ∧ ∃ i ∈ a.ins, i.ch = p.chan
    ((t.core c).fenced = true → i = .next (refusedBy t p p.die)) ∧
    ((t.core c).fenced = false → walled t true → i = .next (bouncedBack t p)) ∧
    ((t.core c).fenced = false → ¬ walled t true → (¬ ∃ T, t.task p.task = some T ∧ T.state = .running) ∨ (¬ ∃ e, found e) → i = .next (bouncedBack t p)) ∧
    (∀ e T, (t.core c).fenced = false → ¬ walled t true → t.task p.task = some T → T.state = .running → found e →
      (t.accepts (msg e) = true → i = .next (acknowledged (t.deliverMsg (msg e)) p)) ∧ (t.accepts (msg e) = false → i = .next (waiting s p)))) ∧
  (∀ t, Arrives s p 2 t →
    let i := exec (.fabRed p) s
    let msg : OutMsg := .partialSum c (BitVec.ofNat 1024 (number p.data)) p.psn
    ((t.core c).fenced = true → i = .next (refusedBy t p p.die)) ∧
    ((t.core c).fenced = false → walled t false → i = .next (bouncedBack t p)) ∧
    ((t.core c).fenced = false → ¬ walled t false → (t.core c).server.waiting.length < 4 → i = .next (acknowledged (t.deliverMsg msg) p)) ∧
    ((t.core c).fenced = false → ¬ walled t false → 4 ≤ (t.core c).server.waiting.length → i = .next (waiting s p))) ∧
  (∀ t, Arrives s p 3 t →
    let i := exec (.fabCtr p) s
    let walk := t.xlateDie home.1 (part (mgetD t.pkg.fabin p.key 0) 9 0) p.addr true
    (¬ admitted t p.key ∨ p.addr % 8 ≠ 0 ∨ (∃ e, walk = .error e) → i = .next (bouncedBack t p)) ∧
    (∀ pa, admitted t p.key → p.addr % 8 = 0 → walk = .ok pa →
      (t.sliceFenced home.1 home.2 = true → i = .next (refusedBy t p home.1)) ∧
      (t.sliceFenced home.1 home.2 = false → t.isBad pa 8 = true → i = .next (bouncedBack t p)) ∧
      (t.sliceFenced home.1 home.2 = false → t.isBad pa 8 = false →
        let sum := number (t.homeRead p.key pa 8) + p.val % 2 ^ 64
        let u := t.homeWrite p.key pa (leBytes 8 (if sum < 2 ^ 64 then sum else 2 ^ 64 - 1))
        (sum < 2 ^ 64 → i = .next (acknowledged u p)) ∧
        let record : List Word := [BitVec.ofNat 64 (3 * 2 ^ 56 + p.srcTask % 2 ^ 32), BitVec.ofNat 64 p.addr, BitVec.ofNat 64 p.val, 0]
        (2 ^ 64 ≤ sum → i = .next (u.fabSend { answer u p 1 with words := record }))))) ∧
  (∀ t, Arrives s p 4 t →
    let i := exec (.fabWake p) s
    ((∀ r, mget t.pkg.parks p.pidx = some r → r.key ≠ p.key) ∨ ¬ admitted t p.key → i = .next (bouncedBack t p)) ∧
    (∀ r, mget t.pkg.parks p.pidx = some r → r.key = p.key → admitted t p.key →
      let h := homeSlice r.wake
      (r.wake ≠ 0 → t.sliceFenced h.1 h.2 = true → i = .next (refusedBy t p h.1)) ∧
      (r.wake ≠ 0 → t.sliceFenced h.1 h.2 = false → (mget t.pkg.keys r.lineKey).isSome = true →
        i = .next (acknowledged (t.homeWrite r.lineKey r.place (p.data.take 64)) p)) ∧
      (r.wake = 0 → i = .next (acknowledged { t with pkg := { t.pkg with wakes := if p.pidx ∈ t.pkg.wakes then t.pkg.wakes else t.pkg.wakes ++ [p.pidx] } } p)))) ∧
  (∀ t, Arrives s p 6 t →
    let i := exec (.rmem p) s
    let asks := p.op = 15
    let n := if p.op = 0 ∨ asks then p.val else if p.op = 1 then p.data.length else (p.data.getD 8 1).toNat
    let kind : Kind := if p.op = 0 then .load else if p.op = 1 ∨ (asks ∧ p.data = []) then .store else .rmw
    let good := admitted t p.key ∧ ∀ e, t.stream p.sid = some e → e.key = p.key
    let segs := t.strmSegs p.sid kind (pieces (n / 32768 + 2) p.addr n 32768)
    let result (u : State) (cause : Nat) (bs : List Byte) : State := u.fabSend { answer u p 3 with y := cause, data := bs }
    let lost (die : Nat) : State :=
      let d := t.die die
      (t.setDie die { d with cfstat := counts d.cfstat 47 32 }).fabSend { answer t p 3 with x := 1 }
    (¬ good → i = .next (bouncedBack t p)) ∧
    (good →
      (∀ cause, segs = .error (.trap cause) → i = .next (result t cause [])) ∧
      (∀ u, segs = .error (.hold u) → i = .next (waiting s p)) ∧
      (∀ u b, segs = .error (.held u b) → i = .next (waiting s p)) ∧
      (∀ die, segs = .error (.nack die) → i = .next (lost die)) ∧
      (∀ k g, segs = .error (.moved k g) → i = .next (t.fabSend { answer t p 4 with x := k, words := [BitVec.ofNat 64 g] })) ∧
      (∀ u xs, segs = .ok (u, xs) →
        let a : Acc := { core := 0, space := 5, ctx := 0, key := p.key, addr := p.addr, n, segs := xs, cached := false }
        (∀ die, t.fencedHome a kind = some die → i = .next (lost die)) ∧
        (t.fencedHome a kind = none →
          (asks → kind = .rmw → u.segsBad xs = true → i = .next (result t 0x16 [])) ∧
          (asks → kind = .store ∨ u.segsBad xs = false → i = .next (u.fabSend { answer u p 3 with data := [] })) ∧
          (∀ v bs, ¬ asks → u.replay p a = some (v, bs) → i = .next (v.fabSend { answer v p 3 with data := bs })) ∧
          (¬ asks → u.replay p a = none → i = .next (result t 0x16 [])))))) ∧
  (∀ t, Arrives s p 7 t →
    ((∀ o u, ¬ Settles t p o u) → (p.op = 1 ∨ p.op = 3 → exec (.rspAcknowledge p) s = .next t) ∧ (p.op = 2 → exec (.rspBounce p) s = .next t) ∧
      (p.op = 4 → exec (.moved p) s = .next t)) ∧
    (∀ o u, Settles t p o u →
      let on : Packet := { o with dpkg := p.x, x := 0, words := [], spkg := ownId u, part := part u.pkg.fabcfg 47 32, chan := 0, task := 0, sid := (p.words.headD 0).toNat }
      (p.op = 4 → exec (.moved p) s = .next (tallied (u.fabSend on) 31 16)) ∧
      (p.op = 2 → o.cls = 5 → o.op = 7 → exec (.rspBounce p) s = .next ((if p.spkg = ownId t then u else tallied u 63 48).fabSend o)) ∧
      (p.op = 2 → ¬ (o.cls = 5 ∧ o.op = 7) → (o.cls = 6 → o.srcSlot < 16) →
        exec (.rspBounce p) s = .next (ended (if p.spkg = ownId t then u else tallied u 63 48) o.srcTask)) ∧
      (p.op = 2 → o.cls = 6 → 16 ≤ o.srcSlot →
        exec (.rspBounce p) s = .next ((if p.spkg = ownId t then u else tallied u 63 48).bounced o)) ∧
      (p.op = 3 → exec (.rspAcknowledge p) s = .next (u.giveReply p { cause := p.y, bytes := p.data, lost := decide (p.x = 1) })) ∧
      let record : EvRecord := { w0 := p.words.getD 0 0, w1 := p.words.getD 1 0, w2 := p.words.getD 2 0, w3 := p.words.getD 3 0 }
      (p.op = 1 → o.cls = 3 → p.words ≠ [] → exec (.rspAcknowledge p) s = .next (u.post o.srcCore record)) ∧
      (p.op = 1 → ¬ (o.cls = 3 ∧ p.words ≠ []) → ¬ (o.cls = 5 ∧ o.op = 7) → exec (.rspAcknowledge p) s = .next u)))

/-- Stream migration (R461 to R464): the packets of both sides, the commit, the abort and the stubs.
Where the rules leave a point open, what it says is the model's choice (log entries 110, 111, 112 and 113). -/
def Obligations.Migration : Prop := ∀ (s : State) (p : Packet),
  let g := p.sid
  let none_ (i : Instr) (t : State) : Prop := exec i s = .next (acknowledged t p)
  (∀ t, Arrives s p 5 t → p.op = 1 →
    let key := part (p.words.getD 2 0) 9 0
    let w (i : Nat) : Word := p.words.getD i 0
    let no (code : Nat) : Prop := exec (.sxreq p) s = .next ((acknowledged t p).fabSend { mig t 3 p.spkg 0 g key 0 with val := code })
    ((t.die p.die).spcfg.getLsbD 0 = false → no 0x0A) ∧
    ((t.die p.die).spcfg.getLsbD 0 = true → ¬ admitted t key → no 0x02) ∧
    ((t.die p.die).spcfg.getLsbD 0 = true → admitted t key → (t.die p.die).freeRun 1 = none → no 0x04) ∧
    (∀ i, (t.die p.die).spcfg.getLsbD 0 = true → admitted t key → (t.die p.die).freeRun 1 = some i →
      let gen := ((t.die p.die).entry i).gen
      let n := p.die * 2 ^ 21 + gen * 2 ^ 16 + i
      ∃ e : Stream, e.state = .migrating ∧ e.cls = (w 0).getLsbD 60 ∧ e.kv = (w 0).getLsbD 58 ∧ e.node = part (w 1) 63 48 ∧ e.len = part (w 1) 47 0 ∧
        e.horiz = part (w 2) 63 48 ∧ e.qhead = part (w 2) 37 35 ∧ e.qcnt = part (w 2) 34 31 ∧ e.key = key ∧ e.depth = 0 ∧ e.parent = 0 ∧ e.gen = gen ∧
        (∀ k : Fin 8, e.act[k] = w (8 + k.val)) ∧
        let u := (acknowledged (t.setStream n e) p).fabSend { mig t 2 p.spkg 0 g key 0 with val := n }
        exec (.sxreq p) s = .next (u.pullBlocks 17 n { pkg := p.spkg, old := g, count := p.val, park := p.words.drop 16 } key))) ∧
  (∀ t, Arrives s p 5 t → p.op = 2 →
    ((¬ ∃ m, Leaving t p m ∧ m.told = false) → none_ (.sxack p) t) ∧
    (∀ m, Leaving t p m → m.told = false → none_ (.sxack p)
      ((leaves t g (some { m with told := true, new := p.val })).fillResult m.core m.slot m.d (BitVec.ofNat 64 (m.pkg * 2 ^ 24 + p.val % 2 ^ 24))))) ∧
  (∀ t, Arrives s p 5 t → p.op = 3 →
    ((¬ ∃ m e, Leaving t p m ∧ t.stream g = some e ∧ m.told = false ∧ m.committed = false) → none_ (.sxnak p) t) ∧
    (∀ m e, Leaving t p m → t.stream g = some e → m.told = false → m.committed = false → none_ (.sxnak p)
      ((stayed t g m e).fillResult m.core m.slot m.d (BitVec.ofNat 64 (2 ^ 63 + p.val))))) ∧
  (∀ t, Arrives s p 5 t → p.op = 4 → ∀ bs, blocksOf t g bs →
    let found (m : OutMig) (q : Mapping) : Prop := Leaving t p m ∧ m.committed = false ∧ ∃ b, bs[p.block]? = some b ∧ t.mapping g b = some q
    ((¬ ∃ m q, found m q) → none_ (.sxpull p) t) ∧
    (∀ m q, found m q →
      (q.present = false → exec (.sxpull p) s = .next (waiting s p)) ∧
      (q.present = true →
        let u := if q.block ∈ m.held then t else leaves (t.holdBlock g q.block true) g (some { m with held := q.block :: m.held })
        ∀ xs bad, u.outBytes m.key q = (xs, bad) → exec (.sxpull p) s = .next ((acknowledged u p).fabSend
          { mig u 5 m.pkg m.die g m.key m.task with block := q.block, val := if bad then 1 else 0, data := xs })))) ∧
  (∀ t, Arrives s p 5 t → p.op = 5 →
    let found (n : Nat) (m : InMig) (e : Stream) : Prop := Entering t p n m ∧ t.stream n = some e ∧ m.finished = false ∧ t.mapping n p.block = none
    ((¬ ∃ n m e, found n m e) → none_ (.sxdata p) t) ∧
    (∀ n m e, found n m e →
      (t.takeHbm p.die = none → exec (.sxdata p) s = .next (waiting s p)) ∧
      (∀ f u, t.takeHbm p.die = some (f, u) →
        let q : Mapping := { holder := n, block := p.block, frame := f, key := e.key, dirty := true }
        let v := if p.val = 1 then u.putPage (q.place 0) [] (some (u.keyInst e.key)) (List.range 32768)
          else (u.zeroFrame p.die f).homeWrite e.key (q.place 0) p.data
        exec (.sxdata p) s = .next ((acknowledged (v.addMapping q) p).pullBlocks 17 n { m with landed := m.landed + 1 } e.key)))) ∧
  (∀ t, Arrives s p 5 t → p.op = 6 →
    let found (m : OutMig) (e : Stream) : Prop := Leaving t p m ∧ t.stream g = some e ∧ m.committed = false ∧ m.told = true ∧
      t.clk ≤ m.start + part t.pkg.fabcfg 15 0 * 2250000
    ((¬ ∃ m e, found m e) → none_ (.sxdone p) t) ∧
    (∀ m e, found m e → ∃ u : State, exec (.sxdone p) s = .next (u.fabSend (mig u 7 m.pkg m.die g m.key m.task)) ∧ u.stream g = none ∧
      (∃ x ∈ (u.die (homeDie g)).stubs, x.old = g ∧ x.pkg = m.pkg ∧ x.new = m.new ∧ x.ends = t.clk + m.stub * 2250000 ∧ x.key = m.key) ∧
      mget (u.die (homeDie g)).outMigs g = some { m with committed := true, held := [] })) ∧
  (∀ t, Arrives s p 5 t → p.op = 7 →
    ((¬ ∃ n m, Entering t p n m) → none_ (.sxfin p) t) ∧
    (∀ n m e, Entering t p n m → t.stream n = some e →
      (m.park = [] → none_ (.sxfin p) ((t.setStream n { e with state := .ready, readyAt := t.clk }).setInMig n none)) ∧
      (m.park ≠ [] → t.freePark = none → exec (.sxfin p) s = .next (waiting s p)) ∧
      (∀ i u, m.park ≠ [] → t.freePark = some (i, u) →
        let w (k : Nat) : Word := m.park.getD k 0
        let r : Park := { state := 2, sid := n, anchor := t.clk / 2250, tfl := part (w 3) 63 32, tcx := part (w 3) 31 0, hcnt := part (w 4) 40 32,
                          hfirst := part (w 4) 24 0, key := e.key }
        let v := ((u.setStream n { e with state := .parked }).setInMig n none).putPark i r
        exec (.sxfin p) s = .next (v.fabSend { answer v p 1 with words := [BitVec.ofNat 64 i] })))) ∧
  (∀ t, Arrives s p 5 t → p.op = 8 →
    ((¬ ∃ n m, Entering t p n m) → none_ (.sxabort p) t) ∧
    (∀ n m e bs, Entering t p n m → t.stream n = some e → blocksOf t n bs →
      none_ (.sxabort p) (((bs.foldl (fun u b => u.unmapBlock n b) t).setStream n { gen := if e.gen = 31 then 1 else e.gen + 1 }).setInMig n none))) ∧
  (∀ t o u, Arrives s p 7 t → p.op = 1 → Settles t p o u → o.cls = 5 → o.op = 7 →
    let d := u.die (homeDie o.sid)
    ((∀ m, mget d.outMigs o.sid = some m → m.committed = false) → exec (.rspAcknowledge p) s = .next u) ∧
    (∀ m, mget d.outMigs o.sid = some m → m.committed = true →
      let stubs := d.stubs.map fun x => if x.old = o.sid then { x with pidx := p.words.head?.map (·.toNat) } else x
      exec (.rspAcknowledge p) s = .next (migAdded (leaves (u.setDie (homeDie o.sid) { d with stubs := stubs }) o.sid none) m))) ∧
  (let g := s.cur.n
   let d := s.die (homeDie g)
   (∀ m e, mget d.outMigs g = some m → s.stream g = some e →
    let late := m.committed = false ∧ m.start + part s.pkg.fabcfg 15 0 * 2250000 < s.clk
    (¬ late → exec .smigTimeout s = .next s) ∧
    (late →
      let back := stayed (m.held.foldl (fun t b => t.holdBlock g b false) s) g m e
      let v : State := { back with freeCtr := back.freeCtr + 1 }
      let r := if m.told then v else v.fillResult m.core m.slot m.d (BitVec.ofNat 64 (Config.free back.freeCtr))
      exec .smigTimeout s = .next (migAdded (r.fabSend (mig r 8 m.pkg m.die g m.key m.task)) m))) ∧
   (mget d.outMigs g = none ∨ s.stream g = none → exec .smigTimeout s = .next (leaves s g none))) ∧
  (let d := s.die s.cur.n
   (d.stubs[s.cur.k]? = none → exec .stubExpiry s = .next s) ∧
   (∀ x, d.stubs[s.cur.k]? = some x → Does .stubExpiry s (x.ends ≤ s.clk)
     ((s.dropWatch (2 ^ 20 + x.old)).setDie s.cur.n { d with stubs := d.stubs.eraseIdx s.cur.k })))

/-- The links (R450, R451, R455 to R457): which port takes a packet, resends, ports that go down and come up, keys, and packets
whose time has run out.
Where the rules leave a point open, what it says is the model's choice (log entries 105, 107 and 109). -/
def Obligations.FabricLinks : Prop := ∀ s : State,
  let n := s.cur.n
  let p := s.pkg
  let upp := isUp s
  let size := size4 s
  let at_ := place4
  let sends (x : Pkg) (k frames : Nat) : Pkg := let sum := mgetD x.linkFrames k 0 + frames
    if sum < 2 ^ 63 then { x with linkFrames := mset x.linkFrames k sum }
    else { x with linkKeys := mset x.linkKeys k (mgetD x.linkKeys k 0 + 1), linkFrames := mset x.linkFrames k frames }
  let count (downs : List Nat) : Word := BitVec.ofNat 64 (p.fabstat.toNat / 2 ^ 7 * 2 ^ 7 + downs.length % 2 ^ 7)
  (∀ q : Packet, ∃ port, ∃ ups : List Nat, ups.Pairwise (· < ·) ∧
    (∀ k, k ∈ ups ↔ upp k ∧ ∃ i, i < 4 ∧ at_ (ownId s) i ≠ at_ q.dpkg i ∧ (∀ j, j < i → at_ (ownId s) j = at_ q.dpkg j) ∧
      let up := (at_ q.dpkg i + size i - at_ (ownId s) i) % size i
      (k / 8 = 2 * i ∧ (size i = 2 ∨ 2 * up ≤ size i)) ∨ (k / 8 = 2 * i + 1 ∧ (size i = 2 ∨ size i < 2 * up))) ∧
    port = ups[Config.flowHash q.flow % ups.length]? ∧ (ups ≠ [] → port ≠ none) ∧
    s.fabSend q = { s with pkg := { (match port with
      | some k => sends p k ((q.flits + 15) / 16)
      | none => p) with fabOut := p.fabOut ++ [{ clk := s.clk, port, p := q }] } }) ∧
  (¬ upp n → exec .frameResend s = .next s ∧ exec .linkKeyRenewal s = .next s) ∧
  (∀ h : n < 64, part p.fablnk[n] 1 0 = 2 →
    let v := p.fablnk[n].toNat
    let errs := if v / 2 ^ 32 + 1 < 2 ^ 32 then v / 2 ^ 32 + 1 else 2 ^ 32 - 1
    let lnk := p.fablnk.set n (BitVec.ofNat 64 (errs * 2 ^ 32 + v % 2 ^ 32))
    let keys := mset p.linkKeys n (mgetD p.linkKeys n 0 + 1)
    let fails := if s.cur.k = 1 then mgetD p.linkFails n 0 + 1 else 1
    let t : State := { s with pkg := { sends { p with fabstat := counts p.fabstat 47 32 } n 1 with linkFails := mset p.linkFails n fails, fablnk := lnk } }
    (fails < 8 → exec .frameResend s = .next t) ∧
    (8 ≤ fails →
      let downs := p.portsDown ++ [n]
      let u : State := { t with pkg := { t.pkg with
        fablnk := lnk.set n (BitVec.ofNat 64 (errs * 2 ^ 32 + v % 2 ^ 32 / 4 * 4))
        portsDown := downs
        fabstat := BitVec.ofNat 64 ((counts p.fabstat 47 32).toNat / 2 ^ 7 * 2 ^ 7 + downs.length % 2 ^ 7)
        linkFails := mdel (mset p.linkFails n fails) n
        fabOut := p.fabOut.map fun f => if f.port = some n then { f with port := none } else f } }
      exec .frameResend s = .next u.relaunch) ∧
    exec .linkKeyRenewal s = .next { s with pkg := { p with linkKeys := keys, linkFrames := mset p.linkFrames n 0 } }) ∧
  (64 ≤ n ∨ n ∈ p.portsDown → exec .portDown s = .next s) ∧
  (∀ h : n < 64, n ∉ p.portsDown →
    let v := p.fablnk[n].toNat
    let downs := p.portsDown ++ [n]
    let out := p.fabOut.map fun f => if f.port = some n then { f with port := none } else f
    let lnk := p.fablnk.set n (BitVec.ofNat 64 (v / 4 * 4))
    let t : State := { s with pkg := { p with fablnk := lnk, portsDown := downs, fabstat := count downs, fabOut := out, linkFails := mdel p.linkFails n } }
    exec .portDown s = .next t.relaunch) ∧
  (let trains := n < 64 ∧ 1 < size (n / 16)
   (¬ trains ∨ upp n → exec .linkTraining s = .next s) ∧
   (∀ h : n < 64, 1 < size (n / 16) → ¬ upp n →
    let lnk (k : Nat) := p.fablnk.set n (BitVec.ofNat 64 (p.fablnk[n].toNat / 4 * 4 + k))
    let state (k : Nat) (downs : List Nat) : State := { s with pkg := { p with fablnk := lnk k, portsDown := downs, fabstat := count downs } }
    (s.cur.k = 0 → exec .linkTraining s = .next (state 0 p.portsDown)) ∧
    (2 ≤ s.cur.k → exec .linkTraining s = .next (state 1 p.portsDown)) ∧
    (s.cur.k = 1 →
      let u := state 2 (p.portsDown.filter (· != n))
      let v : State := { u with pkg := { u.pkg with linkKeys := mset p.linkKeys n (mgetD p.linkKeys n 0 + 1), linkFrames := mset p.linkFrames n 0 } }
      exec .linkTraining s = .next v.relaunch))) ∧
  (p.fabOut[n]? = none → exec .fabTimeout s = .next s) ∧
  (∀ f, p.fabOut[n]? = some f →
    let due := f.clk + part p.fabcfg 15 0 * 2250000 ≤ s.clk ∧ ¬ (f.p.dpkg = ownId s ∧ (p.fabcfg.getLsbD 63 = true ∨ f.p.spkg ≠ ownId s))
    let own := f.p.spkg = ownId s
    let t : State := { s with pkg := { p with fabOut := p.fabOut.eraseIdx n } }
    (¬ due → exec .fabTimeout s = .next s) ∧
    (due → f.p.cls = 7 ∨ ¬ own → exec .fabTimeout s = .next t) ∧
    (due → own → f.p.cls = 5 → f.p.op = 7 → exec .fabTimeout s = .next (t.fabSend f.p)) ∧
    (due → own → f.p.cls = 6 → 16 ≤ f.p.srcSlot → exec .fabTimeout s = .next ((tallied t 63 48).bounced f.p)) ∧
    (due → own → f.p.cls ≠ 7 → ¬ (f.p.cls = 5 ∧ f.p.op = 7) → (f.p.cls = 6 → f.p.srcSlot < 16) → exec .fabTimeout s = .next (ended (tallied t 63 48) f.p.srcTask)))

/-- The steps of firings (R25, R26, R77 to R83, R88, R89, R92, R101, R116, R145, R147, R149, R197, R198): a start, a message's arrival, a
scoreboarded result, and the ends of waits. The slot that a core issues from (R90, R448): none in a clock in which it has issued; else the
first candidate by class, ready clock and slot, but that the clock in which a firing with `YLD` would win goes to the best other candidate,
where there is one.
Where the rules leave a point open, what it says is the model's choice (log entries 66 and 129). -/
def Obligations.FiringSteps : Prop :=
  (∀ s : State,
  let c := s.cur.core
  let k := s.cur.slot
  let n := s.cur.n
  (s.nextStart c ≠ some n → exec .firingStart s = .next s) ∧
  (s.nextStart c = some n → mrising (s.core c).actors = true → ∃ a r j t f,
    s.actor c n = some a ∧ a.readyAt.isSome = true ∧ (s.core c).issued ≠ some s.clk ∧ mget (s.core c).tasks a.rti = some r ∧
    ((List.range 8).countP fun i => match s.firing c i with
      | some g => g.rti == a.rti
      | none => false) < r.slots ∧
    j < 8 ∧ s.firing c j = none ∧ (∀ i, i < j → s.firing c i ≠ none) ∧ ((s.core c).server.cfg.getLsbD 0 = true → j < 7) ∧
    (∀ b, b ∈ (s.core c).actors → b.1 ≠ n → b.2.readyAt.isSome = true → s.actorReady b.2 = true → b.2.rti = a.rti →
      let ra := a.readyAt.getD 0
      let rb := b.2.readyAt.getD 0
      a.cls < b.2.cls ∨ (a.cls = b.2.cls ∧ (ra < rb ∨ (ra = rb ∧ a.idx ≤ b.2.idx)))) ∧
    exec .firingStart s = .next t ∧ t.firing c j = some f ∧
    f.g[1] = BitVec.ofNat 64 (a.rti * 4096 + a.idx * 64 + a.cls * 16 + one a.priv * 8 + j) ∧ f.g[2] = BitVec.ofNat 64 a.seqNo ∧ f.g[3] = BitVec.ofNat 64 a.task ∧
    (∀ T, s.task a.task = some T → f.g[6] = BitVec.ofNat 64 T.ts ∧ f.g[7] = T.parm ∧ (T.batchAct = none → f.g[4] = BitVec.ofNat 64 T.sid ∧ f.g[5] = 0)) ∧
    f.g[0] = 0 ∧ (∀ i : Fin 64, 8 ≤ i.val → f.g[i] = 0) ∧ f.v = Vector.replicate 32 0 ∧ f.ba = Vector.replicate 8 0 ∧
    f.pc = a.entry ∧ f.priv = a.priv ∧ f.rti = a.rti ∧ f.actor = n ∧ f.nextIssue = s.clk + 4 ∧ f.fmode = 0 ∧ f.fstat = 0 ∧ f.fseed = 0 ∧ f.flight = [] ∧
    (s.queue a.task a.stage = none → (a.ins.map (·.ch)).Nodup → ∀ i ∈ a.ins, mget f.window i.ch = some (i.fifo.take i.rate)) ∧
    (∃ b, t.actor c n = some b ∧ b.busy = true ∧ b.started = true ∧ b.readyAt = none)) ∧
  (∀ m, (s.core c).nic[n]? = some m →
    let first := ∀ x ∈ (s.core c).nic.take n, x.lane ≠ m.lane
    let walled : Prop := s.inColumn c = false ∧ ((∃ t d e ch x, m = .actor t d e ch x ∧ s.inColumn d = true ∧ (s.die 0).fwin.getLsbD 1 = false) ∨
      ∃ d x psn, m = .partialSum d x psn ∧ s.inColumn d = true)
    let fenced : Prop := ∃ d, m.core = some d ∧ (s.core d).fenced = true
    let t := s.setCore c { s.core c with nic := (s.core c).nic.eraseIdx n }
    (¬ first ∨ (¬ walled ∧ ¬ fenced ∧ s.accepts m = false) → exec .messageArrival s = .next s) ∧
    (first → walled → exec .messageArrival s = .next t) ∧
    (first → ¬ walled → fenced → ∀ d, m.core = some d → exec .messageArrival s = .next (t.countNack (d / 256))) ∧
    (first → ¬ walled → ¬ fenced → s.accepts m = true → exec .messageArrival s = .next (t.deliverMsg m))) ∧
  (∀ f, s.firing c k = some f →
    let put (g : Firing) : State := s.setFiring c k g
    (∀ older r newer, f.flight = older ++ r :: newer → older.length = n →
      (r.await = false → r.due.isSome = true → exec .resultDelivery s = .next (put f)) ∧
      (r.await = true → s.load c r.load = none → exec .resultDelivery s = .next s) ∧
      (∀ x, r.await = true → s.load c r.load = some x →
        (∀ e, loadBody x s = .ok e → exec .resultDelivery s = .next (e.s.fillLoad x (realWrites e.writes) e.flags e.poison)) ∧
        (∀ u, loadBody x s = .wait u → exec .resultDelivery s = .next u) ∧
        (∀ u issued, loadBody x s = .held u issued → exec .resultDelivery s = .next (u.setHolder x { x.f with issued })) ∧
        (let poisons (u : State) : Prop :=
           let regs := ((formOf x.op x.w).map fun m => m.regs x.w Role.writes).getD []
           exec .resultDelivery s = .next (({ u with freeCtr := u.freeCtr + 1 }).fillLoad x (regs.map fun r => poisonWrite r (Config.free u.freeCtr)) 0 true)
         (∀ cause v j, loadBody x s = .trap cause v j → poisons (if cause = 0x16 then { s with fenceReq := s.fenceReq ++ [c] } else s)) ∧
         (∀ die u, loadBody x s = .nack die u → poisons (u.countNack die)) ∧ (∀ u, loadBody x s = .lost u → poisons u))) ∧
      (r.due = none → r.await = false → f.settle s.clk = f → r ∉ older →
        let old := older.map fun x => { x with writes := under x.writes r.writes }
        let due := if r.flags = 0 then f.flagsDue else f.flagsDue ++ [(s.clk, r.flags)]
        exec .resultDelivery s = .next (put { f.puts r.writes r.poison with flight := old ++ newer, flagsDue := due }))) ∧
    (let ready := f.wait = .none ∧ f.asked = [] ∧ f.issued = [] ∧ ∀ r ∈ f.flight, r.await = false
     (∀ e es, f.mxsus = e :: es → ready → exec .mxsusDelivery s = .next ((put { f with mxsus := es }).raise c k 0x22 (BitVec.ofNat 64 e) 0)) ∧
     (f.mxsus = [] ∨ ¬ ready → exec .mxsusDelivery s = .next s)) ∧
    (∀ a key goal dl d e, f.wait = .cwait a key goal dl d e →
      let v := number (s.homeRead key a 8)
      let holds := goal.toNat ≤ v
      let past := ∃ l, dl = some l ∧ l < s.clk
      Does .cwaitEnd s holds (s.endWait c k [.g d (BitVec.ofNat 64 v), .p e.toNat true]) ∧
      Does .cwaitTimeout s (past ∧ ¬ holds) (s.endWait c k [.g d (BitVec.ofNat 64 v), .p e.toNat false])) ∧
    (∀ left ks u, f.wait = .yield left ks u →
      let others := ∃ j ∈ ks, ∃ g, s.firing c j = some g ∧ g.wait = .none ∧ g.stopped = false ∧ g.nextIssue ≤ s.clk ∧
        (∀ t, g.tried = some t → t + 1 < s.clk) ∧ s.mayIssue c j g = true
      Does .yieldExpiry s (u ≤ s.clk ∨ ((s.core c).issued ≠ some s.clk ∧ ¬ others)) (put { f with wait := .none, ready := none })) ∧
    (∀ dl d, f.wait = .mwait dl d →
      let mine (m : Monitor) : Prop := m.slot = k
      let hit := f.woken = true ∨ ∃ m ∈ (s.core c).monitors, mine m ∧ m.fired = true
      let empty := ∀ m ∈ (s.core c).monitors, ¬ mine m
      let past := ∃ l, dl = some l ∧ l < s.clk
      let bump (x : Word) : Word := BitVec.ofNat 64 (if x.toNat + 1 < 2 ^ 64 then x.toNat + 1 else x.toNat)
      let x := s.core c
      let returns (i : Instr) (code : Nat) (x : Core) : Prop :=
        let t := s.setCore c { x with monitors := x.monitors.filter fun m => m.slot != k }
        exec i s = .next ((t.setFiring c k { f with overflow := false, restored := false, woken := false }).endWait c k [.g d (BitVec.ofNat 64 code)])
      (∀ i, (i = Instr.mwaitWake ∨ (i = .mwaitTimeout ∧ past)) →
        (hit → returns i 0 x) ∧
        (¬ hit → f.overflow = true → returns i 1 { x with monspo := bump x.monspo }) ∧
        (¬ hit → f.overflow = false → f.restored = true → returns i 2 { x with monspr := bump x.monspr }) ∧
        (¬ hit → f.overflow = false → f.restored = false → i = .mwaitTimeout ∨ empty → returns i 3 { x with monspt := bump x.monspt })) ∧
      (¬ hit → f.overflow = false → f.restored = false → ¬ empty → exec .mwaitWake s = .next s) ∧
      (¬ past → exec .mwaitTimeout s = .next s))) ∧
  ((∀ m ∈ (s.core c).monitors, m.slot = k → m.registered = true) → exec .monRegistered s = .next s) ∧
  (∀ m, (s.core c).monitors.find? (fun m => m.slot == k && !m.registered) = some m →
    let t := s.dirPut m.dir m.home
    let ms := (t.core c).monitors.map fun q => if q.slot == k && q.home == m.home then { q with registered := true } else q
    exec .monRegistered s = .next (t.setCore c { t.core c with monitors := ms }))) ∧
  (∀ (s : State) (c : Nat),
  let last (k : Nat) : Prop := ∃ f n t, s.firing c k = some f ∧ s.fetch c f.pc = (.ok (.vdomWrite n), t)
  (∀ k, s.inTurn c k = true ↔ (last k ∧ s.phase = 2) ∨ (¬ last k ∧ s.phase = 0)) ∧
  (∀ k f, (k, f) ∈ s.candidates c ↔ k < 8 ∧ ∃ g, s.firing c k = some g ∧ f = { g with ready := some (g.ready.getD s.clk) } ∧ g.wait = .none ∧
    (g.mxsus = [] ∨ ¬ (g.asked = [] ∧ g.issued = [])) ∧ g.stopped = false ∧ g.nextIssue ≤ s.clk ∧ g.tried ≠ some s.clk ∧
    ((s.core c).follows = none ∨ g.asked ≠ [] ∨ g.issued ≠ []) ∧ s.mayIssue c k g = true) ∧
  ((s.core c).issued = some s.clk → s.pick c = none) ∧
  (∀ k t, s.pick c = some (k, t) → s.inTurn c k = true ∧ ∃ b, Best (s.candidates c) b ∧
    (b.2.yld = false → k = b.1 ∧ t = s) ∧
    (b.2.yld = true → (∃ g, s.firing c b.1 = some g ∧ t = s.setFiring c b.1 { g with yld := false }) ∧
      let others := (s.candidates c).filter fun y => y.1 != b.1
      (others = [] → k = b.1) ∧ (others ≠ [] → ∃ d, Best others d ∧ k = d.1))) ∧
  (s.pick c = none → (s.core c).disabled = false → (s.core c).fenced = false → (s.core c).issued = none → ∀ k f, (k, f) ∈ s.candidates c →
    ∃ j g, (j, g) ∈ s.candidates c ∧ s.inTurn c j = false))

/-- The event crossbar (R206, R207): pulses, terms, the timer, and the start inputs with their actions. Gangs, links, reduction servers, routers
and the end of an invalidation (R251, R263, R269, R270, R274, R275, R324).
Where the rules leave a point open, what it says is the model's choice (log entries 21, 33, 121 and 134). -/
def Obligations.CoreSteps : Prop :=
  (∀ s : State,
  let c := s.cur.core
  let n := s.cur.n
  let k := s.core c
  let x := k.xbar
  let put (y : Xbar) : State := s.setCore c { k with xbar := y }
  (x.pulses = [] → exec .xbarPulse s = .next s) ∧
  (∀ src t rest, x.pulses = (src, t) :: rest →
    (s.clk ≤ t → exec .xbarPulse s = .next s) ∧
    (t < s.clk →
      let takes (i : Fin 16) : Bool := x.counters[i].getLsbD 21 && part x.counters[i] 20 16 == src
      let zero (i : Fin 16) : Bool := takes i && decide (part x.counters[i] 7 0 ≤ 1)
      ∃ y : Xbar, exec .xbarPulse s = .next (put y) ∧
        (∀ i, (zero i = true → y.counters[i] = BitVec.ofNat 64 (x.counters[i].toNat / 2 ^ 8 * 2 ^ 8 + part x.counters[i] 15 8)) ∧
          (takes i = true → zero i = false → y.counters[i] = x.counters[i] - 1) ∧ (takes i = false → y.counters[i] = x.counters[i])) ∧
        y.pulses = rest ++ ((List.finRange 16).filter zero).map (fun i => (16 + i.val, s.clk)) ∧
        (∀ (i : Fin 8) (j : Nat), y.latches[i].getLsbD j =
          (x.latches[i].getLsbD j || (j == src && decide (j < 32) && (x.terms[i].getLsbD j || x.terms[i].getLsbD (32 + j))))) ∧
        y.terms = x.terms ∧ y.starts = x.starts ∧ y.timer = x.timer ∧ y.fired = x.fired ∧ y.pending = x.pending ∧ y.overrun = x.overrun)) ∧
  (8 ≤ n → exec .xbarTermFire s = .next s) ∧
  (∀ h : n < 8,
    let w := x.terms[n]
    let full := w ≠ 0 ∧ (∀ j, j < 32 → w.getLsbD j = true → x.latches[n].getLsbD j = true) ∧
      (w.toNat / 2 ^ 32 ≠ 0 → ∃ j, j < 32 ∧ w.getLsbD (32 + j) = true ∧ x.latches[n].getLsbD j = true)
    Does .xbarTermFire s full (put { x with latches := x.latches.set n 0, fired := x.fired ++ [(n, s.clk)] })) ∧
  (let p := part x.timer 31 0
   Does .xbarTimer s (p ≠ 0 ∧ x.timerAt ≤ s.clk) ((put { x with timerAt := x.timerAt + p }).pulse c 13)) ∧
  (∀ t at_, x.fired.find? (fun f => decide (f.2 < s.clk)) = some (t, at_) →
    let named (i : Nat) : Bool := match x.starts[i]? with
      | some w => w.getLsbD 15 && part w 14 12 == t
      | none => false
    ∃ y : Xbar, exec .xbarStartAction s = .next (put y) ∧ y.fired = x.fired.erase (t, at_) ∧
      (∀ i, i < 16 → y.pending.getLsbD i = (x.pending.getLsbD i || named i) ∧ y.overrun.getLsbD i = (x.overrun.getLsbD i || (named i && x.pending.getLsbD i)))) ∧
  (x.fired.find? (fun f => decide (f.2 < s.clk)) = none →
    (x.pending.getLsbD n = false → exec .xbarStartAction s = .next s) ∧
    (x.pending.getLsbD n = true →
      let acts (t : State) : Prop := exec .xbarStartAction s = .next (t.setCore c { t.core c with xbar :=
        { (t.core c).xbar with pending := (t.core c).xbar.pending &&& ~~~((1 : BitVec 16) <<< n) } })
      ((∀ r ∈ k.tasks, r.2.xbar = false) → exec .xbarStartAction s = .next s) ∧
      (∀ rti r, k.tasks.find? (fun r => r.2.xbar) = some (rti, r) → mget k.tasks rti = some r →
        (∀ arr : Bool, n = (if arr then 0 else 1) →
          let ch := chainOf r arr
          let gated (t : EntryTag) : Bool := !t.released && !t.finished && ((s.entryWords c ch t.seq).getD 0 0).getLsbD 55
          (ch.tags.find? gated = none → exec .xbarStartAction s = .next s) ∧
          (∀ t, ch.tags.find? gated = some t →
            let ch' : Chain := { ch with tags := ch.tags.map fun u => if u.seq = t.seq then { t with released := true } else u }
            acts (s.setResident c rti (if arr then { r with achain := ch' } else { r with cchain := ch' })))) ∧
        (∀ h : n - 2 < 2, 2 ≤ n → acts (s.setCore c { k with helpers := k.helpers.set (n - 2) { k.helpers[n - 2] with wake1 := true } })) ∧
        (4 ≤ n → (∃ T, s.task r.task = some T ∧ T.state = .draining) → acts s) ∧
        (4 ≤ n → (∀ T, s.task r.task = some T → T.state ≠ .draining) → ∀ w, x.starts[n]? = some w → ∀ e a q, k.actors.find? (fun a => a.2.task == r.task && a.2.idx == part w 11 6) = some (e, a) →
          (s.inputsOf a).find? (fun i => i.ch == part w 1 0) = some q →
          (1 ≤ q.room → acts (s.commit c e (part w 1 0) [0])) ∧ (q.room = 0 → exec .xbarStartAction s = .next s)))))) ∧
  (∀ s : State,
  let c := s.cur.core
  let n := s.cur.n
  let k := s.core c
  (∀ f m, s.firing c s.cur.slot = some f → f.wait = .gang m none →
    let group := (gangCores c m).drop 1
    let ganged (o : Nat) : Prop := (s.core o).follows.isSome = true ∨ ∃ j g, s.firing o j = some g ∧ g.span ≠ 1
    (ganged c ∨ (∃ o ∈ group, ganged o) → exec .gangFormed s = .next s) ∧
    (¬ ganged c → (∀ o ∈ group, ¬ ganged o) →
      Gathers s f m (group.foldl (fun t o => t.setCore o { t.core o with follows := some c }) s))) ∧
  (∀ f m, s.firing c s.cur.slot = some f → f.wait = .ganging m → Gathers s f m s) ∧
  (∀ f m t, s.firing c s.cur.slot = some f → f.wait = .gang m (some t) →
    (s.clk < t → exec .gangFormed s = .next s) ∧
    (t ≤ s.clk → ∃ g, exec .gangFormed s = .next (s.setFiring c s.cur.slot g) ∧ g.gang = m ∧ g.wait = .none ∧ s.clk + 1 ≤ g.nextIssue ∧ f.nextIssue ≤ g.nextIssue ∧
      (g.nextIssue = s.clk + 1 ∨ g.nextIssue = f.nextIssue) ∧ g.g = f.g ∧ g.p = f.p ∧ g.ba = f.ba ∧ g.pc = f.pc ∧ g.fmode = f.fmode ∧ g.flight = f.flight ∧
      (∀ (i : Fin 32) (j : Nat), g.v[i].getLsbD j = (f.v[i].getLsbD j && decide (j < 1024))) ∧
      (∀ (i : Fin 8) (j : Nat), g.k[i].getLsbD j = (f.k[i].getLsbD j && decide (j < 32))))) ∧
  (4 ≤ n → exec .linkWordArrival s = .next s) ∧
  (∀ h : n < 4,
    (k.arriving[n] = [] → exec .linkWordArrival s = .next s) ∧
    (∀ t e rest, k.arriving[n] = (t, e) :: rest → Does .linkWordArrival s (t ≤ s.clk)
      ((s.setCore c { k with arriving := k.arriving.set n rest, fifos := k.fifos.set n (k.fifos[n] ++ [(t, e)]) }).pulse c (4 + n)))) ∧
  (let v := k.server
   let open_ := v.cfg.getLsbD 0 = true ∧ k.slots[7] = none ∧ v.free ≤ s.clk
   let full := v.count ≠ 0 ∧ part v.cfg 8 4 ≤ v.count
   let fmt := part v.cfg 3 2
   let rm := part v.cfg 11 9
   let wid := if fmt = 1 then 16 else 32
   ((v.waiting = [] ∧ ¬ full) ∨ ¬ open_ → exec .partialSumArrival s = .next s) ∧
   (∀ x psn rest, v.waiting = (x, psn) :: rest → open_ → ¬ full →
    let sum (e : Nat) : Nat × BitVec 7 :=
      let a := v.acc.toNat / 2 ^ (wid * e) % 2 ^ wid
      let b := x.toNat / 2 ^ (wid * e) % 2 ^ wid
      if fmt = 2 then (if v.count = 0 then b else (a + b) % 2 ^ 32, 0)
      else if v.count = 0 then (if (decodeF fmt false b).isNan then ((fmtOf fmt).nan).getD 0 else b, 0)
      else
        let t := exSum rm [decodeF fmt false a, decodeF fmt false b]
        let r := convertF fmt rm false false 0 t.1
        (r.1, t.2 ||| r.2)
    ∃ (acc : Entry) (stat : Word), (∀ e, e < 1024 / wid → acc.toNat / 2 ^ (wid * e) % 2 ^ wid = (sum e).1 % 2 ^ wid) ∧
      (∀ j, j < 5 → (stat.getLsbD j = true ↔ v.stat.getLsbD j = true ∨ ∃ e, e < 1024 / wid ∧ (sum e).2.getLsbD j = true)) ∧
      (∀ j, 5 ≤ j → stat.getLsbD j = (v.stat.getLsbD j || (psn && j == 9))) ∧
      exec .partialSumArrival s = .next (s.setCore c { k with server :=
        { v with waiting := rest, free := s.clk + 2, acc := acc, stat := stat, count := v.count + 1, psn := v.psn || psn } })) ∧
   (open_ → full →
    let rounds := if v.stat.toNat / 2 ^ 32 + 1 < 2 ^ 32 then v.stat.toNat / 2 ^ 32 + 1 else 2 ^ 32 - 1
    let t := s.setCore c { k with server := { v with count := 0, acc := 0, psn := false, stat := BitVec.ofNat 64 (rounds * 2 ^ 32 + v.stat.toNat % 2 ^ 32) } }
    let p := v.parent
    let at_ (d : Nat) : Nat := d * 256 + part p 19 16 * 16 + part p 15 12
    let sends (m : OutMsg) : State := t.setCore c { t.core c with nic := (t.core c).nic ++ [m] }
    let packet : Packet := { cls := 2, dpkg := part p 55 40, spkg := ownId s, part := part s.pkg.fabcfg 47 32, die := part p 34 32, y := part p 19 16,
                             x := part p 15 12, data := leBytes 128 v.acc.toNat, psn := v.psn }
    let a := part v.root 51 0
    let key := part p 29 20
    let sum := t.homeWrite key a (leBytes 128 v.acc.toNat)
    let root : State := if v.psn then { sum with bad := sum.bad ++ (List.range 128).map (a + ·) } else sum
    let n := number (root.homeRead key (a + 128) 8) + 1
    let added := root.homeWrite key (a + 128) (leBytes 8 (if n < 2 ^ 64 then n else 2 ^ 64 - 1))
    (part p 63 62 = 0 → exec .partialSumArrival s = .next (sends (.partialSum (at_ (c / 256)) v.acc v.psn))) ∧
    (part p 63 62 = 1 → exec .partialSumArrival s = .next (sends (.partialSum (at_ (part p 34 32)) v.acc v.psn))) ∧
    (part p 63 62 = 2 → exec .partialSumArrival s = .next (sends (.packet packet))) ∧
    (part p 63 62 = 3 → (mget s.pkg.keys key).isSome = true → backed s a 136 →
      exec .partialSumArrival s = .next (if n < 2 ^ 64 then added
        else added.post c { w0 := BitVec.ofNat 64 (3 * 2 ^ 56), w1 := BitVec.ofNat 64 (a + 128), w2 := 1 })) ∧
    (part p 63 62 = 3 → (mget s.pkg.keys key).isSome = false ∨ ¬ backed s a 136 → exec .partialSumArrival s = .next t))) ∧
  (let d := s.die n
   let i := s.cur.k
   let put (t : State) (ms : List Merge) : State := t.setDie n { t.die n with merges := ms }
   let s1 : State := { s with freeCtr := s.freeCtr + 1 }
   let path := Config.free s.freeCtr
   let pending (m : Merge) : Prop := m.old = none ∧ m.away = false
   let same (p q : Part) : Prop := q.core = p.core ∧ q.slot = p.slot
   (∀ m : Merge,
    (∀ j, d.laneBefore m = some j → ∃ o p q, d.merges[j]? = some o ∧ pending o ∧ p ∈ m.parts ∧ q ∈ o.parts ∧ same p q ∧ q.tag < p.tag) ∧
    (d.laneBefore m = none → ∀ o ∈ d.merges, pending o → o.home = m.home → o.addr = m.addr → o.sid = m.sid → ∀ p ∈ m.parts, ∀ q ∈ o.parts, same p q → p.tag ≤ q.tag)) ∧
   (d.merges[i]? = none → exec .routerResponseSplit s = .next s) ∧
   (∀ m, d.merges[i]? = some m →
    (m.old = none → exec .routerResponseSplit s = .next s) ∧
    (∀ old, m.old = some old →
      let t := (splits m old m.parts).foldl (fun t p => answered t p.1 { bytes := leBytes 8 p.2 }) s
      exec .routerResponseSplit s = .next (put t ((t.die n).merges.eraseIdx i)))) ∧
   (let r := n * 256 + path / 2 % 192
    let others := d.merges.eraseIdx i
    let later (m : Merge) : Merge := { m with routers := r :: m.routers, born := s.clk }
    let onward (m : Merge) : Prop := path % 2 = 1 ∧ pending m ∧ r ∉ m.routers ∧
      ((others.filter (·.routers.contains r)).length < 16 ∨ ∃ o ∈ others, o.takes (later m) = true)
    (∀ m, d.merges[i]? = some m → onward m → exec .routerMergeSend s = .next (put s1 (joinMerge others (later m) true))) ∧
    ((∀ m, d.merges[i]? = some m → ¬ onward m) →
     let j := match d.merges[i]? with
       | some m => (d.laneBefore m).getD i
       | none => i
     (d.merges[j]? = none → exec .routerMergeSend s = .next s1) ∧
     (∀ m, d.merges[j]? = some m → ¬ pending m → exec .routerMergeSend s = .next s1) ∧
     (∀ m, d.merges[j]? = some m → pending m →
      let fails (t : State) (reply : Reply) : State :=
        let t := m.parts.foldl (fun t p => answered t p reply) t
        put t ((t.die n).merges.eraseIdx j)
      let applied (t : State) (home : Nat) : State :=
        let old := number (t.homeRead m.key home m.n)
        let u := t.homeWrite m.key home (leBytes m.n (m.parts.foldl (fun v p => mergeStep m v p.val.toNat) old))
        let v := (splits m old m.parts).foldl (fun v p => if m.op = 6 ∧ 2 ^ 64 ≤ p.2 + p.1.val.toNat then v.post p.1.core
          { w0 := BitVec.ofNat 64 (3 * 2 ^ 56 + p.1.task % 2 ^ 32), w1 := BitVec.ofNat 64 m.addr, w2 := p.1.val } else v) u
        put v ((v.die n).merges.set j { m with old := some old })
      let reaches (t : State) (home : Nat) : Prop :=
        let at_ := homeOf m.space ((m.parts.map (·.core)).headD 0) m.addr (some home)
        let shut := 3 ≤ m.space ∧ t.sliceFenced at_.1 at_.2 = true
        (shut → exec .routerMergeSend s = .next (fails t { nack := some at_.1 })) ∧
        (¬ shut → t.isBad home m.n = true → exec .routerMergeSend s = .next (fails t { cause := 0x16 })) ∧
        (¬ shut → t.isBad home m.n = false → exec .routerMergeSend s = .next (applied t home))
      let first (g : Part → Nat) : Nat := (m.parts.map g).headD 0
      let away (pkg sid : Nat) : Packet :=
        { cls := 6, op := 5, dpkg := pkg, spkg := ownId s, part := part s.pkg.fabcfg 47 32, key := m.key % 1024, sid, addr := m.addr,
          val := (m.parts.drop 1).foldl (fun v p => mergeStep m v p.val.toNat) (first (·.val.toNat)),
          data := leBytes 8 0 ++ [BitVec.ofNat 8 m.n, BitVec.ofNat 8 m.op, if m.signed then 1 else 0], srcTask := first (·.task), srcCore := n, srcSlot := 16,
          block := first fun p => p.tag * 2 ^ 16 + p.core * 8 + p.slot }
      (m.sid = 0 → reaches s1 m.home) ∧
      (m.sid ≠ 0 →
        (∀ o, s1.bucketNack 8 m.sid (m.addr / 32768) = some o → exec .routerMergeSend s = .next (fails s1 { nack := some o })) ∧
        (s1.bucketNack 8 m.sid (m.addr / 32768) = none →
          (∀ cause, s1.updateBlock m.sid (m.addr / 32768) = .refuse cause → exec .routerMergeSend s = .next (fails s1 { cause := cause })) ∧
          (∀ u, s1.updateBlock m.sid (m.addr / 32768) = .hold u → exec .routerMergeSend s = .next u) ∧
          (∀ pkg sid, s1.updateBlock m.sid (m.addr / 32768) = .moved pkg sid →
            exec .routerMergeSend s = .next (tallied ((put s1 (d.merges.set j { m with away := true })).fabSend (away pkg sid)) 31 16)) ∧
          (∀ u a, s1.updateBlock m.sid (m.addr / 32768) = .at_ (some a) u → reaches u (a + m.addr % 32768)))))))) ∧
  (let d := s.die n
   let settled : Prop := (∀ e ∈ s.dies, ∀ m ∈ e.2.merges, m.old.isSome = true ∨ m.sid ≠ 0) ∧
     ∀ e ∈ s.cores, (∀ f, some f ∈ e.2.slots.toList → ∀ i ∈ f.issued, i.2.space ≠ 4) ∧ (∀ x ∈ e.2.loads, ∀ i ∈ x.f.issued, i.2.space ≠ 4) ∧
       ∀ m ∈ e.2.monitors, m.registered = true ∨ 2 ^ 60 ≤ m.home * 64
   Does .xlinvDone s (d.xlinvc.getLsbD 63 = true ∧ settled) (s.setDie n { d with xlinvc := BitVec.ofNat 64 (d.xlinvc.toNat % 2 ^ 63) })))

/-- When an entry starts, and what ends it before its operation (R201, R212, R214, R217, R221, R222, R225, R230, R231, R242). The end of an
entry (R216, R221, R222, R243), and the release of the entries held on a copy (R231).
Where the rules leave a point open, what it says is the model's choice (log entries 22, 52, 118 and 131). -/
def Obligations.EntryLifetimes : Prop :=
  (∀ s : State,
  let c := s.cur.core
  let x := s.core c
  (∀ rti arr n, (rti, arr, n) ∈ s.startable c → ∃ r t, (rti, r) ∈ x.tasks ∧ t ∈ (chainOf r arr).tags ∧ t.seq = n ∧ ((arr = false ∧ t.held = true) ∨
    t.started = false ∧ t.finished = false ∧
    (chainOf r arr).halted = none ∧ x.evq.length < 64 ∧ x.disabled = false ∧ t.folDone = true ∧
    (∀ T, s.task r.task = some T → T.faulted = false ∧ T.killed = false ∧ T.state ≠ .saved) ∧
    (t.skipped = false → (entryWord s c (chainOf r arr) n 0).getLsbD 55 = true → t.released = true) ∧
    (∀ y ∈ (chainOf r arr).tags, y.seq < n → y.finished = true ∨ (arr = true ∧ y.started = true ∧ y.status = 0)) ∧
    (arr = false → ∀ q ∈ x.tasks, ∀ y ∈ q.2.cchain.tags, y.started = true → y.finished = false → y.status ≠ 0) ∧
    (arr = true → t.skipped = false →
      let op (y : EntryTag) : Nat := part (entryWord s c r.achain y.seq 0) 63 56
      let set (y : EntryTag) : Nat := part (entryWord s c r.achain y.seq 2) 9 8
      let entered (y : EntryTag) : Prop := y.finished = true ∨ (y.started = true ∧ y.clock ≤ s.clk + 72)
      ∀ y ∈ r.achain.tags, y.seq < n →
        (op t = 1 → op y = 1 ∨ op y = 2 ∨ op y = 6 → y.finished = true) ∧
        (op t = 2 → (op y = 1 → y.finished = true) ∧ (op y = 3 → entered y)) ∧
        (op t = 3 → (op y = 2 → y.finished = true) ∧ (op y = 3 → entered y) ∧ (op y = 4 ∨ op y = 5 → set y = set t → y.finished = true)) ∧
        (op t = 4 ∨ op t = 5 → op y = 3 ∨ op y = 4 ∨ op y = 5 → set y = set t → y.finished = true) ∧
        (op t = 6 → op y = 1 → y.finished = true)))) ∧
  (∀ i arr op, (i, arr, op) ∈ [(Instr.mwldEntry, true, 1), (.mswapEntry, true, 2), (.mstrmEntry, true, 3), (.mdrainEntry, true, 4), (.mzeroEntry, true, 5),
      (.mspmapEntry, true, 6), (.cpyEntry, false, 0x10), (.cpy2dEntry, false, 0x11), (.emptyEntry, s.cur.hart == 0, 0)] →
    ((s.cur.n, arr, s.cur.k) ∉ s.startable c → exec i s = .next s) ∧
    (∀ r t w, Begins s arr op r t w →
      let u := turn s arr
      let seat := u.counterSeat c r (w 4)
      let fences : State := { u with fenceReq := u.fenceReq ++ [c] }
      let slotBad := s.isBad (Loc.sp c (slotOf (chainOf r arr) s.cur.k)) 64
      (counterFails r (w 4) → Runs i s arr r t u { status := 0x0A, done := t.done }) ∧
      (∀ status, part (w 4) 55 48 ≠ 0 → status ≠ 7 → seat = .error status → Runs i s arr r t u { status := status, done := t.done }) ∧
      (part (w 4) 55 48 ≠ 0 → seat = .error 7 → Runs i s arr r t fences { status := 7, done := t.done }) ∧
      (∀ v a, part (w 4) 55 48 ≠ 0 → seat = .ok (v, a) →
        (∀ die, v.fencedHome a .cadd = some die → Runs i s arr r t (u.countNack die) { status := 7, done := t.done }) ∧
        (v.fencedHome a .cadd = none → v.segsBad a.segs = true → Runs i s arr r t fences { status := 7, done := t.done })) ∧
      (counterFine u r (w 4) →
        (slotBad = true → Runs i s arr r t fences { status := 7, done := t.done }) ∧
        (slotBad = false → ¬ WellMade op t w → Runs i s arr r t u { status := 9, done := t.done }) ∧
        (slotBad = false → WellMade op t w → t.worked = true → Runs i s arr r t u { done := t.done, flags := t.flags })))) ∧
  (∀ r t w, Executes s (s.cur.hart == 0) 0 r t w → Runs .emptyEntry s (s.cur.hart == 0) r t (turn s (s.cur.hart == 0)) {}) ∧
  (∀ r t w op, Begins s (s.cur.hart == 0) op r t w → counterFine (turn s (s.cur.hart == 0)) r (w 4) →
    s.isBad (Loc.sp c (slotOf (chainOf r (s.cur.hart == 0)) s.cur.k)) 64 = false → (if s.cur.hart = 0 then 6 < op else op ≠ 0 ∧ op ≠ 0x10 ∧ op ≠ 0x11) →
    Runs .emptyEntry s (s.cur.hart == 0) r t (turn s (s.cur.hart == 0)) { status := 9, done := t.done })) ∧
  (∀ s r t,
  let c := s.cur.core
  let arr := s.cur.hart == 0
  let ch := chainOf r arr
  let n := s.cur.k
  let w := entryWord s c ch n
  let held (v : State) (y : EntryTag) : Bool := !y.folDone && (entryWord v c (v.chain c s.cur.n true) y.seq 5).toNat == n
  let fol (v : State) : Bool := !arr && ((w 0).getLsbD 53 || (v.chain c s.cur.n true).tags.any (held v))
  let flags (t : EntryTag) := t.flags ||| (if t.suspect then 0x40 else 0)
  let rec_ (t : EntryTag) (fol : Bool) : EvRecord :=
    { w0 := BitVec.ofNat 64 (2 ^ 56 + t.status % 256 * 2 ^ 48 + one (!arr) * 2 ^ 44 + ((List.range 7).map fun j => one ((flags t).getLsbD j) * 2 ^ (37 + j)).sum +
        one fol * 2 ^ 36 + r.task % 2 ^ 32)
      w1 := BitVec.ofNat 64 n
      w2 := BitVec.ofNat 64 t.done
      w3 := t.faultVal }
  let halts (v : State) (t : EntryTag) : State :=
    let y := v.chain c s.cur.n arr
    ((v.setChain c s.cur.n arr { y with tags := y.tags.map (fun q => if q.seq == t.seq then t else q), halted := some n }).post c (rec_ t false)).wakeChain c s.cur.n arr
  (∀ ch : Chain, ∃ k, ch.publish = { ch with done := ch.done + k, tags := ch.tags.drop k } ∧
    (∀ i y, i < k → ch.tags[i]? = some y → y.finished = true ∧ y.seq = ch.done + i + 1) ∧
    (∀ y, ch.tags[k]? = some y → ¬ (y.finished = true ∧ y.seq = ch.done + k + 1)) ∧ k ≤ ch.tags.length) ∧
  (s.resident c s.cur.n = some r → ch.tags.find? (fun y => y.seq == n) = some t →
    (t.started = false ∨ t.held = true ∨ t.finished = true ∨ s.clk < t.clock ∨ (t.status ≠ 0 ∧ ch.halted.isSome = true) → exec .entryComplete s = .next s) ∧
    (t.started = true → t.held = false → t.finished = false → t.clock ≤ s.clk →
      (t.status ≠ 0 → ch.halted = none → exec .entryComplete s = .next (halts s t)) ∧
      (t.status = 0 →
        let finish (v : State) : State :=
          let y := v.chain c s.cur.n arr
          let y1 := ({ y with tags := y.tags.map fun q => if q.seq == t.seq then { t with finished := true } else q } : Chain).publish
          let y2 : Chain := if fol v then { y1 with fol := y1.fol ++ [(n, v.clk)] } else y1
          let a := v.setChain c s.cur.n arr y2
          let told (k : Nat) : Bool := (v.firing c k).any fun f => t.suspect && t.mxtrap && f.rti == s.cur.n && f.actor == t.actor
          let a := if (w 0).getLsbD 54 || t.suspect then a.post c { rec_ t (fol v) with tells := (t.slot.filter told).map fun k => (k, n) } else a
          let a := a.pulse c (if arr then 0 else 2)
          let a := if arr && part (w 0) 63 56 == 2 then a.pulse c 1 else a
          a.wakeChain c s.cur.n arr
        let val := part (w 4) 55 48
        let seat := s.counterSeat c r (w 4)
        (val = 0 ∨ (∃ e, seat = .error e) → exec .entryComplete s = .next (finish s)) ∧
        (∀ u a die, val ≠ 0 → seat = .ok (u, a) → u.fencedHome a .cadd = some die →
          exec .entryComplete s = .next (halts (s.countNack die) { t with status := 7, faultVal := 0, worked := true })) ∧
        (∀ u a, val ≠ 0 → seat = .ok (u, a) → u.fencedHome a .cadd = none →
          let q := u.counterAdd a.key a.place (BitVec.ofNat 64 val)
          let full : EvRecord := { w0 := BitVec.ofNat 64 (3 * 2 ^ 56 + r.task % 2 ^ 32), w1 := BitVec.ofNat 64 a.addr, w2 := BitVec.ofNat 64 val }
          exec .entryComplete s = .next (finish (if q.2 then q.1.post c full else q.1)))))) ∧
  (s.resident c s.cur.n = some r →
    let due := ∃ q ∈ r.cchain.fol, q.1 = n ∧ q.2 < s.clk
    let tags := r.achain.tags.map fun y => if held s y then { y with folDone := true } else y
    Does .folRelease s due ((s.setResident c s.cur.n { r with
      achain := { r.achain with tags := tags }, cchain := { r.cchain with fol := r.cchain.fol.filter fun q => q.1 != n } }).pulse c 3))) ∧
  (∀ (s : State) (c k n : Nat) (e : EvRecord) (f : Firing), e.tells = some (k, n) → s.firing c k = some f →
    let x := s.core c
    let full := 64 ≤ x.evq.length ∨ x.evHeld ≠ []
    (¬ full → (s.post c e).firing c k = some { f with mxsus := f.mxsus ++ [n] } ∧ ((s.post c e).core c).evq = x.evq ++ [{ e with tells := none }]) ∧
    (full → (s.post c e).firing c k = some f ∧ ((s.post c e).core c).evHeld = x.evHeld ++ [e]))

/-- The entries of the matrix array (R227 to R236): tiles, planes, streaming, draining, zeroing and the sparsity map.
Where the rules leave a point open, what it says is the model's choice (log entries 25, 26, 27, 28 and 29). -/
def Obligations.ArrayEntries : Prop := ∀ s r t w,
  let c := s.cur.core
  let x := (s.core c).array
  let put (y : Sys2Proof.Machine.Array) : State := s.setCore c { s.core c with array := y }
  let bank (a : Nat) : Word := mgetD t.formats (a / 65536 % 16) 0
  let a := (w 1).toNat
  let p := w 2
  let n := part p 7 0
  let row0 := part p 16 10
  let set := part p 9 8
  let at_ (i : Nat) : Nat := a + part p 43 32 * 16 * i
  let key (i col : Nat) : Nat := (set * 128 + row0 + i) * 64 + col
  let paramsOk := part p 63 44 = 0 ∧ part p 31 17 = 0 ∧ 1 ≤ n ∧ n ≤ 128 ∧ row0 + n ≤ 128
  let flush := (w 0).getLsbD 43
  let f := bank a
  let ef := part f 7 4
  let wid := codeWidth ef
  (Executes s true 1 r t w → w 2 = 0 → w 3 = 0 → t.done = 0 →
    let m := x.nextMap
    let rows := heldRows ef m
    let len := rows.length * 64 * wid / 8
    let idx := if m.getLsbD 32 then tileRows ef * 16 else 0
    let bs := blockSize f
    let block (b col : Nat) : Nat := a + (col * rows.length + b * bs) * wid / 8
    let scale (b col : Nat) : Nat := scaleAt (bank (block b col)) (block b col)
    (∀ i, i < len → kind (bank (a + i)) = kind f) →
    tileRows ef ≠ 0 → (m.getLsbD 33 = true ∨ part m 31 0 < 2 ^ slabCount ef m) →
    (bs ≠ 0 → m.getLsbD 32 = false ∧ (bs = 32 → ∀ j, j < slabCount ef m / 2 → live m (2 * j) = live m (2 * j + 1))) →
    within_ r a len → (idx ≠ 0 → within_ r x.nextIdx idx) → a % 16 = 0 → a < 2 ^ 20 →
    (bs ≠ 0 → ∀ b col, b < rows.length / bs → col < 64 → within_ r (scale b col) 1 ∧ s.isBad (Loc.sp c (scale b col)) 1 = false) →
    s.isBad (Loc.sp c a) len = false → s.isBad (Loc.sp c x.nextIdx) idx = false →
    ∃ shadow index scales,
      Runs .mwldEntry s true r t (put { x with shadow := shadow, shadowFmt := f, shadowMap := m, shadowIdx := index, shadowScale := scales })
        { done := len, time := (len + 127) / 128 + 8 + (idx + 127) / 128 } ∧
      (∀ i col, i < rows.length → col < 64 → mgetD shadow (rows.getD i 0 * 64 + col) 0 = BitVec.ofNat 16 (bitsOf (padNumber s a len) ((col * rows.length + i) * wid) wid)) ∧
      (∀ j col, col < 64 → j ∉ rows → mget shadow (j * 64 + col) = none) ∧
      (m.getLsbD 32 = true → ∀ j col, j ∈ rows → col < 64 → mgetD index (j * 64 + col) 0 = bitsOf (padNumber s x.nextIdx idx) ((j * 64 + col) * 2) 2) ∧
      (bs ≠ 0 → ∀ b col, b < rows.length / bs → col < 64 → mgetD scales (b * 64 + col) 0 = padNumber s (scale b col) 1)) ∧
  (Executes s true 2 r t w → w 1 = 0 → w 2 = 0 → w 3 = 0 →
    Runs .mswapEntry s true r t
      (put { x with
        active := x.shadow
        shadow := x.active
        activeFmt := x.shadowFmt
        shadowFmt := x.activeFmt
        activeMap := x.shadowMap
        shadowMap := x.activeMap
        activeIdx := x.shadowIdx
        shadowIdx := x.activeIdx
        activeScale := x.shadowScale
        shadowScale := x.activeScale }) { time := 1 }) ∧
  (Executes s true 3 r t w → w 3 = 0 → paramsOk → a < 2 ^ 20 → a % 16 = 0 → t.done ≤ n * 256 → mrising x.acc = true →
    let ov := (w 0).getLsbD 48
    let fa (i : Nat) : Word := bank (at_ i)
    let fw := if part x.activeFmt 7 4 = 0 then BitVec.ofNat 64 (ef * 16) else x.activeFmt
    let cw := part fw 7 4
    let m := x.activeMap
    let rows := heldRows cw m
    let wida (i : Nat) : Nat := codeWidth (part (fa i) 7 4)
    let elems := (if m.getLsbD 32 then 2 else 1) * tileRows cw
    let len (i : Nat) : Nat := elems * wida i / 8
    let bsa (i : Nat) : Nat := blockSize (fa i)
    let bsw := blockSize fw
    let scale (i j : Nat) : Nat := let b := at_ i + j * bsa i * wida i / 8
      scaleAt (bank b) b
    let word (i : Nat) : Nat := Loc.acc c (key i 0)
    (∀ i, i < n → pairs cw (part (fa i) 7 4) ∧ (bsa i ≠ 0 ∨ bsw ≠ 0 → m.getLsbD 32 = false ∧ cw ≠ 13) ∧
      (∀ b, b < len i → live m (b / (2 * wida i)) = true →
        within_ r (at_ i + b) 1 ∧ s.isBad (Loc.sp c (at_ i + b)) 1 = false ∧ kind (bank (at_ i + b)) = kind (fa i)) ∧
      (bsa i ≠ 0 → ∀ j, j < elems / bsa i → (∃ q, live m q = true ∧ q * 16 < (j + 1) * bsa i ∧ j * bsa i < (q + 1) * 16) →
        within_ r (scale i j) 1 ∧ s.isBad (Loc.sp c (scale i j)) 1 = false) ∧
      (ov = false → s.isBad (word i) 256 = false)) →
    let scaleA (i k : Nat) : Nat := padNumber s (scale i (k / max 1 (bsa i))) 1
    let scaleW (j col : Nat) : Nat := mgetD x.activeScale (rows.idxOf (j / max 1 bsw * bsw) / max 1 bsw * 64 + col) 0
    let term (i col j : Nat) : Ex × BitVec 7 :=
      let k := if m.getLsbD 32 then 4 * (j / 2) + mgetD x.activeIdx (j * 64 + col) 0 else j
      let av := element (fa i) flush (bitsOf (padNumber s (at_ i) (len i)) (k * wida i) (wida i)) (scaleA i k)
      let wv := element fw flush (mgetD x.active (j * 64 + col) 0).toNat (scaleW j col)
      ((av.1.mul wv.1).1, av.2 ||| wv.2 ||| (av.1.mul wv.1).2)
    let lane (i col j : Nat) : Ex := (term i col j).1
    let old (i col : Nat) : BitVec 32 := mgetD x.acc (key i col) 0
    let first := t.done / 256
    let raised (i col : Nat) : BitVec 7 :=
      let ts := rows.map (lane i col)
      let q := exSum 0 (if cw < 9 ∧ ov = false then decodeF 0 false (old i col).toNat :: ts else ts)
      rows.foldl (fun z j => z ||| (term i col j).2) 0 |||
        if cw < 9 then q.2 ||| (convertF 0 0 false flush 0 q.1).2 else if q.1.isNan || q.1.isInf then q.2 ||| 0x10 else 0
    let suspect (i col : Nat) : Prop :=
      let bs := if bsa i = 0 then bsw else if bsw = 0 then bsa i else min (bsa i) bsw
      bs ≠ 0 ∧ ∃ b, passesBound bs (part (fa i) 7 4) cw ((rows.filter fun j => j / bs == b).map (lane i col))
        (if bsa i = 0 then exInt 1 else decodeScale (part (fa i) 11 10) (scaleA i (b * bs))) (if bsw = 0 then exInt 1 else decodeScale (part fw 11 10) (scaleW (b * bs) col))
    ∃ acc ints fl sus bads,
      let u := put { x with acc := acc, accInt := ints }
      let touches (l : Nat) : Bool := (List.range n).any fun i => decide (first ≤ i ∧ l = word i / 256)
      let v : State := { u with freeCtr := u.freeCtr + (n - first), bad := bads, clean := s.clean.filter fun l => !touches l.1 }
      Runs .mstrmEntry s true r t (if sus = true ∧ t.suspect = false then v.countSuspect c else v)
        { done := n * 256, flags := fl, sus, time := (n * ((List.range (slabCount cw m)).countP fun j => live m j) + slabCount cw m - 1) / slabCount cw m + 72 } ∧
      (∀ k, k < 7 → (fl.getLsbD k = true ↔ t.flags.getLsbD k = true ∨ ∃ i col, first ≤ i ∧ i < n ∧ col < 64 ∧ (raised i col).getLsbD k = true)) ∧
      (sus = true ↔ t.suspect = true ∨ ∃ i col, first ≤ i ∧ i < n ∧ col < 64 ∧ suspect i col) ∧
      (∀ i col, first ≤ i → i < n → col < 64 →
        let ts := rows.map (lane i col)
        let z (k : Int) : BitVec 32 := BitVec.ofInt 32 ((if ov then 0 else (old i col).toInt) + k)
        (cw < 9 → mgetD acc (key i col) 0 = BitVec.ofNat 32 (convertF 0 0 false flush 0
          (exSum 0 (if ov then ts else decodeF 0 false (old i col).toNat :: ts)).1).1) ∧
        (9 ≤ cw → mgetD acc (key i col) 0 = match (exSum 0 ts).1 with
          | .fin neg num den => if num % den = 0 then z (if neg then -((num / den : Nat) : Int) else ((num / den : Nat) : Int))
            else BitVec.ofNat 32 (Config.free (s.freeCtr + (i - first)))
          | .inf neg => if neg then 0x80000000 else 0x7FFFFFFF
          | .nan => 0) ∧
        (set * 128 + row0 + i ∈ ints ↔ 9 ≤ cw)) ∧
      (∀ b, b ∈ bads ↔ b ∈ s.bad ∧ ¬ ∃ i, first ≤ i ∧ i < n ∧ word i ≤ b ∧ b < word i + 256) ∧
      (∀ k, (∀ i col, first ≤ i → i < n → col < 64 → k ≠ key i col) → mget acc k = mget x.acc k)) ∧
  (Executes s true 4 r t w → t.done = 0 → paramsOk → part (w 3) 63 32 = 0 → part (w 0) 52 50 ≠ 7 → a < 2 ^ 20 → a % 16 = 0 →
    let fa (i : Nat) : Word := bank (at_ i)
    let ea (i : Nat) : Nat := part (fa i) 7 4
    let len (i : Nat) : Nat := 64 * codeWidth (ea i) / 8
    let bs (i : Nat) : Nat := blockSize (fa i)
    let scale (i b : Nat) : Nat := let p := at_ i + b * (bs i * codeWidth (ea i) / 8)
      scaleAt (bank p) p
    (∀ i, i < n → ea i ≠ 0 ∧ ea i ≠ 13 ∧ (bs i ≠ 0 → part (fa i) 11 10 = 0 ∧ ∀ b, b < 64 / bs i → within_ r (scale i b) 1) ∧
      within_ r (at_ i) (len i) ∧ (∀ b, b < len i → kind (bank (at_ i + b)) = kind (fa i)) ∧ s.isBad (Loc.acc c (key i 0)) 256 = false) →
    let by_ := decodeF 0 flush (part (w 3) 31 0)
    let val (i col : Nat) : Ex × BitVec 7 :=
      let v := mgetD x.acc (key i col) 0
      (if set * 128 + row0 + i ∈ x.accInt then exInt v.toInt else decodeF 0 flush v.toNat).mul by_
    let vals (i : Nat) : List Ex := (List.range 64).map fun col => (val i col).1
    let draw (i j : Nat) : Nat := entryDraw (w 0) (i * 64 + j)
    ∃ (bytes : Nat → List Byte) (fl : BitVec 7), (∀ i, i < n → Packs (fa i) (w 0) (vals i) (draw i) (bytes i)) ∧
      (∀ k, k < 7 → (fl.getLsbD k = true ↔ t.flags.getLsbD k = true ∨ ∃ i col, i < n ∧ col < 64 ∧
        ((val i col).2 ||| (elementCoded (fa i) (w 0) (vals i) (draw i col) col).2).getLsbD k = true)) ∧
      let code (i b : Nat) : Byte := BitVec.ofNat 8 (blockScale (ea i) (((vals i).drop (b * bs i)).take (bs i)))
      let step (u : State) (i : Nat) : State :=
        let v := u.homeWrite 0 (Loc.sp c (at_ i)) (bytes i)
        let v := (List.range (64 / bs i)).foldl (fun v b => v.homeWrite 0 (Loc.sp c (scale i b)) [code i b]) v
        let y := (v.core c).array
        let z := v.setCore c { v.core c with array := { y with acc := (List.range 64).foldl (fun m col => mdel m (key i col)) y.acc } }
        if (w 0).getLsbD 48 then { z with clean := z.clean.filter fun l => l.1 != Loc.acc c (key i 0) / 256 } else v
      Runs .mdrainEntry s true r t ((List.range n).foldl step s)
        { done := ((List.range n).map len).sum, flags := fl, time := ((List.range n).map fun i => (len i + 127) / 128).sum + 12 }) ∧
  (Executes s true 5 r t w → w 1 = 0 → w 3 = 0 → part p 63 10 = 0 → part p 7 0 = 0 →
    let from_ := Loc.acc c (set * 8192)
    ∃ acc ints bads, Runs .mzeroEntry s true r t { put { x with acc := acc, accInt := ints } with
        bad := bads, clean := s.clean.filter fun l => !decide (from_ / 256 ≤ l.1 ∧ l.1 < from_ / 256 + 128) } { time := 32 } ∧
      (∀ b, b ∈ bads ↔ b ∈ s.bad ∧ ¬ (from_ ≤ b ∧ b < from_ + 32768)) ∧
      (∀ row col, row < 128 → col < 64 → mgetD acc ((set * 128 + row) * 64 + col) 0 = 0) ∧
      (∀ k, k < set * 8192 ∨ (set + 1) * 8192 ≤ k → mget acc k = mget x.acc k) ∧ (∀ k, k ∈ ints ↔ k ∈ x.accInt ∧ k / 128 ≠ set)) ∧
  (Executes s true 6 r t w → w 2 = 0 → part (w 3) 63 32 = 0 →
    Runs .mspmapEntry s true r t
      (put { x with nextMap := BitVec.ofNat 64 (part (w 3) 31 0 + (if (w 0).getLsbD 48 then 2 ^ 32 else 0)), nextIdx := a }) { time := 4 })

/-- The entries of the copy engine (R239 to R243): rows moved unchanged or converted, a first failing byte, and no access for an
empty copy.
Where the rules leave a point open, what it says is the model's choice (log entries 16, 24, 25, 29 and 136). -/
def Obligations.CopyEntries : Prop := ∀ s r t w i op,
  (i, op) ∈ [(Instr.cpyEntry, 0x10), (.cpy2dEntry, 0x11)] → Executes s false op r t w → t.done = 0 → t.replies = [] → t.issued = [] → t.sides = none → t.source = none →
  let c := s.cur.core
  let plane := op = 0x11
  let signed32 (k : Nat) : Int := fieldNum false 32 (part (w 6) (32 * k + 31) (32 * k))
  let len := if op = 0x11 then part (w 5) 19 0 else part (w 3) 47 0
  let rows := if op = 0x11 then part (w 5) 31 20 + 1 else 1
  let off (word k j : Nat) : Nat := if op = 0x11 then (low (part (w word) 55 0 + j * signed32 k)).toNat else part (w word) 55 0
  let doff (j : Nat) : Nat := off 1 0 j
  let soff (j : Nat) : Nat := off 2 1 j
  let fine := if plane then w 3 = 0 ∧ part (w 5) 63 32 = 0 else part (w 3) 63 48 = 0 ∧ w 5 = 0 ∧ w 6 = 0
  let u := turn s false
  let hd := part (w 1) 63 56
  let ht := part (w 2) 63 56
  let free : State := { u with freeCtr := u.freeCtr + 2 }
  let fv := Config.free u.freeCtr
  let lane := Config.free (u.freeCtr + 1) % 32
  let ends (v : State) (o : Left) : Prop := ∀ r' t', v.resident c s.cur.n = some r' → r'.cchain.tags.find? (fun y => y.seq == s.cur.k) = some t' →
    r'.cchain.cfg = r.cchain.cfg → entryWord s c r'.cchain s.cur.k 0 = w 0 → Runs i s false r' t' v o
  (¬ fine → Runs i s false r t u { status := 9, val := w 1 }) ∧
  (fine →
    (r.handle hd = none → Runs i s false r t u { status := 1, val := BitVec.ofNat 64 (hd * 2 ^ 56 + doff 0 % 2 ^ 56) }) ∧
    (r.handle hd ≠ none → r.handle ht = none → Runs i s false r t u { status := 1, val := BitVec.ofNat 64 (ht * 2 ^ 56 + soff 0 % 2 ^ 56) }) ∧
    (∀ dh th, r.handle hd = some dh → r.handle ht = some th →
      (len = 0 → Runs i s false r t u { flags := t.flags }) ∧
      (∀ fd ft, len ≠ 0 →
        let d : CopySide := { hi := hd, h := dh, f := fd }
        let q : CopySide := { hi := ht, h := th, f := ft }
        let same := part fd 7 4 = 0 ∨ part ft 7 4 = 0 ∨ kind fd = kind ft
        let wt := codeWidth (part ft 7 4)
        let wd := codeWidth (part fd 7 4)
        let n := len * 8 / wt
        let whole := len * 8 % wt = 0 ∧ (blockSize ft ≠ 0 → n % blockSize ft = 0) ∧ (blockSize fd ≠ 0 → n % blockSize fd = 0)
        let aligned (f : Word) (o : Nat) : Prop := o % (if blockSize f = 0 then (codeWidth (part f 7 4) + 7) / 8 else 16) = 0
        let out := if same then len else (n * wd + 7) / 8
        let fails (j : Nat) : Option (Nat × Word) := rowEnd u c r t.sid d q (doff j) (soff j) out len
        formatAt r t q (soff 0) → formatAt r t d (doff 0) → (∀ j, j < rows → formatted r t q (soff j) len) → (∀ j, j < rows → formatted r t d (doff j) (if same then len else max 1 ((n * wd + 7) / 8))) →
        (same → ∀ v, Rows (fun j => MovesRow c r t.sid lane d q (doff j) (soff j) len) 0 rows free v → ∃ time, ends v { done := len * rows, flags := t.flags, time }) ∧
        (same → ∀ j z m bs v v1 k e val z1, j < rows → Rows (fun j => MovesRow c r t.sid lane d q (doff j) (soff j) len) 0 j free z →
          ReadsAt c r t.sid lane ht z (offsets (soff j) m) bs v → SourceTo c r t.sid lane ht z (soff j) len m bs v1 →
          StopsAt c r t.sid lane hd ht v v1 (doff j) (soff j) len m bs k e val z1 → ends z1 { status := e, val, done := len * j + k, flags := t.flags }) ∧
        (¬ same → part fd 7 4 = 13 ∨ (blockSize fd ≠ 0 ∧ part fd 11 10 ≠ 0) →
          Runs i s false r t u { status := 8, val := BitVec.ofNat 64 (hd * 2 ^ 56 + doff 0 % 2 ^ 56) }) ∧
        (¬ same → part fd 7 4 ≠ 13 → (blockSize fd ≠ 0 → part fd 11 10 = 0) →
          (¬ whole ∨ part (w 0) 52 50 = 7 → Runs i s false r t u { status := 9, val := BitVec.ofNat 64 (hd * 2 ^ 56 + doff 0 % 2 ^ 56) }) ∧
          (whole → part (w 0) 52 50 ≠ 7 →
            (∀ j, j < rows → (¬ aligned fd (doff j) ∨ ¬ aligned ft (soff j)) → (∀ k, k < j → aligned fd (doff k) ∧ aligned ft (soff k)) →
              (∀ k p, k < rows → (∀ k', k' < k → fails k' = none) → fails k = some p → Runs i s false r t u { status := p.1, val := p.2 }) ∧
              ((∀ k, k < rows → fails k = none) →
                (¬ aligned fd (doff j) → Runs i s false r t u { status := 4, val := BitVec.ofNat 64 (hd * 2 ^ 56 + doff j % 2 ^ 56) }) ∧
                (aligned fd (doff j) → Runs i s false r t u { status := 4, val := BitVec.ofNat 64 (ht * 2 ^ 56 + soff j % 2 ^ 56) }))) ∧
            ((∀ j, j < rows → aligned fd (doff j) ∧ aligned ft (soff j)) →
              (∀ v (fls : Nat → BitVec 7), Rows (fun j => ConvertsRow c r t (w 0) t.sid lane fv d q (doff j) (soff j) n j (fls j)) 0 rows free v →
                ∃ time, ends v { done := out * rows, flags := (List.range rows).foldl (fun z j => z ||| fls j) t.flags, time }) ∧
              (blockSize fd = 0 → blockSize ft = 0 → ∀ j z (fls : Nat → BitVec 7) m bs v v1 o k e val z1, j < rows →
                Rows (fun j => ConvertsRow c r t (w 0) t.sid lane fv d q (doff j) (soff j) n j (fls j)) 0 j free z →
                ReadsAt c r t.sid lane ht z (offsets (soff j) m) bs v → SourceTo c r t.sid lane ht z (soff j) len m bs v1 →
                let n' := m * 8 / wt
                let el (i : Nat) : Ex × BitVec 7 := element ft ((w 0).getLsbD 43) (bitsOf (number bs) (i * wt) wt) 0
                let xs := (List.range n').map fun i => (el i).1
                let draw (i : Nat) : Nat := entryDraw (w 0) (j * n + i)
                (if n' = n then PacksRow fd (w 0) xs draw (Config.free v1.freeCtr) o else Packs fd (w 0) xs draw o) →
                StopsAt c r t.sid lane hd ht v { v1 with freeCtr := v1.freeCtr + 1 } (doff j) (soff j) len m o k e val z1 →
                let before := (List.range j).foldl (fun z i => z ||| fls i) t.flags
                let fl := (List.range n').foldl (fun z i => z ||| (el i).2 ||| (elementCoded fd (w 0) xs (draw i) i).2) before
                ends z1 { status := e, val, done := out * j + k, flags := fl })))))))

/-- The engine's way with a task up to its running phase (R291 to R297, R300, R301): queueing, dispatch by class credits, pre-emption by
age, and the entry edge.
Where the rules leave a point open, what it says is the model's choice (log entries 53, 54, 56 and 69). -/
def Obligations.TaskStarts : Prop := ∀ s : State,
  let n := s.cur.n
  (s.task n = none → exec .taskQueued s = .next s ∧ exec .entryEdge s = .next s) ∧
  (∀ t, s.task n = some t →
    let met := t.preds = some 0 ∨ (t.preds = none ∧ ∃ a k, s.taskCounter n t t.waitW false = some (a, k) ∧ t.wtgt.toNat ≤ number (s.homeRead k a 8))
    let d := s.die (n / 2 ^ 29)
    Does .taskQueued s (t.state = .waiting ∧ met)
      ((s.setDie (n / 2 ^ 29) { d with qseq := d.qseq + 1 }).setTask n { t with state := .queued, qpos := d.qseq }) ∧
    (t.state = .placed → Does .entryEdge s (∀ u, inFlight s u → u.1 ≠ n → clash t u.2 → ¬ live_ u.2) (s.setTask n { t with state := .entering })) ∧
    (t.state ≠ .placed → t.state ≠ .entering → exec .entryEdge s = .next s) ∧
    (t.state = .entering → ∃ u : State,
      (∀ p ∈ t.places, ∀ r, s.resident p.core p.rti = some r →
        (∀ lane o, lane < 32 → o < r.slSize → memGet u.mem (Loc.slice p.core lane (r.slBase + o)) = 0) ∧
        (∀ b : Fin 16, r.spBase ≤ b * 65536 → (b + 1) * 65536 ≤ r.spBase + r.spSize → (u.core p.core).bfmt[b] = 0) ∧
        (r.xbar = true → (u.core p.core).xbar = {}) ∧ (r.links = true → (u.core p.core).fwd = 0)) ∧
      (∀ a, (∀ p ∈ t.places, ∀ r, s.resident p.core p.rti = some r → ∀ lane, lane < 32 → a < Loc.slice p.core lane r.slBase ∨ Loc.slice p.core lane r.slBase + r.slSize ≤ a) →
        memGet u.mem a = memGet s.mem a) ∧ u.dies = s.dies ∧ u.clk = s.clk ∧
      let v := (t.regions.foldl (fun v r =>
        if r.mode = .w ∨ r.space = 5 then v
        else if r.fwd then
          match v.fwdPlace t r with
          | some dst => v.fwdCopy (n / 2 ^ 29) t.ctx r dst (pieces (r.ext / 65536 + 2) (r.base + r.ofs) r.ext 65536)
          | none => v
        else t.places.foldl (fun v p => v.invalidate p.core t.ctx r) v) u).commitBatch n t
      ∀ t', v.task n = some t' →
        let run : Task := { t' with state := .running, ranAt := some v.clk }
        (t'.preempt = false → exec .entryEdge s = .next (v.setTask n run)) ∧
        (t'.preempt = true → exec .entryEdge s = .next (v.setTask n { run with
          state := .preempting, saveAt := v.clk + (part (v.die (n / 2 ^ 29)).tepwait 31 0 * 9 + 3) / 4 })))) ∧
  (let u := (List.range 4).foldl (fun u k => u.holdHeads n k 4097) s
   let w := u.noteWaiting (u.fitting n)
   (∀ k id t, u.firstCandidate n k = some (id, t) → First u n k id t) ∧
   (∀ k, u.firstCandidate n k = none → ∀ id t, ¬ First u n k id t) ∧
   ((s.die n).tasks.length ≤ 4096 → mrising (s.die n).tasks = true → (∀ q ∈ (s.die n).tasks, q.1 / 2 ^ 29 = n) → ∀ k id t, k < 4 → u.queueHead n k = some (id, t) → u.admissible id t false = true) ∧
   (∀ k id t gs, u.firstCandidate n k = some (id, t) → u.fits n id t = some gs →
     gs.length = tyBands t.tw * tyCores t.tw ∧ (gs.map (·.1.core)).Nodup ∧
     ∀ g ∈ gs, u.placeable g.1.core = true ∧ mget (u.core g.1.core).tasks g.1.rti = none ∧ (∃ i, t.roles.getD g.1.band none = some i ∧ mget u.pkg.placed g.1.core = some i) ∧
       (let word := t.tw.getD 1 0
        let ring := 2 ^ part word 55 52
        g.2.contrib = BitVec.ofNat 4 (part word 63 60) ∧ g.2.cchain = { cfg := BitVec.ofNat 64 (g.2.spBase / 64 + part word 55 52 * 2 ^ 32) } ∧
        g.2.achain = { cfg := if tyBit t.tw 47 then BitVec.ofNat 64 ((g.2.spBase + ring * 64) / 64 + part word 59 56 * 2 ^ 32) else 0 }) ∧
       g.2.slots = tySlots t.tw ∧ g.2.spSize = tySp t.tw ∧ g.2.chSize = tyCh t.tw ∧ g.2.slSize = tySl t.tw ∧
       (tySp t.tw ≠ 0 → g.2.spBase + g.2.spSize ≤ 2 ^ 20 ∧ ∀ q ∈ (u.core g.1.core).tasks, q.2.spSize = 0 ∨ q.2.spBase + q.2.spSize ≤ g.2.spBase ∨ g.2.spBase + g.2.spSize ≤ q.2.spBase) ∧
       ((u.core g.1.core).tasks.map (·.2.slots)).sum + tySlots t.tw ≤ 8 ∧ (tyBit t.tw 48 = true → (u.core g.1.core).tasks = []) ∧
       (tyBit t.tw 47 = true → ∀ q ∈ (u.core g.1.core).tasks, q.2.arr = false)) ∧
   let able (k id : Nat) (t : Task) (gs : List Grant) : Prop := k < 4 ∧ u.firstCandidate n k = some (id, t) ∧ u.fits n id t = some gs
   let credits (k : Nat) : Nat := (w.die n).credits.toList.getD k 0
   let spent := ∀ k id t gs, able k id t gs → credits k = 0
   let loaded (f : Nat → Nat) : Prop := (spent → ∀ k, k < 4 → f k = part (w.die n).tewgt (4 * k + 3) (4 * k)) ∧ (¬ spent → ∀ k, k < 4 → f k = credits k)
   ∀ f, loaded f →
    ((∀ k id t gs, able k id t gs → f k = 0) → exec .taskDispatch s = .next w) ∧
    (∀ k id t gs, able k id t gs → 0 < f k → (∀ j id' t' gs', j < k → able j id' t' gs' → f j = 0) → ∃ v : State,
      exec .taskDispatch s = .next v ∧
      (∃ q, v.task id = some q ∧ q.state = (if t.state = .saved then .restoring else .placed) ∧ q.placedAt = s.clk ∧ q.waitingSince = none ∧ q.places = gs.map (·.1)) ∧
      (∀ g ∈ gs, ∃ r, v.resident g.1.core g.1.rti = some r ∧ r.task = id ∧ r.handles = t.handles ∧ r.spBase = g.2.spBase ∧ r.slots = g.2.slots ∧
        r.achain = g.2.achain ∧ r.cchain = g.2.cchain ∧ r.contrib = g.2.contrib ∧
        ∀ b, (v.core g.1.core).winctl.getLsbD b = true ↔ (∃ q ∈ (v.core g.1.core).tasks, q.2.contrib.getLsbD b = true) ∨
          ∃ d ∈ w.dies, ∃ q ∈ d.2.tasks, ∃ x ∈ q.2.windows, x.1 = g.1.core ∧ x.2.getLsbD b = true) ∧
      (∀ g ∈ gs, (g.2.arr = true → (v.core g.1.core).array = {}) ∧ (g.2.xbar = true → (v.core g.1.core).xbar = {})) ∧
      (n = id / 2 ^ 29 → ∀ j, j < 4 → (v.die n).credits.toList.getD j 0 = if j = k then f j - 1 else f j))) ∧
  (∀ (u : State) k id t, u.firstCandidate n k = some (id, t) → First u n k id t) ∧
  (mrising (s.die n).tasks = true →
    let age := part (s.die n).tepage 31 0
    let aged (k id : Nat) (t : Task) : Prop := age ≠ 0 ∧ k < 4 ∧ s.firstCandidate n k = some (id, t) ∧ s.fits n id t = none ∧
      (∃ w, t.waitingSince = some w ∧ 9 * age ≤ 4 * (s.clk - w)) ∧ ∀ q ∈ (s.die n).tasks, q.2.state = .preempting → q.2.cls ≤ k
    ((∀ k id t cl xs m, aged k id t → ¬ Chosen s n k id t cl xs m) → exec .taskAgePreempt s = .next s) ∧
    (∀ k id t cl xs m, aged k id t → Chosen s n k id t cl xs m → (∀ j id' t' cl' xs' m', j < k → aged j id' t' → ¬ Chosen s n j id' t' cl' xs' m') →
      exec .taskAgePreempt s = .next ((xs.take m).foldl (fun u v => (u.requestPreempt v.1).2) s)))

/-- The end of a task (R302, R304 to R307): the end of its running phase, the drain, the flushes and the publishing of its record.
Where the rules leave a point open, what it says is the model's choice (log entries 59, 63, 64 and 65). -/
def Obligations.TaskEnds : Prop := ∀ s : State,
  let n := s.cur.n
  (s.task n = none → ∀ i ∈ [Instr.quiescence, .tregFlush, .exitDrain, .exitFlush, .exitPublish], exec i s = .next s) ∧
  (∀ (c : Nat) (l : Line) (lo hi : Nat),
    let own (k : Nat) : Prop := k < 64 ∧ l.dirty.getLsbD k = true ∧ lo ≤ l.line * 64 + k ∧ l.line * 64 + k < hi
    ((∀ k, ¬ own k) → s.flushLine c l lo hi = (s, false)) ∧
    let home := homeOf l.space c (l.line * 64) none
    ((∃ k, own k) → s.sliceFenced home.1 home.2 = true → s.flushLine c l lo hi = (s.countNack home.1, true)) ∧
    ((∃ k, own k) → s.sliceFenced home.1 home.2 = false → (s.flushLine c l lo hi).2 = false ∧
      ∀ m ∈ ((s.flushLine c l lo hi).1.core c).l1, m.space = l.space → m.line = l.line → m.ctx = l.ctx →
        ∀ k, k < 64 → m.dirty.getLsbD k = (l.dirty.getLsbD k && !decide (lo ≤ l.line * 64 + k ∧ l.line * 64 + k < hi)))) ∧
  (∀ t, s.task n = some t →
    Does .quiescence s ((t.state = .running ∨ t.state = .preempting) ∧ Over s n t) (s.setTask n { t with state := .draining }) ∧
    ((∀ r, t.regions[s.cur.k]? = some r → r.flushing = false) → exec .tregFlush s = .next s) ∧
    (∀ r, t.regions[s.cur.k]? = some r → r.flushing = true →
      exec .tregFlush s = .next (flushedTo n t s.cur.k r (written s t r).1 (written s t r).2)) ∧
    (t.state ≠ .flushing ∨ (∀ r ∈ t.regions, ¬ exiting r) → exec .exitFlush s = .next s) ∧
    (∀ i r, t.state = .flushing → t.regions[i]? = some r → exiting r → (∀ j q, j < i → t.regions[j]? = some q → ¬ exiting q) →
      exec .exitFlush s = .next (flushedTo n t i r (written s t r).1 (written s t r).2)) ∧
    (t.state ≠ .draining ∨ ¬ Drained s n t → exec .exitDrain s = .next s) ∧
    (t.state = .draining → Drained s n t → ∃ u : State, ∃ q : Task,
      let c := if t.faulted then t.fcore else ((t.places[0]?).map (·.core)).getD 0
      exec .exitDrain s = .next ((t.acts.foldl (fun v g => v.streamIdle n g) (u.setTask n q)).requestDone n) ∧
      (∀ p ∈ t.places, ∀ a ∈ (u.core p.core).actors, a.2.task ≠ n) ∧ (∀ e ∈ u.cores, ∀ m ∈ e.2.nic, ∀ c e ch d, m ≠ .actor n c e ch d) ∧
      (∀ p ∈ t.places, mrising (s.core p.core).tasks = true → u.resident p.core p.rti = none) ∧ u.mem = s.mem ∧
      (∀ b ∈ (u.die (n / 2 ^ 29)).barriers, b.1 / 64 ≠ n) ∧
      (∀ (i : Nat) r, i < 16 → t.regions[i]? = some r → q.regions[i]? = some { r with high := s.highWater t i }) ∧
      (∀ x, x ∈ q.windows ↔ x ∈ t.windows ∨ x.2 ≠ 0 ∧ ∃ p ∈ t.places, x = (p.core, ((s.resident p.core p.rti).map (·.contrib)).getD 0)) ∧
      q.state = .flushing ∧ q.places = [] ∧ q.queues = [] ∧ q.preempt = false ∧ q.former = (t.former ++ t.places.map (·.core)).eraseDups ∧ q.fcore = c ∧
      (∀ p r, t.places.find? (fun p => p.core == c) = some p → s.resident p.core p.rti = some r →
        q.arrSeq = r.achain.done ∧ q.copySeq = r.cchain.done ∧ q.haltSeq = r.cchain.halted.getD 0) ∧
      q.dropped = min ((t.places.map fun p => (((s.core p.core).actors.filter fun a => a.2.task == n).map fun a => (a.2.ins.map heldIn).sum).sum).sum +
        (t.queues.map fun e => (e.2.map heldIn).sum).sum) (2 ^ 32 - 1)) ∧
    (t.state ≠ .flushing ∨ (∃ r ∈ t.regions, exiting r ∨ r.flushing = true) → exec .exitPublish s = .next s) ∧
    (t.state = .flushing → (∀ r ∈ t.regions, ¬ exiting r ∧ r.flushing = false) →
      let lost (die : Nat) (v : State) : State := v.setDie die { v.die die with cfstat := counts (v.die die).cfstat 47 32 }
      let recorded : State := if t.recAddr = 0 then s else match s.rangeNack t.recAddr 320 with
        | some die => lost die s
        | none => (s.devWrite (n / 2 ^ 29) t.ctx t.key t.recAddr (recordOf n t)).getD s
      let val := part t.doneW 55 48
      let none_ := val = 0 ∨ (t.noadd = true ∧ (endStatus t = 1 ∨ endStatus t = 3 ∨ endStatus t = 4)) ∨ recorded.taskCounter n t t.doneW true = none
      let finish (v : State) : State :=
        let v := t.windows.foldl (fun v x => v.renewWinctl x.1) ((v.graphPublish t).dropTask n)
        let d := v.die (n / 2 ^ 29)
        let v := v.setDie (n / 2 ^ 29) { d with saveUsed := d.saveUsed - t.reserved }
        t.acts.foldl (fun v g => match v.stream g with
          | some e => if e.ppnd && !(v.allTasks.any fun u => u.2.state.live && u.2.acts.contains g) then v.startRelease g else v
          | none => v) v
      (none_ → exec .exitPublish s = .next (finish recorded)) ∧
      (∀ a k, ¬ none_ → recorded.taskCounter n t t.doneW true = some (a, k) →
        let q := recorded.counterAdd k a (BitVec.ofNat 64 val)
        let addr := (((mget t.handles (part t.doneW 63 56)).map fun h => part h.w0 56 0).getD 0) + part t.doneW 44 0
        let full : EvRecord := { w0 := BitVec.ofNat 64 (3 * 2 ^ 56 + n % 2 ^ 32), w1 := BitVec.ofNat 64 addr, w2 := BitVec.ofNat 64 val }
        let space := ((mget t.handles (part t.doneW 63 56)).map fun h => part h.w0 62 60).getD 4
        let home := homeOf space (coreAt (n / 2 ^ 29) 0 0) addr (some a)
        (recorded.sliceFenced home.1 home.2 = true → exec .exitPublish s = .next (finish (lost home.1 recorded))) ∧
        (recorded.sliceFenced home.1 home.2 = false → exec .exitPublish s = .next (finish (if q.2 then q.1.post q.1.columnCore full else q.1))))))

/-- Saving and restoring a task (R211, R308, R310), and the balancer of a pipelined band (R312).
Where the rules leave a point open, what it says is the model's choice (log entries 18, 30, 66, 70 and 72). -/
def Obligations.TaskSaves : Prop := ∀ s : State,
  let n := s.cur.n
  (s.task n = none → ∀ i ∈ [Instr.preemptWaitExpiry, .preemptSave, .taskRestore, .stageBalance], exec i s = .next s) ∧
  (∀ t, s.task n = some t →
    (t.state ≠ .preempting ∨ s.clk < t.saveAt → exec .preemptWaitExpiry s = .next s) ∧
    (t.state = .preempting → t.saveAt ≤ s.clk → ∃ u : State, exec .preemptWaitExpiry s = .next u ∧ u.mem = s.mem ∧ u.dies = s.dies ∧
      ∀ c k f, s.firing c k = some f →
        let mine := ∃ p ∈ t.places, p.core = c ∧ p.rti = f.rti
        let stops := f.stopped = false ∧ f.asked = [] ∧ f.issued = [] ∧ ∀ r ∈ f.flight, r.await = false
        (mine → stops → ∃ g, u.firing c k = some g ∧ g.stopped = true ∧ g.flight = [] ∧ g.pc = f.pc ∧ g.wait = f.wait ∧ g = { f.drain s.clk with stopped := true }) ∧ (¬ (mine ∧ stops) → u.firing c k = some f)) ∧
    (¬ Savable s n t → exec .preemptSave s = .next s) ∧
    (Savable s n t → ∃ u q, exec .preemptSave s = .next u ∧ u.task n = some q ∧
      let v := t.regions.foldl (fun v r => if r.exits then (v.flushCores (t.former ++ t.places.map (·.core)).eraseDups r.space t.ctx (r.base + r.ofs) (r.base + r.ofs + r.ext)).1 else v) s
      q.state = .saved ∧ q.places = [] ∧ q.preempts = t.preempts + 1 ∧ q.preempt = false ∧ q.reserved = imageBytes t.tw ∧ q.saved.length = t.places.length ∧
      (∀ (i : Nat) p r, t.places[i]? = some p → v.resident p.core p.rti = some r → ∃ x, q.saved[i]? = some x ∧ x.band = p.band ∧ x.member = p.member ∧ x.core = p.core ∧
        x.res.handles = r.handles ∧ x.res.hiWater = r.hiWater ∧ x.res.cchain.done = r.cchain.done ∧ x.res.achain.done = r.achain.done ∧
        (∀ o, o < r.spSize → mgetD x.sp o 0 = memGet v.mem (Loc.sp p.core (r.spBase + o))) ∧
        (let base := Loc.sp p.core r.spBase
         ∀ o, o ∈ x.spErr ↔ ∃ b, b - base = o ∧ ((base ≤ b ∧ b < base + r.spSize ∧ b ∈ v.bad ∧ (t.preempts = 0 ∨ mget v.clean (b / 256) = none)) ∨
           (t.preempts ≠ 0 ∧ ∃ l ∈ v.clean, base / 256 ≤ l.1 ∧ l.1 * 256 < base + r.spSize ∧ b ∈ l.2))) ∧
        x.xbar = (if r.xbar then some (v.core p.core).xbar else none) ∧
        (∀ b : Fin 16, (r.spBase ≤ b * 65536 ∧ (b + 1) * 65536 ≤ r.spBase + r.spSize) → (b.val, (v.core p.core).bfmt[b]) ∈ x.bfmt) ∧
        x.array = (if r.arr then some (v.core p.core).array else none) ∧ x.fwd = (if r.links then some (v.core p.core).fwd else none) ∧
        (∀ k g, (k, g) ∈ x.firings ↔ ∃ f, v.firing p.core k = some f ∧ f.rti = p.rti ∧
          let armed : Bool := (v.core p.core).monitors.any (fun m => m.slot == k) || match f.wait with
            | .mwait _ _ => true
            | _ => false
          g = { f with
            actor := ((v.actor p.core f.actor).map (·.idx)).getD 64
            parity := f.parity.filter fun r => !f.clean.contains r
            clean := []
            wait := match f.wait with
              | .gang m _ => .gang m none
              | .ganging m => .gang m none
              | .yield _ _ _ => .none
              | w => w
            restored := f.restored || armed
            woken := f.woken || (v.core p.core).monitors.any (fun m => m.slot == k && m.fired) })) ∧
      (∀ (i : Nat) r, i < 16 → t.regions[i]? = some r → q.regions[i]? = some { r with high := v.highWater t i }) ∧
      (∀ y, y ∈ q.windows ↔ y ∈ t.windows ∨ y.2 ≠ 0 ∧ ∃ p ∈ t.places, y = (p.core, ((v.resident p.core p.rti).map (·.contrib)).getD 0)) ∧
      (∀ p ∈ t.places, ∀ a ∈ (u.core p.core).actors, a.2.task ≠ n) ∧ (∀ d ∈ u.dies, d.2.tepreq.getLsbD 63 = true → part d.2.tepreq 31 0 ≠ n)) ∧
    (t.state ≠ .restoring → exec .taskRestore s = .next s) ∧
    (t.state = .restoring → ∀ v, v = t.regions.foldl (fun v r =>
        if r.mode = .w ∨ r.space = 5 then v else t.places.foldl (fun v p => v.invalidate p.core t.ctx r) v) (t.saved.foldl (fun v x => v.restoreCore n t x) s) →
      let q : Task := { t with
        saved := []
        queues := t.queues.map fun e => (e.1, e.2.map fun i => { i with lent := i.lent.map fun h => (h.1, s.newHolder t h.2.1, h.2.2) })
        state := .running
        ranAt := some v.clk }
      let q : Task := if t.preempt then { q with state := .preempting, saveAt := v.clk + (part (v.die (n / 2 ^ 29)).tepwait 31 0 * 9 + 3) / 4 } else q
      exec .taskRestore s = .next (t.places.foldl (fun v p => (v.wakeChain p.core p.rti true).wakeChain p.core p.rti false)
        (v.setTask n q))) ∧
    (∀ x : SavedCore, ∀ p r y, t.places.find? (fun p => p.band == x.band && p.member == x.member) = some p → s.resident p.core p.rti = some r → x.xbar = some y →
      ∃ z, ((s.restoreCore n t x).core p.core).xbar = { y with pulses := y.pulses.map fun q => (q.1, s.clk), fired := y.fired.map (fun q => (q.1, s.clk)), timerAt := z }) ∧
    (∀ x : SavedCore, ∀ p r, t.places.find? (fun p => p.band == x.band && p.member == x.member) = some p → s.resident p.core p.rti = some r →
      (x.firings.map (·.1)).Nodup → (∀ f ∈ x.firings, f.1 < 8 ∧ s.firing p.core f.1 = none ∧ f.2.gang = 1) →
      ∀ k f, (k, f) ∈ x.firings → ∃ g, (s.restoreCore n t x).firing p.core k = some g ∧ g.rti = p.rti ∧ g.stopped = false ∧ s.clk < g.nextIssue ∧ f.nextIssue ≤ g.nextIssue ∧
        g.g = f.g ∧ g.p = f.p ∧ g.v = f.v ∧ g.k = f.k ∧ g.ba = f.ba ∧ g.pc = f.pc ∧ g.fmode = f.fmode ∧ g.fstat = f.fstat ∧ g.fseed = f.fseed) ∧
    (let due := t.state = .running ∧ tyBit t.tw 42 = true ∧ t.balancedAt + 9000 ≤ s.clk
     let u := s.setTask n { t with balancedAt := s.clk }
     (¬ due → exec .stageBalance s = .next s) ∧
     (due → ∀ stages, stages = t.queues →
      let idle (a : Nat × List InChan) : Prop := a.2 ≠ [] ∧ (∀ i ∈ a.2, heldIn i = 0) ∧ 2 ≤ (u.replicas n t a.1).length
      let crowded (b : Nat × List InChan) (k : Nat) : Prop := ∃ i ∈ b.2, (3 * i.depth + 3) / 4 < heldIn i ∧ heldIn i = k
      ((∀ a ∈ stages, ¬ idle a) ∨ (∀ b ∈ stages, ∀ k, ¬ crowded b k) → exec .stageBalance s = .next u) ∧
      (∀ (i j : Nat) a b k, stages[i]? = some a → idle a → (∀ (i' : Nat) a', i' < i → stages[i']? = some a' → ¬ idle a') →
        stages[j]? = some b → crowded b k → (∀ (j' : Nat) b' k', stages[j']? = some b' → crowded b' k' → k' ≤ k ∧ (k' = k → j ≤ j')) →
        exec .stageBalance s = .next (u.rebind n t a.1 b.1)))) ∧
    (∀ a b c e x y m d, (s.replicas n t a).find? (fun r => !r.2.2.busy) = some (c, e, x) →
      (s.core c).actors.find? (fun y => y.2.task == n && y.2.idx == b) = some y → mget s.pkg.images x.image = some m → m.actors[b]? = some d →
      ∃ z, (s.rebind n t a b) = s.setActor c e z ∧ z.stage = b ∧ z.entry = d.entry ∧ z.task = x.task ∧ z.idx = x.idx ∧ z.ins.map (·.ch) = y.2.ins.map (·.ch) ∧
        (∀ i ∈ z.ins, i.fifo = [])))

/-- Streams in the background (R347, R351, R353, R363 to R365, R367, R368): release, absorb, batches, joins, attention in the slices and
copies on write.
Where the rules leave a point open, what it says is the model's choice (log entries 75, 76, 78, 79 and 80). -/
def Obligations.StreamSteps : Prop := ∀ s : State,
  let n := s.cur.n
  (s.stream n = none → exec .streamRelease s = .next s ∧ exec .absorb s = .next s ∧ exec .joinReduce s = .next s) ∧
  (∀ e, s.stream n = some e →
    let t := s.dropCopies n
    (e.releasing = false → exec .streamRelease s = .next s) ∧
    (e.releasing = true →
      (∀ m, (t.die (homeDie n)).ipt.find? (fun m => m.holder == n) = some m → exec .streamRelease s = .next (t.unmapBlock n m.block)) ∧
      ((∀ m ∈ (t.die (homeDie n)).ipt, m.holder ≠ n) →
        let freed : Stream := { gen := if e.gen = 31 then 1 else e.gen + 1 }
        (e.parent = 0 ∨ t.stream e.parent = none → exec .streamRelease s = .next (t.setStream n freed)) ∧
        (∀ p, e.parent ≠ 0 → t.stream e.parent = some p → exec .streamRelease s = .next ((countOut t e.parent p e).setStream n freed)))) ∧
    (let ready := e.state = .snapshot ∧ e.absorbing = true ∧ e.arm = false ∧ e.nch = 1
     (¬ ready → exec .absorb s = .next s) ∧
     (ready → (∀ g c, inUse s (homeDie n) g c → c.parent = n → c.state = .pruned) → exec .absorb s = .next s) ∧
     (ready → ∀ g c, (s.children n).find? (fun c => c.2.state != .pruned) = some (g, c) →
      let d := s.die (homeDie n)
      let free (m : Mapping) : Bool := m.holder == n && m.present && !d.copies.any fun x => x.holder == g && x.block == m.block
      (∀ m, d.ipt.find? free = some m →
        ((s.mapping g m.block).isSome = true → exec .absorb s = .next (s.unmapBlock n m.block)) ∧
        (s.mapping g m.block = none → exec .absorb s = .next ((s.addMapping { m with holder := g }).delMapping n m.block))) ∧
      (d.ipt.find? free = none → (∃ m ∈ d.ipt, m.holder = n) → exec .absorb s = .next s) ∧
      ((∀ m ∈ d.ipt, m.holder ≠ n) →
        let below := (s.liveStreams (homeDie n)).filter fun x => x.1 == g || s.isAbove 9 g x.2
        let down (x : Nat × Stream) : Stream :=
          if x.1 = g then { x.2 with depth := x.2.depth - 1, parent := e.parent, cidx := e.cidx, counted := false } else { x.2 with depth := x.2.depth - 1 }
        exec .absorb s = .next (((below.foldl (fun t x => t.setStream x.1 (down x)) s).startRelease n).setStream n { gen := if e.gen = 31 then 1 else e.gen + 1 })))) ∧
    (let members := (s.children n).filter fun c => c.2.state != .pruned
     let joins := e.state = .snapshot ∧ e.arm = true ∧ members ≠ [] ∧ ∀ c ∈ members, c.2.state = .returned ∧ c.2.counted = true
     (¬ joins → exec .joinReduce s = .next s) ∧
     (joins → ∃ ranked : List (Nat × Stream), ranked.Perm members ∧
      (((s.children n).map fun c => c.2.cidx).Nodup → ranked.Pairwise fun a b => outranks a.2 b.2) ∧
      let kept := ranked.take e.kk
      let mode := if part (BitVec.ofNat 64 e.cfmode.toNat) 2 0 = 5 then 0 else e.cfmode.toNat % 8
      let r := joinResult e.op mode (e.cfmode.getLsbD 3) (ranked.map (·.2))
      let code (x : Stream) : Nat := if (decodeF 0 false (part x.rval 31 0)).isNan then 0x7FC00000 else part x.rval 31 0
      let best := ((ranked.head?).map fun x => code x.2).getD 0
      let words : List Nat := [7 * 2 ^ 56 + e.op * 2 ^ 45 + ranked.length * 2 ^ 40 + kept.length * 2 ^ 35 + n, r.1, best + r.2.toNat % 32 * 2 ^ 32, 0]
      let bytes := (words.flatMap fun k => leBytes 8 k) ++ (kept.flatMap fun c => leBytes 4 c.1) ++ List.replicate (96 - 4 * kept.length) 0
      let t := match s.placesNack e.radr e.rsegs with
        | some die => s.countNack die
        | none => s.writePlaces (part e.jkey 9 0) e.rsegs bytes
      let finish (t : State) : State :=
        let t := (t.children n).foldl (fun t c => t.setStream c.1 { c.2 with counted := false }) t
        let t := t.setStream n { e with arm := false, nret := 0, absorbing := e.absorbing || e.kk == 1 }
        let t := kept.foldl (fun t c => t.setStream c.1 { c.2 with state := if t.actedFor c.1 0 then .running else .ready, counted := false, readyAt := t.clk }) t
        (ranked.drop e.kk).foldl (fun t c => t.startRelease c.1) t
      (e.op = 0 → r.1 = best) ∧ (e.op = 1 → r.1 = ((ranked.head?).map fun x => x.2.cidx).getD 0) ∧
      (e.cplace = none → exec .joinReduce s = .next (finish t)) ∧
      (∀ a, e.cplace = some a →
        let v := BitVec.ofNat 64 (part e.jkey 17 10)
        let q := t.counterAdd (part e.jkey 9 0) a v
        let full : EvRecord := { w0 := BitVec.ofNat 64 (3 * 2 ^ 56), w1 := BitVec.ofNat 64 e.cadr, w2 := v }
        (∀ die, t.placesNack e.cadr [(some a, 8)] = some die → exec .joinReduce s = .next (finish (t.countNack die))) ∧
        (t.placesNack e.cadr [(some a, 8)] = none → exec .joinReduce s = .next (finish (if q.2 then q.1.post q.1.columnCore full else q.1))))))) ∧
  (let k := s.cur.k
   let w (i : Nat) : Word := nodeWord s n k i
   let size := part (w 1) 15 8 + 1
   ∃ order : List (Nat × Stream), (∀ g e, (g, e) ∈ order ↔ gathers s n k g e) ∧ order.Pairwise (fun a b => ¬ sooner b a) ∧
    let ms := order.take size
    let forms (i : Instr) : Prop :=
      ((s.die n).on = false → exec i s = .next s) ∧
      ((s.die n).on = true → s.batchTask n (s.node n k) ((ms.head?).bind fun m => m.2.queue) = none →
        exec i s = .next (ms.foldl (fun t m => t.setStream m.1 { m.2 with node := 0xFFFF, readyAt := if m.2.state = .ready ∧ m.2.node ≠ 0xFFFF then t.clk else m.2.readyAt }) s)) ∧
      (∀ t, (s.die n).on = true → s.batchTask n (s.node n k) ((ms.head?).bind fun m => m.2.queue) = some t →
        exec i s = .next (s.enter n { t with sid := 0, batch := ms.map (·.1), batchAct := some (part (w 1) 7 2, part (w 1) 1 0) }).2)
    (order.length < size → exec .batchForm s = .next s) ∧ (size ≤ order.length → forms .batchForm) ∧
    (let late := ∃ m, order.head? = some m ∧ part (w 1) 31 16 ≠ 0 ∧ m.2.readyAt + part (w 1) 31 16 * 2250 ≤ s.clk
     (¬ late → exec .batchTimerExpiry s = .next s) ∧ (late → forms .batchTimerExpiry))) ∧
  (let c := s.cur.core
   let sl := s.cur.k / 64
   let q := s.cur.k % 64
   let k := s.core c
   (k.attns[n]? = none → exec .attnTripleMerge s = .next s) ∧
   (∀ j, k.attns[n]? = some j →
    let tokens := ((List.range j.n).map (· + j.t0)).filter fun t => mget j.blocks (t * j.tstr / 32768) == some sl
    let found := s.attnTokens j tokens
    ((sl, q) ∉ j.left → exec .attnTripleMerge s = .next s) ∧
    ((sl, q) ∈ j.left →
      (∀ u, found = .wait u → exec .attnTripleMerge s = .next u) ∧
      (found = .bad false → exec .attnTripleMerge s = .next ((s.fillResult c j.slot j.d (refusal 7)).setAttn c n none)) ∧
      (found = .bad true → exec .attnTripleMerge s = .next (({ s with fenceReq := s.fenceReq ++ [c] }.fillResult c j.slot j.d (refusal 7)).setAttn c n none)) ∧
      (∀ die, found = .nack die → exec .attnTripleMerge s = .next (((s.countNack die).fillResult c j.slot j.d (refusal 7)).setAttn c n none)) ∧
      (∀ t xs, found = .got t xs →
        let empty : Nat × Nat × List Nat := (0xFF800000, 0, List.replicate j.dim 0)
        let a := xs.foldl (j.token (attnElems j.fmt j.ftz j.dim (j.queries.getD q []))) (empty, 0)
        let b := j.merge (j.accs.getD q empty) a.1
        let y : Attn := { j with left := j.left.erase (sl, q), accs := j.accs.set q b.1, flags := j.flags ||| a.2 ||| b.2 }
        (y.left ≠ [] → exec .attnTripleMerge s = .next (t.setAttn c n (some y))) ∧
        (y.left = [] →
          let ends (t : State) : Prop := exec .attnTripleMerge s = .next ((t.fillResult c j.slot j.d (BitVec.ofNat 64 (y.flags.toNat % 32 + j.n % 2 ^ 32 * 2 ^ 16))).setAttn c n none)
          let pad (a : Nat) : Nat := (a - Loc.sp 0 0) / (Loc.sp 1 0 - Loc.sp 0 0)
          let walled (x : Option Nat × Nat) : Prop := ∃ a, x.1 = some a ∧ (t.core (pad a)).fenced = true ∧ t.inColumn (pad a) = false
          ((∀ x ∈ j.out, ¬ walled x) →
            ends (t.writePlaces 0 j.out (y.accs.flatMap fun r => leBytes 4 r.1 ++ leBytes 4 r.2.1 ++ List.replicate 8 0 ++ r.2.2.flatMap (leBytes 4)))) ∧
          (∀ (i : Nat) a m, j.out[i]? = some (some a, m) → walled (some a, m) → (∀ (l : Nat) x, l < i → j.out[l]? = some x → ¬ walled x) →
            ends ((t.countNack (pad a / 256)).endRunning j.task))))))) ∧
  (let d := s.die n
   (d.copies[s.cur.k]? = none → exec .copyOnWriteComplete s = .next s) ∧
   (∀ x, d.copies[s.cur.k]? = some x →
    let count := if part d.ststat 31 0 + 1 < 2 ^ 32 then part d.ststat 31 0 + 1 else 2 ^ 32 - 1
    let t := s.setDie n { d with copies := d.copies.eraseIdx s.cur.k, ststat := BitVec.ofNat 64 (d.ststat.toNat / 2 ^ 32 * 2 ^ 32 + count) }
    let key := ((t.stream x.holder).getD {}).key
    let m : Mapping := { holder := x.holder, block := x.block, frame := x.frame, key, tier := if x.frame / 2 ^ 23 % 2 = 1 then 1 else 0 }
    (t.resolveBlock 8 x.holder x.block 0 = none → exec .copyOnWriteComplete s = .next ((t.zeroFrame n x.frame).addMapping m)) ∧
    (∀ lvl o, t.resolveBlock 8 x.holder x.block 0 = some (lvl, o) →
      let u := t.copyFrame key (o.place 0) (m.place 0)
      (lvl = 0 → exec .copyOnWriteComplete s = .next ((u.putMapping { m with slot := o.slot }).dropRef n o.frame o.tier (if o.al then none else some o))) ∧
      (lvl ≠ 0 → exec .copyOnWriteComplete s = .next (u.addMapping m)))))

/-- Parked streams (R398 to R405, R409): pending parks, wakes, the two timers of the ladder, moves and the stages of a promotion.
Where the rules leave a point open, what it says is the model's choice (log entries 81, 82, 83 and 138). -/
def Obligations.ParkSteps : Prop := ∀ s : State,
  let i := s.cur.n
  let us := s.clk / 2250
  (i ∉ s.pkg.wakes → exec .wake s = .next s) ∧
  (i ∈ s.pkg.wakes → 2 ^ 20 ≤ i →
    let t : State := { s with pkg := { s.pkg with wakes := s.pkg.wakes.erase i } }
    (t.stub (i - 2 ^ 20) = none → exec .wake s = .next t) ∧
    (∀ u, t.stub (i - 2 ^ 20) = some u →
      (u.pidx = none → i ∉ t.pkg.wakes → exec .wake s = .next { t with pkg := { t.pkg with wakes := t.pkg.wakes ++ [i] } }) ∧
      (∀ j, u.pidx = some j → ∃ p : Packet, p.cls = 4 ∧ p.dpkg = u.pkg ∧ p.key = u.key ∧ p.pidx = j ∧ exec .wake s = .next (t.fabSend p)))) ∧
  (mget s.pkg.parks i = none → ∀ j ∈ [Instr.pendingPark, .parkTcxExpiry, .parkTflExpiry, .frameMove, .stageA, .stageB, .stageC], exec j s = .next s) ∧
  (∀ die n key d m cs errs,
    let ctr := mgetD s.pkg.slotCtr (slotKey d.tier d.slot) 0 + 1
    ∃ x, mget ((s.writeSlot die n key d m cs errs).die die).descs n = some x ∧ x.tier = d.tier ∧ x.slot = d.slot ∧ x.ctr = ctr ∧
      x.tag = Config.gcmTag (s.keyInst key) (die % 8 * 2 ^ 93 + n % 2 ^ 24 * 2 ^ 69 + ctr % 2 ^ 64 * 2 ^ 5) (m.holder * 2 ^ 32 + m.block) cs) ∧
  (∀ p, mget s.pkg.parks i = some p →
    (∀ q, (s.setPark i (some q)).bad = s.bad) ∧
    let away := ∃ e, s.stream p.sid = some e ∧ e.state = .migrating
    let lost := ∀ e, s.stream p.sid = some e → e.state = .pruned
    (let due := p.state = 1 ∧ ∃ e, s.stream p.sid = some e ∧ e.state = .running ∧ e.ppnd = false ∧
        ∀ u, inFlight s u → u.1 ≠ 0 → u.2.state.holds = true → p.sid ∉ u.2.acts
     (¬ due → exec .pendingPark s = .next s) ∧
     (due → ∀ e, s.stream p.sid = some e →
      Keeps .pendingPark s (s.setStream p.sid { e with state := .parked }) i { p with state := 2, stage := 0, anchor := us, steps := 0, todo := [] })) ∧
    (i ∈ s.pkg.wakes → i < 2 ^ 20 →
      let t : State := { s with pkg := { s.pkg with wakes := s.pkg.wakes.erase i } }
      let first (q : Park) : List Nat := if q.kept = [] then [] else q.todo.take 1
      (away → i ∉ t.pkg.wakes → exec .wake s = .next { t with pkg := { t.pkg with wakes := t.pkg.wakes ++ [i] } }) ∧
      (¬ away →
        (p.state = 1 → exec .wake s = .next (((t.dropWatch i).setPark i none).streamIdle 0 p.sid)) ∧
        (p.state = 2 → Keeps .wake s (t.dropWatch i) i { p with state := 4, stage := 1, todo := first p, wanted := [], ext := none }) ∧
        (p.state = 3 → p.stage ≠ 3 → Keeps .wake s (t.dropWatch i) i { p with state := 3 + p.stage }) ∧
        (p.state = 3 → p.stage = 3 → ∃ q, counted_ (t.dropWatch i) { p with state := 6 } q ∧ exec .wake s = .next (((t.dropWatch i).setPark i (some q)).streamReady p.sid)) ∧
        (p.state = 0 ∨ 4 ≤ p.state → exec .wake s = .next t))) ∧
    (let step (j : Instr) (n : Nat) (on : Bool) (time : Nat) : Prop :=
      let due := p.state = 2 ∧ p.steps + 1 = n ∧ p.anchor + time ≤ us ∧ ¬ away
      (¬ due → exec j s = .next s) ∧
      (due → on = false → Keeps j s s i { p with steps := n }) ∧
      (due → on = true → ∃ bs : List Nat, bs.Pairwise (· ≤ ·) ∧ (∀ b, b ∈ bs ↔ ∃ m, own s p.sid m ∧ m.tier < n + 1 ∧ m.block = b) ∧
        Keeps j s s i { p with steps := n, dest := n + 1, todo := (if p.kept = [] then [] else p.todo.take 1) ++ bs })
     step .parkTcxExpiry 1 (s.pkg.pkcfg.getLsbD 1) p.tcx ∧ step .parkTflExpiry 2 (s.pkg.pkcfg.getLsbD 2) p.tfl) ∧
    (p.todo = [] → exec .frameMove s = .next s) ∧
    (∀ b rest, p.todo = b :: rest →
      let die := homeDie p.sid
      let skip : Park := { p with todo := rest, kept := mdel p.kept b }
      (s.mapping p.sid b = none → Keeps .frameMove s s i skip) ∧
      (∀ m, s.mapping p.sid b = some m →
        (mget p.kept b = none → p.state ≠ 2 ∨ m.al = true ∨ m.rc ≠ 1 ∨ p.dest ≤ m.tier → Keeps .frameMove s s i { p with todo := rest }) ∧
        (mget p.kept b = none → p.state = 2 → m.al = false → m.rc = 1 → m.tier < p.dest →
          (s.takeSlot die p.dest = none → Keeps .frameMove s s.pkSkip i { p with todo := rest }) ∧
          (∀ n d u, s.takeSlot die p.dest = some (n, d, u) →
            let v : State := { u with freeCtr := u.freeCtr + 1 }
            let fresh : Desc := { tier := p.dest, slot := n, ctr := mgetD u.pkg.slotCtr (slotKey p.dest n) 0, tag := Config.free u.freeCtr }
            Keeps .frameMove s ((v.setDesc die d (some fresh)).putMapping { m with present := false }) i { p with kept := mset p.kept m.block d })) ∧
        (∀ n d, mget p.kept b = some n → mget (s.die die).descs n = some d →
          let here := Loc.frame (homeDie m.holder) m.frame 0
          let sound := if m.tier < 2 then True else ∃ o, mget (s.die die).descs m.frame = some o ∧ s.slotOk die m.frame p.key o = true
          let full := s.isBad (slotAt d.tier d.slot) 32768
          (¬ sound ∨ full = true → m.block = b → Keeps .frameMove s ((s.setDesc die n none).putMapping { m with present := true }).pkErr i skip) ∧
          (m.tier < 2 → full = false → m.block = b →
            let u := s.writeSlot die n p.key d m (s.pageBytes p.key here) (s.pageErrs here)
            Keeps .frameMove s ((pointed u m d.tier n).giveFrame die m.frame) i skip) ∧
          (∀ o, 2 ≤ m.tier → sound → mget (s.die die).descs m.frame = some o → full = false → m.block = b →
            let from_ := slotAt o.tier o.slot
            let u := s.writeSlot die n p.key d m (memCut s.mem from_ 32768) (s.pageErrs from_)
            Keeps .frameMove s ((pointed u m d.tier n).setDesc die m.frame none) i skip)))) ∧
    (p.stage ≠ 1 ∨ p.todo ≠ [] → exec .stageA s = .next s) ∧
    (p.stage = 1 → p.todo = [] →
      let bad := s.isBad (part s.pkg.pkbase 51 12 * 4096 + 64 * i) 64
      let outer (m : Mapping) : Bool := (m.holder == p.sid && !m.al && m.rc == 1) && decide (2 ≤ m.tier)
      let ipt := (s.die (homeDie p.sid)).ipt
      (lost → Leaves .stageA s i p) ∧
      (¬ lost → bad = true →
        exec .stageA s = .next (((s.endPark i p).startRelease p.sid).pkErr.relEvent (homeDie p.sid) 7 (i * 2 ^ 24 + p.sid))) ∧
      (¬ lost → bad = false →
        (ipt.find? outer = none → Keeps .stageA s s i { p with stage := 2, state := if p.state = 3 then 3 else 5 }) ∧
        (∀ m, ipt.find? outer = some m →
          (s.takeHbm (homeDie p.sid) = none → exec .stageA s = .next s) ∧
          (∀ f u, s.takeHbm (homeDie p.sid) = some (f, u) →
            Keeps .stageA s (u.putMapping { m with tier := 0, frame := f, present := false }) i
              { p with kept := mset p.kept m.block m.frame, frames := mset p.frames m.block f })))) ∧
    (let stage (j : Instr) (n : Nat) (done : Prop) : Prop :=
      let gone := lost ∧ ¬ (p.stage = 3 ∧ p.state = 6 ∧ StillLands s p)
      (p.stage ≠ n → exec j s = .next s) ∧ (p.stage = n → gone → Leaves j s i p) ∧
      (p.stage = n → ¬ gone → landable p = [] → done) ∧
      (p.stage = n → ¬ gone → landable p ≠ [] → s.cur.k ∉ landable p → exec j s = .next s) ∧
      (p.stage = n → ¬ gone → s.cur.k ∈ landable p → ∀ k, mget p.kept s.cur.k = some k → Lands j s i p s.cur.k k)
     stage .stageB 2 ((p.state = 3 → Keeps .stageB s s i { p with stage := 3 }) ∧
      (p.state ≠ 3 → ∃ q, counted_ s { p with stage := 3, state := 6 } q ∧ exec .stageB s = .next ((s.setPark i (some q)).streamReady p.sid))) ∧
     stage .stageC 3 ((p.state = 3 →
        Keeps .stageC s s i { p with state := 2, stage := 0, steps := 0, anchor := (us + p.ext.getD 0) % 2 ^ 48, ext := none, wanted := [] }) ∧
      (p.state ≠ 3 → exec .stageC s = .next (s.setPark i none)))))

/-- What reset leaves (R187, R198, R206, R268, R289, R298, R344, R410, R431, R437, R441, R446 to R448, R467): the registers at the values their
tables give, no firing, no task, no stream, no packet. That a byte reads as zero is the model's choice (notes/assumptions/1.md). -/
def Obligations.ResetState : Prop :=
  let s := State.reset
  (∀ a, memGet s.mem a = 0) ∧ Memory.wf s.mem = true ∧ s.clk = 0 ∧ s.inputs = [] ∧ s.bad = [] ∧ s.fenceReq = [] ∧ s.pushes = [] ∧ s.kills = [] ∧ s.phase = 0 ∧ s.clean = [] ∧
  (∀ i, let d := s.die i
    d.tepwait = 20000 ∧ d.tepage = 50000 ∧ d.tewgt = 0x1248 ∧ d.tepreq = 0 ∧ d.tesave = 0 ∧ d.tesavesz = 0 ∧ d.nextTask = 1 ∧ d.tasks = [] ∧
    d.xlctx = 0 ∧ d.xlinva = 0 ∧ d.xlinvc = 0 ∧ d.sptbase = 16 ∧ d.spcfg = 0 ∧ d.ststat = 0 ∧ d.stbase = 0 ∧ d.snode = 0 ∧ d.streams = [] ∧
    d.tdbase = 0 ∧ d.fwin = 1 ∧ d.relstat = 0 ∧ d.slpend = 0 ∧ d.ldthr = 2 ∧ d.relthr = 0x204 ∧ d.cfstat = 0 ∧ d.relctr = 0 ∧ d.rellast = 0 ∧
    d.pfthr = 16 ∧ d.stubs = [] ∧ d.merges = [] ∧
    (∀ j : Fin 3, d.cquar[j] = 0) ∧ (∀ j : Fin 32, d.crect[j] = 0) ∧ (∀ j : Fin 12, d.vdom[j] = 8)) ∧
  (s.pkg.pktcxl = 50000 ∧ s.pkg.pktflash = 2000000 ∧ s.pkg.pkbase = 0 ∧ s.pkg.pkcfg = 0 ∧ s.pkg.pkstat = 0 ∧ s.pkg.hbmloc = 0 ∧ s.pkg.plim = 6000 ∧
    s.pkg.fabid = 0 ∧ s.pkg.fabcfg = 0x3E8000A ∧ s.pkg.fabstat = 0 ∧ s.pkg.fabin = [] ∧ s.pkg.fabOut = [] ∧
    s.pkg.parks = [] ∧ s.pkg.queues = [] ∧ s.pkg.graphs = [] ∧ (∀ j : Fin 64, s.pkg.fablnk[j] = 0) ∧
    (∀ k, (mget s.pkg.keys k).isSome = true ↔ k = 0)) ∧
  (∀ c, let x := s.core c
    (∀ k, s.firing c k = none) ∧ x.tasks = [] ∧ x.actors = [] ∧ x.l1 = [] ∧ x.evq = [] ∧ x.monspo = 0 ∧ x.monspr = 0 ∧ x.monspt = 0 ∧ x.cecnt = 0 ∧
    x.winctl = 0 ∧ x.server.cfg = 0 ∧ x.server.parent = 0 ∧ x.server.root = 0 ∧ x.server.stat = 0 ∧
    (∀ j : Fin 16, x.bfmt[j] = 0) ∧ (∀ j : Fin 16, x.xbar.counters[j] = 0) ∧ (∀ j : Fin 8, x.xbar.terms[j] = 0) ∧
    (∀ j : Fin 16, x.xbar.starts[j] = 0) ∧ x.xbar.timer = 0 ∧
    (∀ j : Fin 2, (x.helpers[j]).held = true ∧ (x.helpers[j]).pc = 0 ∧ (x.helpers[j]).hsel = 0x300))

/-- Words of the spec's own examples decode to the instructions they stand for (R11, R12, R14, R31, R204): `VFMA`, `LD`, `FADDB`, `MSTRM.rec`,
`VFDOTMX`, `CADD.fab`, `SAPP`, `CHWR.v`, `GANG.x4`, `RSEND`, `TSPAWN`, `TDONE`, `SATTN`, `SSTEP`, `SPARK`, `SWAKE.ext`, `SMIG`, `CWAIT`, and
a helper's `h.wait` and `addi`; an unassigned opcode and the length code 11 give none. -/
def Obligations.DecodedWords : Prop :=
  let w : Tolog := { len := 0, stall := 0, yld := false, ga := 0, na := false, gb := 0, nb := false, ch := 0, mod := 0, d := 0, a := 0, b := 0,
                     c := 0, e := 0, imm := 0 }
  let hi : Nat := 2 ^ 64
  decodeTableWord 64 0x00418510060CD34C =
    some (.vfma { w with stall := 3, yld := true, ga := 3, gb := 5, nb := true, mod := 1, d := 4, a := 5, b := 6, c := 4 }) ∧
  decodeTableWord 96 (0x0000052409000001 + 0x400C * hi) = some (.ld { w with len := 1, mod := 2, d := 9, a := 5, imm := 0x400C }) ∧
  decodeTableWord 96 (0x08C2C628CD200001 + 0x0804 * hi) =
    some (.faddb { w with len := 1, mod := 0x33, d := 10, a := 6, b := 11, c := 12, e := 2, imm := 0x0804 }) ∧
  decodeTableWord 96 (0x2405543103080001 + 0x0100 * hi) =
    some (.mstrm { w with len := 1, mod := 0x40, d := 12, a := 20, b := 21, e := 9, imm := 0x0100 }) ∧
  decodeTableWord 64 0x543081501E4C0000 = some (.vfdotmx { w with mod := 7, d := 20, a := 1, b := 2, c := 3, e := 21 }) ∧
  decodeTableWord 96 (0x00A248034D240001 + 0x0002 * hi) = some (.caddFab { w with len := 1, mod := 0xD3, a := 8, b := 9, c := 10, imm := 2 }) ∧
  decodeTableWord 96 (0x00D24C3803A40001 + 0x0001 * hi) = some (.sapp { w with len := 1, d := 14, a := 12, b := 9, c := 13, imm := 1 }) ∧
  decodeTableWord 64 0x0000400204CC0000 = some (.chwr { w with mod := 0x81, b := 1 }) ∧
  decodeTableWord 64 0x000000000B400000 = some (.gang { w with mod := 2 }) ∧
  decodeTableWord 64 0x0000C80003540000 = some (.rsend { w with a := 8, b := 3 }) ∧
  decodeTableWord 96 (0x0002483003800001 + 0x4003 * hi) = some (.tspawn { w with len := 1, d := 12, a := 8, b := 9, imm := 0x4003 }) ∧
  decodeTableWord 64 0x0000000003840000 = some (.tdone w) ∧
  decodeTableWord 64 0x0000000007840000 = some (.tdoneKill { w with mod := 1 }) ∧
  decodeTableWord 96 (0x0001085003A00001 + 0x4006 * hi) = some (.sattn { w with len := 1, d := 20, a := 8, b := 4, imm := 0x4006 }) ∧
  decodeTableWord 64 0x0803843403B80000 = some (.sstep { w with d := 13, a := 4, b := 14, e := 2 }) ∧
  decodeTableWord 96 (0x30B0082803A80001 + 0x0004 * hi) = some (.spark { w with len := 1, d := 10, a := 8, c := 11, e := 12, imm := 4 }) ∧
  decodeTableWord 96 (0x000009000BAC0001 + 0x03E8 * hi) = some (.swakeExt { w with len := 1, mod := 2, a := 9, imm := 0x03E8 }) ∧
  decodeTableWord 96 0x0165445003B00001 = some (.smig { w with len := 1, d := 20, a := 4, b := 21, c := 22 }) ∧
  decodeTableWord 96 (0x04E3403D4D280001 + 0x1802 * hi) =
    some (.cwait { w with len := 1, mod := 0x53, d := 15, b := 13, c := 14, e := 1, imm := 0x1802 }) ∧
  decodeTableWord 32 0x0031428B = some (.hWait 3 2 5) ∧
  decodeTableWord 32 0xFFF30293 = some (.rv32imcInstruction (.opImm .add 5 6 0xFFFFFFFF) 4) ∧
  decodeTableWord 64 0x00000000007C0000 = none ∧ decodeTableWord 64 0x0000000000000003 = none

/-- Decoding gives back every well-formed instruction that has a word, with every operand (R8 to R31, R202, R204), and a word that decodes has
a well-formed instruction whose base word it is. -/
def Obligations.DecodeEncode : Prop :=
  (∀ i nbits w, i.wf = true → encode i = some (nbits, w) → decodeTableWord nbits w = some i) ∧
  (∀ x imm i, decodeTolog x imm = .ok i → i.wf = true ∧ ∃ op w, i.tolog = some (op, w) ∧ w.bits op = x ∧
    (w.len = 0 → w.imm = 0) ∧ (w.len = 1 → w.imm.toNat = imm.toNat % 2 ^ 32) ∧ (w.len = 2 → w.imm = imm))

/-- Every step keeps the canonical form of memory: addresses rise, and no listed byte is the byte that an unlisted address reads as. -/
def Obligations.MemoryInvariant : Prop := ∀ s t : State, Memory.wf s.mem = true → step s = .next t → Memory.wf t.mem = true

/-- A step runs the instruction that stands at the program counter (R9, R10, R23, R30): a step that the clock forces goes first; else a helper whose turn it
is runs the word at its pc, or the firing of the slot that a core chooses the word at its own; a fetch that breaks R10, a word in error
and a word that does not decode trap. After the instructions of a clock come what they left for its end (R83, R103), the fences (R442),
the entries that the crossbar commits (R83, R207), an outside event that waits, and of the steps whose clock is open and the end of the clock a free choice. A write
of `VDOM` issues at the end of its clock (R447). The order among the agents is the
model's (notes/assumptions/5.md). -/
def Obligations.StepRuns : Prop := ∀ s : State,
  (∀ c i t, s.forced = (c, i) :: t → step s = exec i { s with cur := c }) ∧
  (s.forced = [] →
    (∀ h, s.turn = .helper h →
      let t : State := { s with turn := .firings, cur := { core := s.cur.core, hart := h } }
      step s = exec (decodeHelper (t.helperWord s.cur.core h)) t) ∧
    (s.turn = .firings →
      (∀ c k s', s.pickCore s.coreIds = some (c, k, s') →
        let t : State := { s' with cur := { core := c, slot := k } }
        ∀ f, t.firing c k = some f →
        let x := baseWord s c f.pc
        let len := if x.toNat % 4 = 3 then 16 else lengthOf (BitVec.ofNat 2 (x.toNat % 4))
        (¬ Fetchable s c f.pc → step s = .next (t.raiseAfter c k 0x01 (BitVec.ofNat 64 f.pc) 0)) ∧
        (Fetchable s c f.pc → s.isBad (Loc.istore c f.pc) len = false →
          (∀ i, decodeTolog x (immediate s c f.pc) = .ok i → step s = exec i t) ∧
          (∀ e, decodeTolog x (immediate s c f.pc) = .error e → step s = .next (t.raiseAfter c k e.code x 0))) ∧
        (Fetchable s c f.pc → s.isBad (Loc.istore c f.pc) len = true →
          ∃ v, let u : State := { t with freeCtr := t.freeCtr + 1 }
            step s = .next (u.raiseAfter c k 0x16 v 0))) ∧
      (s.pickCore s.coreIds = none →
        let r : State := { s with phase := max s.phase 1 }
        let dying := ∃ c x f, (c, x) ∈ s.cores ∧ some f ∈ x.slots.toList ∧ f.killed = true ∧ f.asked = [] ∧ f.issued = [] ∧ f.wait ≠ .record
        let left := s.pushes ≠ [] ∨ s.kills ≠ [] ∨ dying
        (left → step s = .next r.endIssue) ∧
        (¬ left →
          (s.fenceReq ≠ [] → step s = exec .rectFence { r with cur := {} }) ∧
          (s.fenceReq = [] → s.phase = 2 → step s = .next r.tick) ∧
          (s.fenceReq = [] → s.phase ≠ 2 →
            (∀ c i t, r.arrivals = (c, i) :: t → step s = exec i { r with cur := c }) ∧
            (r.arrivals = [] → ∀ c i t, s.inputs = (c, i) :: t → step s = exec i { r with inputs := t, cur := c }) ∧
            (r.arrivals = [] → s.inputs = [] →
              let u : State := { r with freeCtr := r.freeCtr + 1 }
              (r.optional = [] → r.runnable = [] → step s = .next r.endClock) ∧
              (r.optional ≠ [] ∨ r.runnable ≠ [] →
                step s = .next u.endClock ∨ (∃ c i, (c, i) ∈ r.optional ∧ step s = exec i { u with cur := c }) ∨
                ∃ c h, (c, h) ∈ r.runnable ∧
                  let t : State := { u with turn := .firings, cur := { core := c.core, hart := h } }
                  step s = exec (decodeHelper (t.helperWord c.core h)) t))))))) ∧
  (let t : State := { s with phase := 2 }
   let open_ := s.phase < 2 ∧ ∃ c x, (c, x) ∈ s.cores ∧ t.pick c ≠ none
   (open_ → s.endClock = t) ∧ (¬ open_ → s.endClock = s.tick)) ∧
  s.tick.clk = s.clk + 1 ∧ s.tick.phase = 0 ∧
  (∀ c i, (c, i) ∈ s.arrivals ↔ i = .xbarStartAction ∧ ∃ d x j, (d, x) ∈ s.cores ∧ 4 ≤ j ∧ j < 16 ∧ c = { core := d, n := j } ∧ x.xbar.pending.getLsbD j = true ∧
    (s.startAction d j).isSome = true)

/-- The checks that precede an instruction's own, in their order (R15, R21, R24, R25, R29, R30, R209, R276, R443, R445): a link that may not be named, privilege, the
waits of the scoreboard and the multipliers, an early read of a guard, failed parity and poison in a guard, the signature, the guard itself,
whose failure only lets the instruction pass, an early read of a source, failed parity and poison in a source, the wait for links and, where the
instruction orders the firing's earlier loads, for those that wait at their home (R121, R328, R405), and poison in a word that it pops.
Where the rules leave a point open, what it says is the model's choice (log entries 34, 36, 37, 121, 127 and 132). -/
def Obligations.IssueChecks : Prop := ∀ (i : Instr) (op : Nat) (w : Tolog) (s : State),
  i.tolog = some (op, w) → (s.firing s.cur.core s.cur.slot).isSome = true → (formOf op w).isSome = true →
  let f := firing s
  let m := form op w
  let c := s.cur.core
  let k := s.cur.slot
  let link := ∃ d ∈ pops op w ++ pushes op w, f.gang ≠ 1 ∨ (settled s).linkOk c (task s) d = false
  let user := privOp op = true ∧ f.priv = false
  let busy := f.boarded (w.guards ++ m.regs w fun _ => true) = true ∨ (usesMul op = true ∧ s.clk < ((settled s).core c).mulFree)
  let poisoned (t : State) : Prop := ∃ v, let u : State := { t with freeCtr := t.freeCtr + 1 }
    exec i s = .next { u.raiseAfter c k 0x16 v 0 with fenceReq := s.fenceReq }
  let consumes (t : State) : Prop := ∃ v, let u : State := { t with freeCtr := t.freeCtr + 1 }
    exec i s = .next (u.raiseAfter c k 0x16 v 0)
  let atScope := (0x45 ≤ op ∧ op ≤ 0x48 ∨ op = 0xB1) ∧ w.mod.toNat / 16 % 8 ≠ 0
  let orders := (op = 0x2C ∧ w.mod.getLsbD 0 = true) ∨ op = 0x49 ∨ atScope ∨ (0x34 ≤ op ∧ op ≤ 0x36) ∨ op = 0xD2 ∨ op = 0xE0 ∨ op = 0xE9
  let follows := orders ∧ ∃ x ∈ ((settled s).core c).loads, x.k = k
  (link → Stops i s 0x05 (w.bits op)) ∧
  (¬ link → user → Stops i s 0x07 (w.bits op)) ∧
  (¬ link → ¬ user → busy → exec i s = .next ((settled s).retry c k)) ∧
  (¬ link → ¬ user → ¬ busy →
    (∀ v, earlyRead s w.guards v → Stops i s 0x06 v) ∧
    ((¬ ∃ v, earlyRead s w.guards v) →
      ((∃ r ∈ w.guards, r ∈ f.parity) → consumes (settled s)) ∧
      ((¬ ∃ r ∈ w.guards, r ∈ f.parity) → (∃ r ∈ w.guards, r ∈ f.poison) → poisoned (settled s)) ∧
      ((¬ ∃ r ∈ w.guards, r ∈ f.parity) → (¬ ∃ r ∈ w.guards, r ∈ f.poison) →
        let wrong := sigPoint op = true ∧ (settled s).sigBad c (counted op w s) = true
        let reads := m.regs w Role.reads
        (wrong → Stops i s 0x20 (BitVec.ofNat 64 f.sigBlock)) ∧
        (¬ wrong → w.pass f = false → exec i s = .next (State.complete { op, w, f := counted op w s, c, k } { s := start s } .none)) ∧
        (¬ wrong → w.pass f = true →
          (∀ v, earlyRead s reads v → Stops i s 0x06 v) ∧
          ((¬ ∃ v, earlyRead s reads v) →
            ((∃ r ∈ reads, r ∈ f.parity) → consumes (settled s)) ∧
            ((¬ ∃ r ∈ reads, r ∈ f.parity) →
              ((∃ r ∈ reads, r ∈ f.poison) → poisoned (start s)) ∧
              ((¬ ∃ r ∈ reads, r ∈ f.poison) →
                (follows ∨ (settled s).linksReady c (pops op w) (pushes op w) = false → exec i s = .next ((settled s).retry c k)) ∧
                (¬ follows → (settled s).linksReady c (pops op w) (pushes op w) = true → (∃ d ∈ pops op w, ((settled s).core c).headBad d = true) →
                  ((∃ r ∈ f.flight, r.await = true) → exec i s = .next ((settled s).retry c k)) ∧
                  ((∀ r ∈ f.flight, r.await = false) → consumes ((settled s).popAll c (pops op w)))))))))))

/-- Taking a trap (R27, R100, R102, R103): it waits for results still to come; a handler that may take the cause goes on at `ADDR` × 4 with the trap
registers written, `EN` cleared, every earlier result delivered and all its other state, and no other slot of its core issues in the clock (R90); else the firing ends as faulted: its actor is
faulted, its record is in the event queue, and its task is marked with the cause. -/
def Obligations.TrapEntry : Prop := ∀ (s : State) (c k cause : Nat) (val : Word) (f0 : Firing), s.firing c k = some f0 →
  let takes := f0.trapVec.getLsbD 0 = true ∧ cause ≠ 0x16 ∧ cause ≠ 0x20 ∧ cause ≠ 0x30
  let addr := part f0.trapVec 17 2 * 4
  ((∃ r ∈ f0.flight, r.await = true) → s.raiseAfter c k cause val 0 = s.retry c k) ∧
  ((∀ r ∈ f0.flight, r.await = false) →
    (takes → Legal (BitVec.ofNat 64 addr) →
      let s1 := if cause = 0x22 then s.countSuspect c else s
      let t := (s1.setFiring c k (f0.drain s.clk)).disband c k
      ∃ f g, t.firing c k = some f ∧ s.raiseAfter c k cause val 0 = (t.setFiring c k g).spentBy c k ∧
        (f0.span = 1 → f = f0.drain s.clk) ∧ f.flight = [] ∧ f.pc = f0.pc ∧
        (let h : Firing := { f with trapCause := BitVec.ofNat 64 cause, trapPc := BitVec.ofNat 64 (f0.pc % 2 ^ 18), trapVal := val, trapVec := g.trapVec }
         g = { h with ready := none, pc := addr, wait := .none, sigCf := 0xFFFF, sigDd := 0xFFFF, sigBlock := addr, nextIssue := g.nextIssue }) ∧
        g.trapVec.getLsbD 0 = false ∧ (∀ j, 0 < j → j < 64 → g.trapVec.getLsbD j = f0.trapVec.getLsbD j)) ∧
    (¬ takes → ∀ a r t, s.actor c f0.actor = some a → s.resident c f0.rti = some r → s.task r.task = some t →
      let u := s.raiseAfter c k cause val 0
      let rec_ : EvRecord := { w0 := BitVec.ofNat 64 (2 ^ 57 + cause % 256 * 2 ^ 48 + k % 8 * 2 ^ 40 + a.idx % 64 * 2 ^ 32 + r.task % 2 ^ 32),
                               w1 := BitVec.ofNat 64 (f0.pc % 2 ^ 18), w2 := val, w3 := BitVec.ofNat 64 f0.seqNo }
      (∃ b, u.actor c f0.actor = some b ∧ b.faulted = true ∧ b.busy = false ∧ b.seqNo = a.seqNo) ∧
      (rec_ ∈ (u.core c).evq ∨ rec_ ∈ (u.core c).evHeld) ∧
      (u.firing c k = none ∨ ∃ g, u.firing c k = some g ∧ g.wait = .record) ∧
      ∃ t', u.task r.task = some t' ∧ t'.faulted = true ∧
        (t.faulted = false → t'.cause = cause ∧ t'.fcore = c ∧ t'.fslot = k ∧ t'.fpc = f0.pc % 2 ^ 18 ∧ t'.fval = val)))

/-- What instructions leave as it was (R20, R24, R26, R29). An instruction of the scalar ALU, `FENCE`, `CLOCK`, `GETID`, and the vector and bit-address instructions that
touch no memory complete with nothing changed but results in flight to their own destination registers, their place in the program and their issue
record, the links they name, and for the floating ones the flags and the lane generators. Delivering results changes no register
that none of them names. `ST` and `STP` write no byte of memory outside the places of their access; where the L1 takes the store, none outside the homes
of the lines it held, one of which it may write back; a write to a watched wake line also frees its slot of the watch table (R399). -/
def Obligations.Frames : Prop :=
  (∀ (i : Instr) (op : Nat) (w : Tolog) (s : State), i.tolog = some (op, w) → Issues op w s → ¬ addsFirst (ctx op w s) (start s) →
    (op ≤ 0x1E ∨ 0x2C ≤ op ∧ op ≤ 0x2E ∨ 0x60 ≤ op ∧ op ≤ 0x92 ∨ 0x94 ≤ op ∧ op ≤ 0x99 ∨ 0xAA ≤ op ∧ op ≤ 0xB0 ∨ op = 0xB2 ∨ op = 0xB3) →
    let links := !(pops op w ++ pushes op w).isEmpty
    let c := s.cur.core
    let k := s.cur.slot
    ∃ (t : State) (g : Firing) (rs : List Result), exec i s = .next t ∧ t.mem = s.mem ∧ t.keyTags = s.keyTags ∧ t.bad = s.bad ∧ t.lowErr = s.lowErr ∧ t.pkg = s.pkg ∧
      t.dies = s.dies ∧ t.clusters = s.clusters ∧ t.clk = s.clk ∧ t.inputs = s.inputs ∧ t.fenceReq = s.fenceReq ∧ t.freeCtr = s.freeCtr ∧
      t.hdrErr = s.hdrErr ∧ t.clean = s.clean ∧ t.phase = s.phase ∧ t.pushes = s.pushes ∧ t.kills = s.kills ∧
      (∀ c', KeepsCore links (s.core c') (t.core c')) ∧ (links = false → ∀ c', c' ≠ c → t.core c' = s.core c') ∧
      (∀ j, j ≠ k → ∀ o, s.firing c j = some o → ∃ wt rd ni, t.firing c j = some { o with wait := wt, ready := rd, nextIssue := ni } ∧
        ((∀ ks all u, o.wait ≠ .yield ks all u) → wt = o.wait ∧ rd = o.ready ∧ ni = o.nextIssue)) ∧
      t.firing c k = some g ∧ (∃ gens, KeepsFiring { firing s with gens := gens } rs g ∧ (op < 0x80 ∨ 0x9A ≤ op → gens = (firing s).gens)) ∧
      ∀ r ∈ rs, (op < 0x80 ∨ 0x9A ≤ op → r.flags = 0) ∧ ∀ y ∈ r.writes, y.reg ∈ (form op w).regs w Role.writes) ∧
  (∀ (f : Firing) (clk : Nat),
    let named (r : Nat × Nat) : Prop := ∃ q ∈ f.flight, (∃ d, q.due = some d ∧ d ≤ clk) ∧ ∃ y ∈ q.writes, y.reg = r
    let h := f.settle clk
    (∀ r : Fin 64, ¬ named (0, r) → h.g[r] = f.g[r]) ∧ (∀ r : Fin 32, ¬ named (1, r) → h.v[r] = f.v[r]) ∧ (∀ r : Fin 8, ¬ named (2, r) → h.p[r] = f.p[r]) ∧
    (∀ r : Fin 8, ¬ named (3, r) → h.k[r] = f.k[r]) ∧ (∀ r : Fin 8, ¬ named (4, r) → h.ba[r] = f.ba[r])) ∧
  (∀ (w : Tolog) (s : State) (i : Instr) (op n : Nat), (i, op, n) ∈ [(Instr.st w, 0x41, bytesOf w), (.stp w, 0x43, 16)] → Issues op w s → Fresh s →
    ∀ s1 a, access (ctx op w s) (start s) n .store [1, 2, 3, 4, 5] false = .ok (s1, a) →
      (a.space ≠ 5 → s1.mem = s.mem) ∧
      ∃ t g, exec i s = .next t ∧ t.firing s.cur.core s.cur.slot = some g ∧ KeepsFiring (firing s) [] g ∧
        ∀ q, (∀ p m, (some p, m) ∈ a.segs → ¬ (p ≤ q ∧ q < p + m)) →
          (a.cached = true → ∀ l ∈ (s1.core a.core).l1, ¬ (l.home ≤ q ∧ q < l.home + 64)) →
          (∀ x ∈ s1.pkg.watches, ¬ (s1.pkg.watchAt x.1 ≤ q ∧ q < s1.pkg.watchAt x.1 + 16)) → memGet t.mem q = memGet s1.mem q)
end

