-- ==== Sys2Proof/Laws/Issue.lean ====
section
/-! SUPPORT. What issuing an instruction can do: one equation for each answer of its body. -/

namespace Sys2Proof.Laws

open Sys2Proof.Machine Sys2Proof.Claims

/-- Where an instruction issues and passes its checks, it runs its body. -/
theorem issueAt_issues {op : Nat} {w : Tolog} {s : State} (h : Issues op w s) (body : Ctx → State → Body) :
    issueAt op w s body = runBody { ctx op w s with links := [] } (start s) (pops op w) body := by
  obtain ⟨hf, _, hm, h1, h2, h3, h4, h5, h6, h7, h8, h9, h10, h11, h12, h13, h14⟩ := h
  obtain ⟨f0, hf0⟩ := Option.isSome_iff_exists.mp hf
  obtain ⟨m, hm0⟩ := Option.isSome_iff_exists.mp hm
  have e1 : firing s = f0.settle s.clk := by simp [firing, hf0]
  have e2 : form op w = m := by simp [form, hm0]
  simp only [pops, pushes, task, settled, counted, e1, e2] at h1 h2 h3 h4 h5 h6 h7 h8 h9 h10 h11 h12 h13 h14
  have hc : (s.setFiring s.cur.core s.cur.slot (f0.settle s.clk)).clk = s.clk := rfl
  unfold issueAt
  simp only [hf0, hm0, hc, State.badLink, h1, h2, h3, h4, h5, h6, h7, h8, h9, h10, h11, h12, h13, h14, Bool.false_eq_true, if_false, Bool.not_true,
    Bool.or_false]
  simp only [ctx, start, settled, counted, pops, e1, e2]

/-- The same with the words popped from links in the context that the body sees. -/
theorem issue_issues {op : Nat} {w : Tolog} {s : State} (h : Issues op w s) (body : Ctx → State → Body) :
    issue op w s body = .next (match body (ctx op w s) (start s) with
      | .ok e => after (ctx op w s) e
      | .block e q => State.complete (ctx op w s) { e with s := e.s.popAll s.cur.core (pops op w) } q
      | .trap cause v m => (start s).raiseAfter s.cur.core s.cur.slot cause v m
      | .wait t => t.retry s.cur.core s.cur.slot
      | .held t issued => t.holdAccess { ctx op w s with links := [] } (pops op w) issued
      | .gone t => t
      | .nack die t => t.nacked { ctx op w s with links := [] } die
      | .lost t => t.unanswered { ctx op w s with links := [] }) := by
  rw [issue, issueAt_issues h]; rfl

theorem issue_ok {op : Nat} {w : Tolog} {s : State} {body : Ctx → State → Body} {e : Eff} (h : Issues op w s)
    (hb : body (ctx op w s) (start s) = .ok e) : issue op w s body = .next (after (ctx op w s) e) := by
  rw [issue_issues h, hb]

theorem issue_trap {op : Nat} {w : Tolog} {s : State} {body : Ctx → State → Body} {cause m : Nat} {v : Word} (h : Issues op w s)
    (hb : body (ctx op w s) (start s) = .trap cause v m) :
    issue op w s body = .next ((start s).raiseAfter s.cur.core s.cur.slot cause v m) := by
  rw [issue_issues h, hb]

theorem issue_block {op : Nat} {w : Tolog} {s : State} {body : Ctx → State → Body} {e : Eff} {q : Wait} (h : Issues op w s)
    (hb : body (ctx op w s) (start s) = .block e q) :
    issue op w s body = .next (State.complete (ctx op w s) { e with s := e.s.popAll s.cur.core (pops op w) } q) := by
  rw [issue_issues h, hb]

theorem issue_wait {op : Nat} {w : Tolog} {s t : State} {body : Ctx → State → Body} (h : Issues op w s)
    (hb : body (ctx op w s) (start s) = .wait t) : issue op w s body = .next (t.retry s.cur.core s.cur.slot) := by
  rw [issue_issues h, hb]

theorem issue_gone {op : Nat} {w : Tolog} {s t : State} {body : Ctx → State → Body} (h : Issues op w s)
    (hb : body (ctx op w s) (start s) = .gone t) : issue op w s body = .next t := by
  rw [issue_issues h, hb]

end Sys2Proof.Laws
end

