-- ==== Sys2Proof/Laws/Maps.lean ====
section
/-! SUPPORT. Sparse maps and memory: a read after a write, what a write leaves alone, and that every memory operation keeps the
canonical form. -/

namespace Sys2Proof.Machine

variable {α : Type}

/-! ### Reads after writes -/

@[simp] theorem mget_mset_same (m : SMap α) (k : Nat) (x : α) : mget (mset m k x) k = some x := by
  induction m with
  | nil => simp [mset, mget]
  | cons c t ih =>
    obtain ⟨j, y⟩ := c
    simp only [mset]
    split
    · simp [mget]
    · split <;> simp_all [mget]

theorem mget_mset_other (m : SMap α) {k j : Nat} (x : α) (h : j ≠ k) : mget (mset m k x) j = mget m j := by
  induction m with
  | nil => simp [mset, mget, Ne.symm h]
  | cons c t ih =>
    obtain ⟨i, y⟩ := c
    simp only [mset]
    split
    · simp [mget, Ne.symm h]
    · split
      · subst i; simp [mget, Ne.symm h]
      · simp [mget, ih]

theorem mset_mset (m : SMap α) (k : Nat) (x y : α) : mset (mset m k x) k y = mset m k y := by
  induction m with
  | nil => simp [mset]
  | cons c t ih =>
    obtain ⟨j, z⟩ := c
    simp only [mset]
    split
    · simp [mset]
    · split
      · simp [mset]
      · rename_i h1 h2; simp [mset, h1, h2, ih]

/-! ### Rising addresses -/

theorem mrising_cons (c : Nat × α) (t : SMap α) :
    mrising (c :: t) = true ↔ (∀ d ∈ t, c.1 < d.1) ∧ mrising t = true := by
  obtain ⟨j, x⟩ := c
  simp [mrising, List.all_eq_true]

theorem mem_mset {m : SMap α} {k : Nat} {x : α} {c : Nat × α} (h : c ∈ mset m k x) : c = (k, x) ∨ c ∈ m := by
  induction m with
  | nil => simpa [mset] using h
  | cons d t ih =>
    obtain ⟨j, y⟩ := d
    simp only [mset] at h
    split at h
    · simpa using h
    · split at h
      · rcases List.mem_cons.mp h with h | h
        · exact .inl h
        · exact .inr (List.mem_cons_of_mem _ h)
      · rcases List.mem_cons.mp h with h | h
        · exact .inr (h ▸ List.mem_cons_self)
        · exact (ih h).imp id (List.mem_cons_of_mem _)

theorem mem_mdel {m : SMap α} {k : Nat} {c : Nat × α} (h : c ∈ mdel m k) : c ∈ m := by
  induction m with
  | nil => simp [mdel] at h
  | cons d t ih =>
    obtain ⟨j, y⟩ := d
    simp only [mdel] at h
    split at h
    · exact List.mem_cons_of_mem _ h
    · split at h
      · exact h
      · rcases List.mem_cons.mp h with h | h
        · exact h ▸ List.mem_cons_self
        · exact List.mem_cons_of_mem _ (ih h)

theorem mrising_mset {m : SMap α} (h : mrising m = true) (k : Nat) (x : α) : mrising (mset m k x) = true := by
  induction m with
  | nil => rfl
  | cons c t ih =>
    have hc := (mrising_cons c t).mp h
    obtain ⟨j, y⟩ := c
    simp only [mset]
    split
    · rename_i hk
      refine (mrising_cons _ _).mpr ⟨fun d hd => ?_, h⟩
      rcases List.mem_cons.mp hd with rfl | hd
      · exact hk
      · exact Nat.lt_trans hk (hc.1 d hd)
    · split
      · rename_i hk
        subst hk
        exact (mrising_cons _ _).mpr hc
      · rename_i h1 h2
        refine (mrising_cons _ _).mpr ⟨fun d hd => ?_, ih hc.2⟩
        rcases mem_mset hd with rfl | hd
        · show j < k; omega
        · exact hc.1 d hd

theorem mrising_mdel {m : SMap α} (h : mrising m = true) (k : Nat) : mrising (mdel m k) = true := by
  induction m with
  | nil => rfl
  | cons c t ih =>
    have hc := (mrising_cons c t).mp h
    obtain ⟨j, y⟩ := c
    simp only [mdel]
    split
    · exact hc.2
    · split
      · exact h
      · exact (mrising_cons _ _).mpr ⟨fun d hd => hc.1 d (mem_mdel hd), ih hc.2⟩

theorem mrising_filter {m : SMap α} (h : mrising m = true) (p : Nat × α → Bool) : mrising (m.filter p) = true := by
  induction m with
  | nil => rfl
  | cons c t ih =>
    have hc := (mrising_cons c t).mp h
    by_cases hp : p c = true
    · simp only [List.filter_cons_of_pos hp]
      exact (mrising_cons _ _).mpr ⟨fun d hd => hc.1 d ((List.mem_filter.mp hd).1), ih hc.2⟩
    · simp only [List.filter_cons_of_neg hp]
      exact ih hc.2

/-- What is above the first number of a rising map is not in it. -/
theorem mget_none_of_lt {t : SMap α} {k : Nat} (h : ∀ d ∈ t, k < d.1) : mget t k = none := by
  induction t with
  | nil => rfl
  | cons d t ih =>
    have := h d List.mem_cons_self
    simp only [mget]
    rw [if_neg (by omega)]
    exact ih fun e he => h e (List.mem_cons_of_mem _ he)

theorem mget_mdel_same {m : SMap α} (h : mrising m = true) (k : Nat) : mget (mdel m k) k = none := by
  induction m with
  | nil => rfl
  | cons c t ih =>
    have hc := (mrising_cons c t).mp h
    obtain ⟨j, y⟩ := c
    simp only [mdel]
    split
    · rename_i hk; subst hk; exact mget_none_of_lt hc.1
    · split
      · rename_i h1 h2
        apply mget_none_of_lt
        intro d hd
        rcases List.mem_cons.mp hd with rfl | hd
        · exact h2
        · exact Nat.lt_trans h2 (hc.1 d hd)
      · rename_i h1 h2
        simp only [mget]
        rw [if_neg h1]
        exact ih hc.2

theorem mget_mdel_other (m : SMap α) {k j : Nat} (h : j ≠ k) : mget (mdel m k) j = mget m j := by
  induction m with
  | nil => rfl
  | cons c t ih =>
    obtain ⟨i, y⟩ := c
    simp only [mdel]
    split
    · rename_i hk; subst hk; simp [mget, Ne.symm h]
    · split
      · rfl
      · simp [mget, ih]

/-! ### Memory -/

theorem Memory.wf_iff (m : Memory) : Memory.wf m = true ↔ mrising m = true ∧ ∀ c ∈ m, c.2 ≠ 0 := by
  simp [Memory.wf, List.all_eq_true]

theorem wf_nil : Memory.wf [] = true := rfl

theorem wf_memSet {m : Memory} (h : Memory.wf m = true) (a : Nat) (x : Byte) : Memory.wf (memSet m a x) = true := by
  obtain ⟨h1, h2⟩ := (Memory.wf_iff m).mp h
  refine (Memory.wf_iff _).mpr ?_
  simp only [memSet]
  split
  · exact ⟨mrising_mdel h1 a, fun c hc => h2 c (mem_mdel hc)⟩
  · rename_i hx
    refine ⟨mrising_mset h1 a x, fun c hc => ?_⟩
    rcases mem_mset hc with rfl | hc
    · exact hx
    · exact h2 c hc

theorem wf_memWrite {m : Memory} (h : Memory.wf m = true) (a : Nat) (xs : List Byte) : Memory.wf (memWrite m a xs) = true := by
  induction xs generalizing m a with
  | nil => exact h
  | cons x t ih => exact ih (wf_memSet h a x) (a + 1)

theorem wf_filter {m : Memory} (h : Memory.wf m = true) (p : Host.Cell → Bool) : Memory.wf (m.filter p) = true := by
  obtain ⟨h1, h2⟩ := (Memory.wf_iff m).mp h
  exact (Memory.wf_iff _).mpr ⟨mrising_filter h1 p, fun c hc => h2 c ((List.mem_filter.mp hc).1)⟩

theorem wf_memZero {m : Memory} (h : Memory.wf m = true) (a n : Nat) : Memory.wf (memZero m a n) = true := wf_filter h _

theorem wf_memPaste {m : Memory} (h : Memory.wf m = true) (a : Nat) (cs : List Host.Cell) : Memory.wf (memPaste m a cs) = true := by
  induction cs generalizing m with
  | nil => exact h
  | cons c t ih => exact ih (wf_memSet h (a + c.1) c.2)

theorem wf_foldl {β : Type} {m : Memory} {f : Memory → β → Memory} (h : Memory.wf m = true)
    (hf : ∀ m b, Memory.wf m = true → Memory.wf (f m b) = true) (bs : List β) : Memory.wf (bs.foldl f m) = true := by
  induction bs generalizing m with
  | nil => exact h
  | cons b t ih => exact ih (hf m b h)

theorem memGet_memSet_same {m : Memory} (h : Memory.wf m = true) (a : Nat) (x : Byte) : memGet (memSet m a x) a = x := by
  obtain ⟨h1, _⟩ := (Memory.wf_iff m).mp h
  simp only [memGet, memSet, mgetD]
  split
  · rename_i hx; rw [mget_mdel_same h1]; simp [hx]
  · simp

theorem memGet_memSet_other (m : Memory) {a b : Nat} (x : Byte) (h : b ≠ a) : memGet (memSet m a x) b = memGet m b := by
  simp only [memGet, memSet, mgetD]
  split
  · rw [mget_mdel_other m h]
  · rw [mget_mset_other m x h]

/-- A write leaves every other byte alone. -/
theorem memGet_memWrite_other {m : Memory} {a b : Nat} {xs : List Byte} (h : b < a ∨ a + xs.length ≤ b) :
    memGet (memWrite m a xs) b = memGet m b := by
  induction xs generalizing m a with
  | nil => rfl
  | cons x t ih =>
    simp only [List.length_cons] at h
    rw [memWrite, ih (by omega), memGet_memSet_other m x (by omega)]

/-- A read after a write gives the bytes written. -/
theorem memGet_memWrite {m : Memory} (h : Memory.wf m = true) (a i : Nat) (xs : List Byte) (hi : i < xs.length) :
    memGet (memWrite m a xs) (a + i) = xs[i] := by
  induction xs generalizing m a i with
  | nil => simp at hi
  | cons x t ih =>
    cases i with
    | zero =>
      rw [memWrite, memGet_memWrite_other (by omega)]
      simpa using memGet_memSet_same h a x
    | succ i =>
      have := ih (wf_memSet h a x) (a + 1) i (by simpa using hi)
      simpa [memWrite, Nat.add_assoc, Nat.add_comm 1 i] using this

theorem memRead_memWrite {m : Memory} (h : Memory.wf m = true) (a : Nat) (xs : List Byte) :
    memRead (memWrite m a xs) a xs.length = xs := by
  induction xs generalizing m a with
  | nil => rfl
  | cons x t ih =>
    simp only [memWrite, List.length_cons, memRead]
    rw [ih (wf_memSet h a x) (a + 1), memGet_memWrite_other (by omega), memGet_memSet_same h]

theorem memGet_memZero {m : Memory} (a n b : Nat) :
    memGet (memZero m a n) b = if a ≤ b ∧ b < a + n then 0 else memGet m b := by
  simp only [memGet, memZero, mclear, mgetD]
  induction m with
  | nil => simp [mget]
  | cons c t ih =>
    obtain ⟨j, y⟩ := c
    simp only [List.filter_cons]
    by_cases hj : a ≤ j ∧ j < a + n
    · simp only [hj.1, hj.2, decide_true, Bool.and_true, Bool.not_true, Bool.false_eq_true, if_false, ih, mget]
      by_cases hb : j = b
      · subst hb; simp [hj]
      · simp [hb]
    · have : (!(decide (a ≤ j) && decide (j < a + n))) = true := by
        simp only [Bool.not_eq_true', Bool.and_eq_false_iff, decide_eq_false_iff_not]; omega
      simp only [this, if_true, mget]
      by_cases hb : j = b
      · subst hb; simp [hj]
      · simp only [hb, if_false]; exact ih

end Sys2Proof.Machine
end

