-- ==== Sys2Proof/Laws/State.lean ====
section
/-! SUPPORT. What each update of the state leaves alone, field by field, and a part read after it was put. -/

namespace Sys2Proof.Machine

/-! `setCore` -/

@[simp] theorem State.setCore_clk (s : State) (c : Nat) (x : Core) : (s.setCore c x).clk = s.clk := rfl
@[simp] theorem State.setCore_mem (s : State) (c : Nat) (x : Core) : (s.setCore c x).mem = s.mem := rfl
@[simp] theorem State.setCore_keyTags (s : State) (c : Nat) (x : Core) : (s.setCore c x).keyTags = s.keyTags := rfl
@[simp] theorem State.setCore_bad (s : State) (c : Nat) (x : Core) : (s.setCore c x).bad = s.bad := rfl
@[simp] theorem State.setCore_lowErr (s : State) (c : Nat) (x : Core) : (s.setCore c x).lowErr = s.lowErr := rfl
@[simp] theorem State.setCore_hdrErr (s : State) (c : Nat) (x : Core) : (s.setCore c x).hdrErr = s.hdrErr := rfl
@[simp] theorem State.setCore_clean (s : State) (c : Nat) (x : Core) : (s.setCore c x).clean = s.clean := rfl
@[simp] theorem State.setCore_clusters (s : State) (c : Nat) (x : Core) : (s.setCore c x).clusters = s.clusters := rfl
@[simp] theorem State.setCore_dies (s : State) (c : Nat) (x : Core) : (s.setCore c x).dies = s.dies := rfl
@[simp] theorem State.setCore_pkg (s : State) (c : Nat) (x : Core) : (s.setCore c x).pkg = s.pkg := rfl
@[simp] theorem State.setCore_cur (s : State) (c : Nat) (x : Core) : (s.setCore c x).cur = s.cur := rfl
@[simp] theorem State.setCore_turn (s : State) (c : Nat) (x : Core) : (s.setCore c x).turn = s.turn := rfl
@[simp] theorem State.setCore_inputs (s : State) (c : Nat) (x : Core) : (s.setCore c x).inputs = s.inputs := rfl
@[simp] theorem State.setCore_fenceReq (s : State) (c : Nat) (x : Core) : (s.setCore c x).fenceReq = s.fenceReq := rfl
@[simp] theorem State.setCore_phase (s : State) (c : Nat) (x : Core) : (s.setCore c x).phase = s.phase := rfl
@[simp] theorem State.setCore_pushes (s : State) (c : Nat) (x : Core) : (s.setCore c x).pushes = s.pushes := rfl
@[simp] theorem State.setCore_kills (s : State) (c : Nat) (x : Core) : (s.setCore c x).kills = s.kills := rfl
@[simp] theorem State.setCore_freeCtr (s : State) (c : Nat) (x : Core) : (s.setCore c x).freeCtr = s.freeCtr := rfl

/-! `setFiring` -/

@[simp] theorem State.setFiring_clk (s : State) (c k : Nat) (f : Firing) : (s.setFiring c k f).clk = s.clk := rfl
@[simp] theorem State.setFiring_mem (s : State) (c k : Nat) (f : Firing) : (s.setFiring c k f).mem = s.mem := rfl
@[simp] theorem State.setFiring_keyTags (s : State) (c k : Nat) (f : Firing) : (s.setFiring c k f).keyTags = s.keyTags := rfl
@[simp] theorem State.setFiring_bad (s : State) (c k : Nat) (f : Firing) : (s.setFiring c k f).bad = s.bad := rfl
@[simp] theorem State.setFiring_lowErr (s : State) (c k : Nat) (f : Firing) : (s.setFiring c k f).lowErr = s.lowErr := rfl
@[simp] theorem State.setFiring_hdrErr (s : State) (c k : Nat) (f : Firing) : (s.setFiring c k f).hdrErr = s.hdrErr := rfl
@[simp] theorem State.setFiring_clean (s : State) (c k : Nat) (f : Firing) : (s.setFiring c k f).clean = s.clean := rfl
@[simp] theorem State.setFiring_clusters (s : State) (c k : Nat) (f : Firing) : (s.setFiring c k f).clusters = s.clusters := rfl
@[simp] theorem State.setFiring_dies (s : State) (c k : Nat) (f : Firing) : (s.setFiring c k f).dies = s.dies := rfl
@[simp] theorem State.setFiring_pkg (s : State) (c k : Nat) (f : Firing) : (s.setFiring c k f).pkg = s.pkg := rfl
@[simp] theorem State.setFiring_cur (s : State) (c k : Nat) (f : Firing) : (s.setFiring c k f).cur = s.cur := rfl
@[simp] theorem State.setFiring_turn (s : State) (c k : Nat) (f : Firing) : (s.setFiring c k f).turn = s.turn := rfl
@[simp] theorem State.setFiring_inputs (s : State) (c k : Nat) (f : Firing) : (s.setFiring c k f).inputs = s.inputs := rfl
@[simp] theorem State.setFiring_fenceReq (s : State) (c k : Nat) (f : Firing) : (s.setFiring c k f).fenceReq = s.fenceReq := rfl
@[simp] theorem State.setFiring_phase (s : State) (c k : Nat) (f : Firing) : (s.setFiring c k f).phase = s.phase := rfl
@[simp] theorem State.setFiring_pushes (s : State) (c k : Nat) (f : Firing) : (s.setFiring c k f).pushes = s.pushes := rfl
@[simp] theorem State.setFiring_kills (s : State) (c k : Nat) (f : Firing) : (s.setFiring c k f).kills = s.kills := rfl
@[simp] theorem State.setFiring_freeCtr (s : State) (c k : Nat) (f : Firing) : (s.setFiring c k f).freeCtr = s.freeCtr := rfl

/-! `freeSlot` -/

@[simp] theorem State.freeSlot_clk (s : State) (c k : Nat) : (s.freeSlot c k).clk = s.clk := rfl
@[simp] theorem State.freeSlot_mem (s : State) (c k : Nat) : (s.freeSlot c k).mem = s.mem := rfl
@[simp] theorem State.freeSlot_keyTags (s : State) (c k : Nat) : (s.freeSlot c k).keyTags = s.keyTags := rfl
@[simp] theorem State.freeSlot_bad (s : State) (c k : Nat) : (s.freeSlot c k).bad = s.bad := rfl
@[simp] theorem State.freeSlot_lowErr (s : State) (c k : Nat) : (s.freeSlot c k).lowErr = s.lowErr := rfl
@[simp] theorem State.freeSlot_hdrErr (s : State) (c k : Nat) : (s.freeSlot c k).hdrErr = s.hdrErr := rfl
@[simp] theorem State.freeSlot_clean (s : State) (c k : Nat) : (s.freeSlot c k).clean = s.clean := rfl
@[simp] theorem State.freeSlot_clusters (s : State) (c k : Nat) : (s.freeSlot c k).clusters = s.clusters := rfl
@[simp] theorem State.freeSlot_dies (s : State) (c k : Nat) : (s.freeSlot c k).dies = s.dies := rfl
@[simp] theorem State.freeSlot_pkg (s : State) (c k : Nat) : (s.freeSlot c k).pkg = s.pkg := rfl
@[simp] theorem State.freeSlot_cur (s : State) (c k : Nat) : (s.freeSlot c k).cur = s.cur := rfl
@[simp] theorem State.freeSlot_turn (s : State) (c k : Nat) : (s.freeSlot c k).turn = s.turn := rfl
@[simp] theorem State.freeSlot_inputs (s : State) (c k : Nat) : (s.freeSlot c k).inputs = s.inputs := rfl
@[simp] theorem State.freeSlot_fenceReq (s : State) (c k : Nat) : (s.freeSlot c k).fenceReq = s.fenceReq := rfl
@[simp] theorem State.freeSlot_phase (s : State) (c k : Nat) : (s.freeSlot c k).phase = s.phase := rfl
@[simp] theorem State.freeSlot_pushes (s : State) (c k : Nat) : (s.freeSlot c k).pushes = s.pushes := rfl
@[simp] theorem State.freeSlot_kills (s : State) (c k : Nat) : (s.freeSlot c k).kills = s.kills := rfl
@[simp] theorem State.freeSlot_freeCtr (s : State) (c k : Nat) : (s.freeSlot c k).freeCtr = s.freeCtr := rfl

/-! `setResident` -/

@[simp] theorem State.setResident_clk (s : State) (c r : Nat) (x : Resident) : (s.setResident c r x).clk = s.clk := rfl
@[simp] theorem State.setResident_mem (s : State) (c r : Nat) (x : Resident) : (s.setResident c r x).mem = s.mem := rfl
@[simp] theorem State.setResident_keyTags (s : State) (c r : Nat) (x : Resident) : (s.setResident c r x).keyTags = s.keyTags := rfl
@[simp] theorem State.setResident_bad (s : State) (c r : Nat) (x : Resident) : (s.setResident c r x).bad = s.bad := rfl
@[simp] theorem State.setResident_lowErr (s : State) (c r : Nat) (x : Resident) : (s.setResident c r x).lowErr = s.lowErr := rfl
@[simp] theorem State.setResident_hdrErr (s : State) (c r : Nat) (x : Resident) : (s.setResident c r x).hdrErr = s.hdrErr := rfl
@[simp] theorem State.setResident_clean (s : State) (c r : Nat) (x : Resident) : (s.setResident c r x).clean = s.clean := rfl
@[simp] theorem State.setResident_clusters (s : State) (c r : Nat) (x : Resident) : (s.setResident c r x).clusters = s.clusters := rfl
@[simp] theorem State.setResident_dies (s : State) (c r : Nat) (x : Resident) : (s.setResident c r x).dies = s.dies := rfl
@[simp] theorem State.setResident_pkg (s : State) (c r : Nat) (x : Resident) : (s.setResident c r x).pkg = s.pkg := rfl
@[simp] theorem State.setResident_cur (s : State) (c r : Nat) (x : Resident) : (s.setResident c r x).cur = s.cur := rfl
@[simp] theorem State.setResident_turn (s : State) (c r : Nat) (x : Resident) : (s.setResident c r x).turn = s.turn := rfl
@[simp] theorem State.setResident_inputs (s : State) (c r : Nat) (x : Resident) : (s.setResident c r x).inputs = s.inputs := rfl
@[simp] theorem State.setResident_fenceReq (s : State) (c r : Nat) (x : Resident) : (s.setResident c r x).fenceReq = s.fenceReq := rfl
@[simp] theorem State.setResident_phase (s : State) (c r : Nat) (x : Resident) : (s.setResident c r x).phase = s.phase := rfl
@[simp] theorem State.setResident_pushes (s : State) (c r : Nat) (x : Resident) : (s.setResident c r x).pushes = s.pushes := rfl
@[simp] theorem State.setResident_kills (s : State) (c r : Nat) (x : Resident) : (s.setResident c r x).kills = s.kills := rfl
@[simp] theorem State.setResident_freeCtr (s : State) (c r : Nat) (x : Resident) : (s.setResident c r x).freeCtr = s.freeCtr := rfl

/-! `setActor` -/

@[simp] theorem State.setActor_clk (s : State) (c a : Nat) (x : Actor) : (s.setActor c a x).clk = s.clk := rfl
@[simp] theorem State.setActor_mem (s : State) (c a : Nat) (x : Actor) : (s.setActor c a x).mem = s.mem := rfl
@[simp] theorem State.setActor_keyTags (s : State) (c a : Nat) (x : Actor) : (s.setActor c a x).keyTags = s.keyTags := rfl
@[simp] theorem State.setActor_bad (s : State) (c a : Nat) (x : Actor) : (s.setActor c a x).bad = s.bad := rfl
@[simp] theorem State.setActor_lowErr (s : State) (c a : Nat) (x : Actor) : (s.setActor c a x).lowErr = s.lowErr := rfl
@[simp] theorem State.setActor_hdrErr (s : State) (c a : Nat) (x : Actor) : (s.setActor c a x).hdrErr = s.hdrErr := rfl
@[simp] theorem State.setActor_clean (s : State) (c a : Nat) (x : Actor) : (s.setActor c a x).clean = s.clean := rfl
@[simp] theorem State.setActor_clusters (s : State) (c a : Nat) (x : Actor) : (s.setActor c a x).clusters = s.clusters := rfl
@[simp] theorem State.setActor_dies (s : State) (c a : Nat) (x : Actor) : (s.setActor c a x).dies = s.dies := rfl
@[simp] theorem State.setActor_pkg (s : State) (c a : Nat) (x : Actor) : (s.setActor c a x).pkg = s.pkg := rfl
@[simp] theorem State.setActor_cur (s : State) (c a : Nat) (x : Actor) : (s.setActor c a x).cur = s.cur := rfl
@[simp] theorem State.setActor_turn (s : State) (c a : Nat) (x : Actor) : (s.setActor c a x).turn = s.turn := rfl
@[simp] theorem State.setActor_inputs (s : State) (c a : Nat) (x : Actor) : (s.setActor c a x).inputs = s.inputs := rfl
@[simp] theorem State.setActor_fenceReq (s : State) (c a : Nat) (x : Actor) : (s.setActor c a x).fenceReq = s.fenceReq := rfl
@[simp] theorem State.setActor_phase (s : State) (c a : Nat) (x : Actor) : (s.setActor c a x).phase = s.phase := rfl
@[simp] theorem State.setActor_pushes (s : State) (c a : Nat) (x : Actor) : (s.setActor c a x).pushes = s.pushes := rfl
@[simp] theorem State.setActor_kills (s : State) (c a : Nat) (x : Actor) : (s.setActor c a x).kills = s.kills := rfl
@[simp] theorem State.setActor_freeCtr (s : State) (c a : Nat) (x : Actor) : (s.setActor c a x).freeCtr = s.freeCtr := rfl

/-! `setDie` -/

@[simp] theorem State.setDie_clk (s : State) (d : Nat) (x : Die) : (s.setDie d x).clk = s.clk := rfl
@[simp] theorem State.setDie_mem (s : State) (d : Nat) (x : Die) : (s.setDie d x).mem = s.mem := rfl
@[simp] theorem State.setDie_keyTags (s : State) (d : Nat) (x : Die) : (s.setDie d x).keyTags = s.keyTags := rfl
@[simp] theorem State.setDie_bad (s : State) (d : Nat) (x : Die) : (s.setDie d x).bad = s.bad := rfl
@[simp] theorem State.setDie_lowErr (s : State) (d : Nat) (x : Die) : (s.setDie d x).lowErr = s.lowErr := rfl
@[simp] theorem State.setDie_hdrErr (s : State) (d : Nat) (x : Die) : (s.setDie d x).hdrErr = s.hdrErr := rfl
@[simp] theorem State.setDie_clean (s : State) (d : Nat) (x : Die) : (s.setDie d x).clean = s.clean := rfl
@[simp] theorem State.setDie_cores (s : State) (d : Nat) (x : Die) : (s.setDie d x).cores = s.cores := rfl
@[simp] theorem State.setDie_clusters (s : State) (d : Nat) (x : Die) : (s.setDie d x).clusters = s.clusters := rfl
@[simp] theorem State.setDie_pkg (s : State) (d : Nat) (x : Die) : (s.setDie d x).pkg = s.pkg := rfl
@[simp] theorem State.setDie_cur (s : State) (d : Nat) (x : Die) : (s.setDie d x).cur = s.cur := rfl
@[simp] theorem State.setDie_turn (s : State) (d : Nat) (x : Die) : (s.setDie d x).turn = s.turn := rfl
@[simp] theorem State.setDie_inputs (s : State) (d : Nat) (x : Die) : (s.setDie d x).inputs = s.inputs := rfl
@[simp] theorem State.setDie_fenceReq (s : State) (d : Nat) (x : Die) : (s.setDie d x).fenceReq = s.fenceReq := rfl
@[simp] theorem State.setDie_phase (s : State) (d : Nat) (x : Die) : (s.setDie d x).phase = s.phase := rfl
@[simp] theorem State.setDie_pushes (s : State) (d : Nat) (x : Die) : (s.setDie d x).pushes = s.pushes := rfl
@[simp] theorem State.setDie_kills (s : State) (d : Nat) (x : Die) : (s.setDie d x).kills = s.kills := rfl
@[simp] theorem State.setDie_freeCtr (s : State) (d : Nat) (x : Die) : (s.setDie d x).freeCtr = s.freeCtr := rfl

/-! `setTask` -/

@[simp] theorem State.setTask_clk (s : State) (i : Nat) (x : Task) : (s.setTask i x).clk = s.clk := rfl
@[simp] theorem State.setTask_mem (s : State) (i : Nat) (x : Task) : (s.setTask i x).mem = s.mem := rfl
@[simp] theorem State.setTask_keyTags (s : State) (i : Nat) (x : Task) : (s.setTask i x).keyTags = s.keyTags := rfl
@[simp] theorem State.setTask_bad (s : State) (i : Nat) (x : Task) : (s.setTask i x).bad = s.bad := rfl
@[simp] theorem State.setTask_lowErr (s : State) (i : Nat) (x : Task) : (s.setTask i x).lowErr = s.lowErr := rfl
@[simp] theorem State.setTask_hdrErr (s : State) (i : Nat) (x : Task) : (s.setTask i x).hdrErr = s.hdrErr := rfl
@[simp] theorem State.setTask_clean (s : State) (i : Nat) (x : Task) : (s.setTask i x).clean = s.clean := rfl
@[simp] theorem State.setTask_cores (s : State) (i : Nat) (x : Task) : (s.setTask i x).cores = s.cores := rfl
@[simp] theorem State.setTask_clusters (s : State) (i : Nat) (x : Task) : (s.setTask i x).clusters = s.clusters := rfl
@[simp] theorem State.setTask_pkg (s : State) (i : Nat) (x : Task) : (s.setTask i x).pkg = s.pkg := rfl
@[simp] theorem State.setTask_cur (s : State) (i : Nat) (x : Task) : (s.setTask i x).cur = s.cur := rfl
@[simp] theorem State.setTask_turn (s : State) (i : Nat) (x : Task) : (s.setTask i x).turn = s.turn := rfl
@[simp] theorem State.setTask_inputs (s : State) (i : Nat) (x : Task) : (s.setTask i x).inputs = s.inputs := rfl
@[simp] theorem State.setTask_fenceReq (s : State) (i : Nat) (x : Task) : (s.setTask i x).fenceReq = s.fenceReq := rfl
@[simp] theorem State.setTask_phase (s : State) (i : Nat) (x : Task) : (s.setTask i x).phase = s.phase := rfl
@[simp] theorem State.setTask_pushes (s : State) (i : Nat) (x : Task) : (s.setTask i x).pushes = s.pushes := rfl
@[simp] theorem State.setTask_kills (s : State) (i : Nat) (x : Task) : (s.setTask i x).kills = s.kills := rfl
@[simp] theorem State.setTask_freeCtr (s : State) (i : Nat) (x : Task) : (s.setTask i x).freeCtr = s.freeCtr := rfl

/-! `dropTask` -/

@[simp] theorem State.dropTask_clk (s : State) (i : Nat) : (s.dropTask i).clk = s.clk := rfl
@[simp] theorem State.dropTask_mem (s : State) (i : Nat) : (s.dropTask i).mem = s.mem := rfl
@[simp] theorem State.dropTask_keyTags (s : State) (i : Nat) : (s.dropTask i).keyTags = s.keyTags := rfl
@[simp] theorem State.dropTask_bad (s : State) (i : Nat) : (s.dropTask i).bad = s.bad := rfl
@[simp] theorem State.dropTask_lowErr (s : State) (i : Nat) : (s.dropTask i).lowErr = s.lowErr := rfl
@[simp] theorem State.dropTask_hdrErr (s : State) (i : Nat) : (s.dropTask i).hdrErr = s.hdrErr := rfl
@[simp] theorem State.dropTask_clean (s : State) (i : Nat) : (s.dropTask i).clean = s.clean := rfl
@[simp] theorem State.dropTask_cores (s : State) (i : Nat) : (s.dropTask i).cores = s.cores := rfl
@[simp] theorem State.dropTask_clusters (s : State) (i : Nat) : (s.dropTask i).clusters = s.clusters := rfl
@[simp] theorem State.dropTask_pkg (s : State) (i : Nat) : (s.dropTask i).pkg = s.pkg := rfl
@[simp] theorem State.dropTask_cur (s : State) (i : Nat) : (s.dropTask i).cur = s.cur := rfl
@[simp] theorem State.dropTask_turn (s : State) (i : Nat) : (s.dropTask i).turn = s.turn := rfl
@[simp] theorem State.dropTask_inputs (s : State) (i : Nat) : (s.dropTask i).inputs = s.inputs := rfl
@[simp] theorem State.dropTask_fenceReq (s : State) (i : Nat) : (s.dropTask i).fenceReq = s.fenceReq := rfl
@[simp] theorem State.dropTask_phase (s : State) (i : Nat) : (s.dropTask i).phase = s.phase := rfl
@[simp] theorem State.dropTask_pushes (s : State) (i : Nat) : (s.dropTask i).pushes = s.pushes := rfl
@[simp] theorem State.dropTask_kills (s : State) (i : Nat) : (s.dropTask i).kills = s.kills := rfl
@[simp] theorem State.dropTask_freeCtr (s : State) (i : Nat) : (s.dropTask i).freeCtr = s.freeCtr := rfl

/-! `setCluster` -/

@[simp] theorem State.setCluster_clk (s : State) (c : Nat) (x : Cluster) : (s.setCluster c x).clk = s.clk := rfl
@[simp] theorem State.setCluster_mem (s : State) (c : Nat) (x : Cluster) : (s.setCluster c x).mem = s.mem := rfl
@[simp] theorem State.setCluster_keyTags (s : State) (c : Nat) (x : Cluster) : (s.setCluster c x).keyTags = s.keyTags := rfl
@[simp] theorem State.setCluster_bad (s : State) (c : Nat) (x : Cluster) : (s.setCluster c x).bad = s.bad := rfl
@[simp] theorem State.setCluster_lowErr (s : State) (c : Nat) (x : Cluster) : (s.setCluster c x).lowErr = s.lowErr := rfl
@[simp] theorem State.setCluster_hdrErr (s : State) (c : Nat) (x : Cluster) : (s.setCluster c x).hdrErr = s.hdrErr := rfl
@[simp] theorem State.setCluster_clean (s : State) (c : Nat) (x : Cluster) : (s.setCluster c x).clean = s.clean := rfl
@[simp] theorem State.setCluster_cores (s : State) (c : Nat) (x : Cluster) : (s.setCluster c x).cores = s.cores := rfl
@[simp] theorem State.setCluster_dies (s : State) (c : Nat) (x : Cluster) : (s.setCluster c x).dies = s.dies := rfl
@[simp] theorem State.setCluster_pkg (s : State) (c : Nat) (x : Cluster) : (s.setCluster c x).pkg = s.pkg := rfl
@[simp] theorem State.setCluster_cur (s : State) (c : Nat) (x : Cluster) : (s.setCluster c x).cur = s.cur := rfl
@[simp] theorem State.setCluster_turn (s : State) (c : Nat) (x : Cluster) : (s.setCluster c x).turn = s.turn := rfl
@[simp] theorem State.setCluster_inputs (s : State) (c : Nat) (x : Cluster) : (s.setCluster c x).inputs = s.inputs := rfl
@[simp] theorem State.setCluster_fenceReq (s : State) (c : Nat) (x : Cluster) : (s.setCluster c x).fenceReq = s.fenceReq := rfl
@[simp] theorem State.setCluster_phase (s : State) (c : Nat) (x : Cluster) : (s.setCluster c x).phase = s.phase := rfl
@[simp] theorem State.setCluster_pushes (s : State) (c : Nat) (x : Cluster) : (s.setCluster c x).pushes = s.pushes := rfl
@[simp] theorem State.setCluster_kills (s : State) (c : Nat) (x : Cluster) : (s.setCluster c x).kills = s.kills := rfl
@[simp] theorem State.setCluster_freeCtr (s : State) (c : Nat) (x : Cluster) : (s.setCluster c x).freeCtr = s.freeCtr := rfl

/-! The counter of free values -/

@[simp] theorem State.free_clk (s : State) : s.free.2.clk = s.clk := rfl
@[simp] theorem State.free_mem (s : State) : s.free.2.mem = s.mem := rfl
@[simp] theorem State.free_keyTags (s : State) : s.free.2.keyTags = s.keyTags := rfl
@[simp] theorem State.free_bad (s : State) : s.free.2.bad = s.bad := rfl
@[simp] theorem State.free_lowErr (s : State) : s.free.2.lowErr = s.lowErr := rfl
@[simp] theorem State.free_hdrErr (s : State) : s.free.2.hdrErr = s.hdrErr := rfl
@[simp] theorem State.free_clean (s : State) : s.free.2.clean = s.clean := rfl
@[simp] theorem State.free_cores (s : State) : s.free.2.cores = s.cores := rfl
@[simp] theorem State.free_clusters (s : State) : s.free.2.clusters = s.clusters := rfl
@[simp] theorem State.free_dies (s : State) : s.free.2.dies = s.dies := rfl
@[simp] theorem State.free_pkg (s : State) : s.free.2.pkg = s.pkg := rfl
@[simp] theorem State.free_cur (s : State) : s.free.2.cur = s.cur := rfl
@[simp] theorem State.free_turn (s : State) : s.free.2.turn = s.turn := rfl
@[simp] theorem State.free_inputs (s : State) : s.free.2.inputs = s.inputs := rfl
@[simp] theorem State.free_fenceReq (s : State) : s.free.2.fenceReq = s.fenceReq := rfl
@[simp] theorem State.free_phase (s : State) : s.free.2.phase = s.phase := rfl
@[simp] theorem State.free_pushes (s : State) : s.free.2.pushes = s.pushes := rfl
@[simp] theorem State.free_kills (s : State) : s.free.2.kills = s.kills := rfl

/-! ### Parts read after they were put -/

@[simp] theorem State.core_setCore (s : State) (c : Nat) (x : Core) : (s.setCore c x).core c = x := by
  simp [State.core, State.setCore, mgetD]

theorem State.core_setCore_other (s : State) {c d : Nat} (x : Core) (h : d ≠ c) : (s.setCore c x).core d = s.core d := by
  simp [State.core, State.setCore, mgetD, mget_mset_other _ _ h]

theorem State.setCore_setCore (s : State) (c : Nat) (x y : Core) : (s.setCore c x).setCore c y = s.setCore c y := by
  simp [State.setCore, mset_mset]

@[simp] theorem State.die_setDie (s : State) (d : Nat) (x : Die) : (s.setDie d x).die d = x := by
  simp [State.die, State.setDie, mgetD]

theorem State.die_setDie_other (s : State) {d e : Nat} (x : Die) (h : e ≠ d) : (s.setDie d x).die e = s.die e := by
  simp [State.die, State.setDie, mgetD, mget_mset_other _ _ h]

@[simp] theorem State.core_setDie (s : State) (d : Nat) (x : Die) (c : Nat) : (s.setDie d x).core c = s.core c := rfl
@[simp] theorem State.die_setCore (s : State) (c : Nat) (x : Core) (d : Nat) : (s.setCore c x).die d = s.die d := rfl
@[simp] theorem State.core_setTask (s : State) (i : Nat) (x : Task) (c : Nat) : (s.setTask i x).core c = s.core c := rfl
@[simp] theorem State.task_setCore (s : State) (c : Nat) (x : Core) (i : Nat) : (s.setCore c x).task i = s.task i := rfl
@[simp] theorem State.task_setFiring (s : State) (c k : Nat) (f : Firing) (i : Nat) : (s.setFiring c k f).task i = s.task i := rfl
@[simp] theorem State.die_setFiring (s : State) (c k : Nat) (f : Firing) (d : Nat) : (s.setFiring c k f).die d = s.die d := rfl

@[simp] theorem State.task_setTask (s : State) (i : Nat) (x : Task) : (s.setTask i x).task i = some x := by
  simp [State.task, State.setTask]

@[simp] theorem State.firing_setFiring (s : State) {c k : Nat} (f : Firing) (h : k < 8) : (s.setFiring c k f).firing c k = some f := by
  simp [State.firing, State.setFiring, Core.setSlot, h]

theorem State.firing_setFiring_slot (s : State) {c k j : Nat} (f : Firing) (h : j ≠ k) : (s.setFiring c k f).firing c j = s.firing c j := by
  simp only [State.firing, State.setFiring, Core.setSlot, State.core_setCore]
  split
  · split
    · simp [Vector.getElem_set_ne _ _ (Ne.symm h)]
    · rfl
  · rfl

theorem State.firing_setFiring_core (s : State) {c d k j : Nat} (f : Firing) (h : d ≠ c) : (s.setFiring c k f).firing d j = s.firing d j := by
  simp [State.firing, State.setFiring, State.core_setCore_other _ _ h]

theorem State.setFiring_setFiring (s : State) (c k : Nat) (f g : Firing) : (s.setFiring c k f).setFiring c k g = s.setFiring c k g := by
  simp only [State.setFiring, State.core_setCore, State.setCore_setCore]
  congr 1
  simp only [Core.setSlot]
  split
  · simp
  · rfl

/-- A slot that holds a firing is one of the eight. -/
theorem State.slot_lt {s : State} {c k : Nat} {f : Firing} (h : s.firing c k = some f) : k < 8 := by
  simp only [State.firing] at h
  split at h
  · assumption
  · cases h

/-! ### Registers of a firing (R20) -/

@[simp] theorem Firing.rg_zero (f : Firing) : f.rg 0 = 0 := rfl
@[simp] theorem Firing.rp_zero (f : Firing) : f.rp 0 = true := rfl
@[simp] theorem Firing.put_g_zero (f : Firing) (x : Word) : f.put (.g 0 x) = f := rfl
@[simp] theorem Firing.put_p_zero (f : Firing) (x : Bool) : f.put (.p 0 x) = f := rfl
@[simp] theorem Firing.put_k_zero (f : Firing) (x : KReg) : f.put (.k 0 x) = f := rfl

theorem Firing.put_g {r : BitVec 6} (f : Firing) (x : Word) (h : r ≠ 0) : f.put (.g r x) = { f with g := f.g.set r.toNat x } := if_neg h

theorem Firing.rg_put {r : BitVec 6} (f : Firing) (x : Word) (h : r ≠ 0) : (f.put (.g r x)).rg r = x := by
  rw [Firing.put_g f x h, Firing.rg, if_neg h]
  exact Vector.getElem_set_self _

theorem Firing.rg_put_other {r q : BitVec 6} (f : Firing) (x : Word) (h : q ≠ r) : (f.put (.g r x)).rg q = f.rg q := by
  by_cases hr : r = 0
  · subst hr; rfl
  · rw [Firing.put_g f x hr, Firing.rg, Firing.rg]
    split
    · rfl
    · exact Vector.getElem_set_ne r.isLt _ fun e => h (BitVec.eq_of_toNat_eq e.symm)

end Sys2Proof.Machine
end

