-- ==== Sys2Proof/Laws/Complete.lean ====
section
/-! SUPPORT. What moving link words and completing an instruction leave as it was: everything but the cores. -/

namespace Sys2Proof.Machine

open Sys2Proof.Claims

/-- Two states differ at most in their cores. -/
def SameButCores (s t : State) : Prop := t = { s with cores := t.cores }

theorem SameButCores.refl (s : State) : SameButCores s s := rfl

theorem SameButCores.trans {s t u : State} (h : SameButCores s t) (k : SameButCores t u) : SameButCores s u := by
  unfold SameButCores at *
  rw [k, h]

theorem sameButCores_setCore (s : State) (c : Nat) (x : Core) : SameButCores s (s.setCore c x) := rfl
theorem sameButCores_setFiring (s : State) (c k : Nat) (f : Firing) : SameButCores s (s.setFiring c k f) := rfl

theorem sameButCores_foldl {β : Type} {f : State → β → State} (hf : ∀ s b, SameButCores s (f s b)) (bs : List β) (s : State) :
    SameButCores s (bs.foldl f s) := by
  induction bs generalizing s with
  | nil => exact .refl s
  | cons b t ih => exact (hf s b).trans (ih (f s b))

theorem sameButCores_push (s : State) (c dir n : Nat) (e : Entry) (psn : Bool) : SameButCores s (s.push c dir n e psn) := by
  simp only [State.push]
  split
  · exact .refl s
  · exact sameButCores_setCore _ _ _

theorem sameButCores_pop (s : State) (c dir : Nat) : SameButCores s (s.pop c dir) := by
  simp only [State.pop]
  split
  · exact .refl s
  · have two (x : Core) (p q : Bool) (a n : Nat) (e : Entry) :
        SameButCores s (if p = true then (s.setCore c x).push c a n e q else s.setCore c x) := by
      split
      · exact (sameButCores_setCore s c x).trans (sameButCores_push _ _ _ _ _ _)
      · exact sameButCores_setCore s c x
    exact two _ _ _ _ _ _

theorem sameButCores_popAll (s : State) (c : Nat) (ds : List Nat) : SameButCores s (s.popAll c ds) :=
  sameButCores_foldl (fun _ _ => sameButCores_pop _ _ _) ds s

theorem sameButCores_complete (x : Ctx) (e : Eff) (w : Wait) : SameButCores e.s (State.complete x e w) := by
  simp only [State.complete]
  split
  · exact .refl e.s
  · exact ((sameButCores_setFiring _ _ _ _).trans (sameButCores_setCore _ _ _)).trans
      (sameButCores_foldl (fun _ _ => sameButCores_push _ _ _ _ _ _) _ _)

/-- An instruction that completes changes, beside its own effect, the cores alone. -/
theorem sameButCores_after (x : Ctx) (e : Eff) : SameButCores e.s (after x e) :=
  (sameButCores_popAll _ _ _).trans (sameButCores_complete x { e with s := e.s.popAll x.c (pops x.op x.w) } .none)

theorem sameButCores_start (s : State) : SameButCores s (start s) := rfl

theorem SameButCores.clk {s t : State} (h : SameButCores s t) : t.clk = s.clk := by rw [h]
theorem SameButCores.mem {s t : State} (h : SameButCores s t) : t.mem = s.mem := by rw [h]
theorem SameButCores.keyTags {s t : State} (h : SameButCores s t) : t.keyTags = s.keyTags := by rw [h]
theorem SameButCores.bad {s t : State} (h : SameButCores s t) : t.bad = s.bad := by rw [h]
theorem SameButCores.lowErr {s t : State} (h : SameButCores s t) : t.lowErr = s.lowErr := by rw [h]
theorem SameButCores.clusters {s t : State} (h : SameButCores s t) : t.clusters = s.clusters := by rw [h]
theorem SameButCores.dies {s t : State} (h : SameButCores s t) : t.dies = s.dies := by rw [h]
theorem SameButCores.pkg {s t : State} (h : SameButCores s t) : t.pkg = s.pkg := by rw [h]
theorem SameButCores.cur {s t : State} (h : SameButCores s t) : t.cur = s.cur := by rw [h]
theorem SameButCores.turn {s t : State} (h : SameButCores s t) : t.turn = s.turn := by rw [h]
theorem SameButCores.inputs {s t : State} (h : SameButCores s t) : t.inputs = s.inputs := by rw [h]
theorem SameButCores.hdrErr {s t : State} (h : SameButCores s t) : t.hdrErr = s.hdrErr := by rw [h]
theorem SameButCores.pushes {s t : State} (h : SameButCores s t) : t.pushes = s.pushes := by rw [h]
theorem SameButCores.kills {s t : State} (h : SameButCores s t) : t.kills = s.kills := by rw [h]
theorem SameButCores.fenceReq {s t : State} (h : SameButCores s t) : t.fenceReq = s.fenceReq := by rw [h]
theorem SameButCores.freeCtr {s t : State} (h : SameButCores s t) : t.freeCtr = s.freeCtr := by rw [h]

end Sys2Proof.Machine
end

