-- ==== Sys2Proof/Laws/Memory.lean ====
section
/-! SUPPORT. Every operation of the machine that changes memory keeps its canonical form, and what a write at a home leaves alone. -/

namespace Sys2Proof.Machine

theorem reset_wf : Memory.wf State.reset.mem = true := rfl

/-! ### Writes at a home -/

theorem notify_wf {s : State} (h : Memory.wf s.mem = true) (lines : List Nat) : Memory.wf (s.notify lines).mem = true := by
  simp only [State.notify]
  split
  · exact h
  · exact wf_foldl h (fun m _ hm => wf_memZero hm _ _) _

theorem homeWrite_wf {s : State} (h : Memory.wf s.mem = true) (key a : Nat) (xs : List Byte) :
    Memory.wf (s.homeWrite key a xs).mem = true := notify_wf (wf_memWrite h a xs) _

theorem memGet_notify_other {s : State} {lines : List Nat} {b : Nat}
    (hw : ∀ w ∈ s.pkg.watches, ¬ (s.pkg.watchAt w.1 ≤ b ∧ b < s.pkg.watchAt w.1 + 16)) :
    memGet (s.notify lines).mem b = memGet s.mem b := by
  have fold : ∀ (ws : List (Nat × Watch)) (m : Memory), (∀ w ∈ ws, ¬ (s.pkg.watchAt w.1 ≤ b ∧ b < s.pkg.watchAt w.1 + 16)) →
      memGet (ws.foldl (fun m w => memZero m (s.pkg.watchAt w.1) 16) m) b = memGet m b := by
    intro ws
    induction ws with
    | nil => intro _ _; rfl
    | cons w t ih =>
      intro m hp
      rw [List.foldl_cons, ih _ fun v hv => hp v (List.mem_cons_of_mem _ hv), memGet_memZero, if_neg (hp w List.mem_cons_self)]
  simp only [State.notify]
  split
  · rfl
  · exact fold _ _ fun w hw' => hw w (List.mem_filter.mp hw').1

/-- Bytes outside a write at a home, and outside the slots of the watch table, stay as they were. -/
theorem memGet_homeWrite_other {s : State} {key a b : Nat} {xs : List Byte} (h : b < a ∨ a + xs.length ≤ b)
    (hw : ∀ w ∈ s.pkg.watches, ¬ (s.pkg.watchAt w.1 ≤ b ∧ b < s.pkg.watchAt w.1 + 16)) :
    memGet (s.homeWrite key a xs).mem b = memGet s.mem b := by
  by_cases hp : ((a < 1536 * 2 ^ 30 || hbmFrame a) && xs.length != 0) = true
  · refine (memGet_notify_other ?_).trans (memGet_memWrite_other h)
    simp only [hp, if_true]; exact hw
  · refine (memGet_notify_other ?_).trans (memGet_memWrite_other h)
    simp only [hp]; exact hw

theorem counterAdd_wf {s : State} (h : Memory.wf s.mem = true) (key a : Nat) (v : Word) : Memory.wf (s.counterAdd key a v).1.mem = true := by
  exact homeWrite_wf h _ _ _

/-! ### The L1 (R191) -/

@[simp] theorem settleByte_mem (s : State) (l : Line) (k : Nat) : (s.settleByte l k).mem = s.mem := by
  simp only [State.settleByte]; split <;> rfl

theorem writeDirty_wf {s : State} (h : Memory.wf s.mem = true) (l : Line) (n : Nat) : Memory.wf (s.writeDirty l n).mem = true := by
  induction n with
  | zero => exact h
  | succ n ih =>
    simp only [State.writeDirty]
    split
    · rw [settleByte_mem]; exact homeWrite_wf ih _ _ _
    · exact ih

theorem foldl_mem {β : Type} {f : State → β → State} (hf : ∀ s b, (f s b).mem = s.mem) (bs : List β) (s : State) : (bs.foldl f s).mem = s.mem := by
  induction bs generalizing s with
  | nil => rfl
  | cons b t ih => rw [List.foldl_cons, ih, hf]

@[simp] theorem endRunning_mem (s : State) (id : Nat) : (s.endRunning id).mem = s.mem := by
  simp only [State.endRunning]; split <;> rfl

theorem writeBack_wf {s : State} (h : Memory.wf s.mem = true) (c : Nat) (l : Line) : Memory.wf (s.writeBack c l).mem = true := by
  simp only [State.writeBack]
  split
  · rw [foldl_mem endRunning_mem]; exact h
  · exact writeDirty_wf h l 64

theorem cleanLine_wf {s : State} (h : Memory.wf s.mem = true) (c : Nat) (l : Line) : Memory.wf (s.cleanLine c l).mem = true := writeBack_wf h c l

theorem dropLine_wf {s : State} (h : Memory.wf s.mem = true) (c : Nat) (l : Line) : Memory.wf (s.dropLine c l).mem = true := h

theorem putLine_wf {s : State} (h : Memory.wf s.mem = true) (c : Nat) (l : Line) : Memory.wf (s.putLine c l).mem = true := by
  simp only [State.putLine]
  split
  · exact h
  · split
    · exact h
    · split
      · exact writeBack_wf (s := s.free.2) h _ _
      · exact h

theorem lineFor_wf {s : State} (h : Memory.wf s.mem = true) (c space line ctx key home : Nat) :
    Memory.wf (s.lineFor c space line ctx key home).1.mem = true := by
  simp only [State.lineFor]
  split
  · exact h
  · split
    · exact h
    · exact dropLine_wf (writeBack_wf h _ _) c _

theorem l1Write_wf {s : State} (h : Memory.wf s.mem = true) (a : Acc) (addr home : Nat) (xs : List Byte) :
    Memory.wf (s.l1Write a addr home xs).mem = true := putLine_wf (lineFor_wf h _ _ _ _ _ _) _ _

theorem l1Writes_wf {s : State} (h : Memory.wf s.mem = true) (a : Acc) (base place : Nat) (ps : List (Nat × Nat)) (xs : List Byte) :
    Memory.wf (s.l1Writes a base place ps xs).mem = true := by
  induction ps generalizing s xs with
  | nil => exact h
  | cons p t ih => exact ih (l1Write_wf h a _ _ _) _

theorem l1Read_wf {s t : State} {a : Acc} {addr n home : Nat} {bs : List Byte} (h : Memory.wf s.mem = true)
    (hr : s.l1Read a addr n home = some (t, bs)) : Memory.wf t.mem = true := by
  simp only [State.l1Read, Option.ite_none_right_eq_some, Option.some.injEq, Prod.mk.injEq] at hr
  rw [← hr.2.1]
  exact putLine_wf (lineFor_wf h _ _ _ _ _ _) _ _

theorem l1Reads_wf {s t : State} {a : Acc} {base place : Nat} {ps : List (Nat × Nat)} {bs : List Byte} (h : Memory.wf s.mem = true)
    (hr : s.l1Reads a base place ps = some (t, bs)) : Memory.wf t.mem = true := by
  induction ps generalizing s bs with
  | nil => cases hr; exact h
  | cons p ps ih =>
    simp only [State.l1Reads] at hr
    split at hr
    · cases hr
    · rename_i s1 b h1
      split at hr
      · cases hr
      · rename_i s2 b2 h2
        cases hr
        exact ih (l1Read_wf h h1) h2

/-! ### Performing -/

theorem writeSegs_wf {s : State} (h : Memory.wf s.mem = true) (a : Acc) (addr : Nat) (xs : List (Option Nat × Nat)) (bs : List Byte) :
    Memory.wf (s.writeSegs a addr xs bs).mem = true := by
  induction xs generalizing s addr bs with
  | nil => exact h
  | cons x t ih =>
    obtain ⟨p, n⟩ := x
    apply ih
    cases p with
    | none => exact h
    | some q =>
      show Memory.wf (if a.cached = true then _ else _ : State).mem = true
      split
      · exact l1Writes_wf h a _ _ _ _
      · exact homeWrite_wf h _ _ _

theorem write_wf {s : State} (h : Memory.wf s.mem = true) (a : Acc) (bs : List Byte) : Memory.wf (s.write a bs).mem = true :=
  writeSegs_wf h a _ _ _

theorem readSegs_wf {s t : State} {a : Acc} {addr : Nat} {xs : List (Option Nat × Nat)} {bs : List Byte} (h : Memory.wf s.mem = true)
    (hr : s.readSegs a addr xs = some (t, bs)) : Memory.wf t.mem = true := by
  induction xs generalizing s addr bs with
  | nil => cases hr; exact h
  | cons x xs ih =>
    obtain ⟨p, n⟩ := x
    simp only [State.readSegs] at hr
    split at hr
    · cases hr
    · rename_i s1 b h1
      split at hr
      · cases hr
      · rename_i s2 b2 h2
        cases hr
        refine ih ?_ h2
        cases p with
        | none => cases h1; exact h
        | some q =>
          simp only at h1
          split at h1
          · exact l1Reads_wf h h1
          · split at h1
            · cases h1
            · cases h1; exact h

theorem read_wf {s t : State} {a : Acc} {bs : List Byte} (h : Memory.wf s.mem = true) (hr : s.read a = some (t, bs)) : Memory.wf t.mem = true :=
  readSegs_wf h hr

theorem dropOwn_wf {s : State} (h : Memory.wf s.mem = true) (a : Acc) : Memory.wf (s.dropOwn a).mem = true := by
  simp only [State.dropOwn]
  split
  · generalize linesOf a.addr a.n = ls
    induction ls generalizing s with
    | nil => exact h
    | cons l t ih =>
      rw [List.foldl_cons]
      apply ih
      split
      · exact dropLine_wf (writeBack_wf h _ _) _ _
      · exact h
  · exact h

/-! ### Frames, pages, stores and units -/

theorem zeroFrame_wf {s : State} (h : Memory.wf s.mem = true) (die f : Nat) : Memory.wf (s.zeroFrame die f).mem = true := wf_memZero h _ _

theorem copyFrame_wf {s : State} (h : Memory.wf s.mem = true) (key a b : Nat) : Memory.wf (s.copyFrame key a b).mem = true := by
  simp only [State.copyFrame]
  split
  · exact wf_memPaste (wf_memZero h _ _) _ _
  · exact homeWrite_wf h _ _ _

/-! ### The images of the tables: streams, mappings, descriptors and park records -/

theorem setStream_wf {s : State} (h : Memory.wf s.mem = true) (g : Nat) (e : Stream) : Memory.wf (s.setStream g e).mem = true := homeWrite_wf (by exact h) _ _ _

theorem writeIpt_wf {s : State} (h : Memory.wf s.mem = true) (die n : Nat) (bs : List Byte) : Memory.wf (s.writeIpt die n bs).mem = true := by
  simp only [State.writeIpt]
  split
  · exact homeWrite_wf h _ _ _
  · exact h

theorem addMapping_wf {s : State} (h : Memory.wf s.mem = true) (m : Mapping) : Memory.wf (s.addMapping m).mem = true := writeIpt_wf (by exact h) _ _ _
theorem putMapping_wf {s : State} (h : Memory.wf s.mem = true) (m : Mapping) : Memory.wf (s.putMapping m).mem = true := writeIpt_wf (by exact h) _ _ _

/-- What keeps the form at each element of a list keeps it over the list. -/
theorem foldl_wf {β : Type} {f : State → β → State} {s : State} (h : Memory.wf s.mem = true)
    (hf : ∀ t b, Memory.wf t.mem = true → Memory.wf (f t b).mem = true) (bs : List β) : Memory.wf (bs.foldl f s).mem = true := by
  induction bs generalizing s with
  | nil => exact h
  | cons b t ih => exact ih (hf s b h)

theorem repoint_wf {s : State} (h : Memory.wf s.mem = true) (m : Mapping) (tier frame : Nat) : Memory.wf (s.repoint m tier frame).mem = true :=
  foldl_wf h (fun _ x ht => putMapping_wf ht x) _

theorem delMapping_wf {s : State} (h : Memory.wf s.mem = true) (g b : Nat) : Memory.wf (s.delMapping g b).mem = true :=
  foldl_wf (by exact h) (fun _ _ ht => writeIpt_wf ht _ _ _) _

theorem setDesc_wf {s : State} (h : Memory.wf s.mem = true) (die n : Nat) (d : Option Desc) : Memory.wf (s.setDesc die n d).mem = true := by
  cases d <;> (simp only [State.setDesc]; exact homeWrite_wf (by exact h) _ _ _)

theorem setPark_wf {s : State} (h : Memory.wf s.mem = true) (i : Nat) (p : Option Park) : Memory.wf (s.setPark i p).mem = true := by
  cases p with
  | none => exact homeWrite_wf (by exact h) _ _ _
  | some p =>
    have := homeWrite_wf (s := { s with pkg := { s.pkg with parks := mset s.pkg.parks i p } }) h 0 (fld s.pkg.pkbase 51 12 * 4096 + 64 * i) (bytesOf p.words)
    simp only [State.setPark]
    split <;> exact this

theorem clearWatch_wf {s : State} (h : Memory.wf s.mem = true) (i : Nat) : Memory.wf (s.clearWatch i).mem = true := by
  simp only [State.clearWatch]
  generalize s.pkg.watches.filter (fun w => w.2.park == i) = ws
  generalize s.pkg.watches.filter (fun w => w.2.park != i) = vs
  show Memory.wf (ws.foldl (fun t (w : Nat × Watch) => t.homeWrite 0 (t.pkg.watchAt w.1) (zeros 16)) s).mem = true
  induction ws generalizing s with
  | nil => exact h
  | cons w t ih =>
    simp only [List.foldl_cons]
    exact ih (homeWrite_wf h _ _ _)

theorem putPage_wf {s : State} (h : Memory.wf s.mem = true) (a : Nat) (cs : List Host.Cell) (inst : Option Nat) (errs : List Nat) :
    Memory.wf (s.putPage a cs inst errs).mem = true := wf_memPaste (wf_memZero h _ _) _ _

theorem fillStore_wf {s : State} (h : Memory.wf s.mem = true) (a n : Nat) (bs : List Byte) : Memory.wf (s.fillStore a n bs).mem = true :=
  wf_memWrite (wf_memZero h _ _) _ _

theorem clearUnits_wf {s : State} (h : Memory.wf s.mem = true) (c : Nat) (r : Resident) : Memory.wf (s.clearUnits c r).mem = true := by
  have := wf_foldl (f := fun m l => memZero m (Loc.slice c l r.slBase) r.slSize) h (fun m _ hm => wf_memZero hm _ _) (List.range 32)
  simpa [State.clearUnits, State.renewWinctl] using this

theorem entryDone_wf {s : State} (h : Memory.wf s.mem = true) (q : Nat) : Memory.wf (s.entryDone q).mem = true := by
  simp only [State.entryDone]
  split
  · exact h
  · exact wf_memWrite h _ _

theorem cleared_wf {s : State} (h : Memory.wf s.mem = true) (masks : SMap Word) : Memory.wf (s.cleared masks).mem = true := wf_filter h _

theorem placeFiring_wf {s : State} (h : Memory.wf s.mem = true) (w : Nat) : Memory.wf (s.placeFiring w).mem = true := wf_memWrite h _ _

theorem placeHelper_wf {s : State} (h : Memory.wf s.mem = true) (w : Nat) : Memory.wf (s.placeHelper w).mem = true := wf_memWrite h _ _

end Sys2Proof.Machine
end

