-- ==== Sys2Proof/Laws/PerInstr.lean ====
section
/-! SUPPORT. One fact for each instruction of the table: the decoder reads its row from its opcode and its fields. -/

namespace Sys2Proof.Laws.Row

/-- A row with a Tolog word is the row that its opcode and fields select. -/
def Statement (i : Instr) : Prop := ∀ op w, i.tolog = some (op, w) → i.rowOk = true → mkTolog op w = some i

/-- A row without a Tolog word has nothing to show. -/
theorem none_ {i : Instr} (h : i.tolog = none) : Statement i := fun _ _ e _ => nomatch h.symm.trans e

theorem nop (w : Tolog) : Statement (.nop w) := by rintro _ _ ⟨⟩ -; rfl
theorem iadd (w : Tolog) : Statement (.iadd w) := by rintro _ _ ⟨⟩ -; rfl
theorem isub (w : Tolog) : Statement (.isub w) := by rintro _ _ ⟨⟩ -; rfl
theorem imul (w : Tolog) : Statement (.imul w) := by rintro _ _ ⟨⟩ -; rfl
theorem imulh (w : Tolog) : Statement (.imulh w) := by rintro _ _ ⟨⟩ -; rfl
theorem idiv (w : Tolog) : Statement (.idiv w) := by rintro _ _ ⟨⟩ -; rfl
theorem irem (w : Tolog) : Statement (.irem w) := by rintro _ _ ⟨⟩ -; rfl
theorem imin (w : Tolog) : Statement (.imin w) := by rintro _ _ ⟨⟩ -; rfl
theorem imax (w : Tolog) : Statement (.imax w) := by rintro _ _ ⟨⟩ -; rfl
theorem iabs (w : Tolog) : Statement (.iabs w) := by rintro _ _ ⟨⟩ -; rfl
theorem and_ (w : Tolog) : Statement (.and_ w) := by rintro _ _ ⟨⟩ -; rfl
theorem or_ (w : Tolog) : Statement (.or_ w) := by rintro _ _ ⟨⟩ -; rfl
theorem xor_ (w : Tolog) : Statement (.xor_ w) := by rintro _ _ ⟨⟩ -; rfl
theorem andn (w : Tolog) : Statement (.andn w) := by rintro _ _ ⟨⟩ -; rfl
theorem shl (w : Tolog) : Statement (.shl w) := by rintro _ _ ⟨⟩ -; rfl
theorem shr (w : Tolog) : Statement (.shr w) := by rintro _ _ ⟨⟩ -; rfl
theorem sar (w : Tolog) : Statement (.sar w) := by rintro _ _ ⟨⟩ -; rfl
theorem rot (w : Tolog) : Statement (.rot w) := by rintro _ _ ⟨⟩ -; rfl
theorem clz (w : Tolog) : Statement (.clz w) := by rintro _ _ ⟨⟩ -; rfl
theorem popc (w : Tolog) : Statement (.popc w) := by rintro _ _ ⟨⟩ -; rfl
theorem bfx (w : Tolog) : Statement (.bfx w) := by rintro _ _ ⟨⟩ -; rfl
theorem bfi (w : Tolog) : Statement (.bfi w) := by rintro _ _ ⟨⟩ -; rfl
theorem sext (w : Tolog) : Statement (.sext w) := by rintro _ _ ⟨⟩ -; rfl
theorem movi (w : Tolog) : Statement (.movi w) := by rintro _ _ ⟨⟩ -; rfl
theorem mov (w : Tolog) : Statement (.mov w) := by rintro _ _ ⟨⟩ -; rfl
theorem sel (w : Tolog) : Statement (.sel w) := by rintro _ _ ⟨⟩ -; rfl
theorem icmp (w : Tolog) : Statement (.icmp w) := by rintro _ _ ⟨⟩ -; rfl
theorem plog (w : Tolog) : Statement (.plog w) := by rintro _ _ ⟨⟩ -; rfl
theorem lea (w : Tolog) : Statement (.lea w) := by rintro _ _ ⟨⟩ -; rfl
theorem imad (w : Tolog) : Statement (.imad w) := by rintro _ _ ⟨⟩ -; rfl
theorem iadds (w : Tolog) : Statement (.iadds w) := by rintro _ _ ⟨⟩ -; rfl
theorem br (w : Tolog) : Statement (.br w) := by rintro _ _ ⟨⟩ -; rfl
theorem bri (w : Tolog) : Statement (.bri w) := by rintro _ _ ⟨⟩ -; rfl
theorem call (w : Tolog) : Statement (.call w) := by rintro _ _ ⟨⟩ -; rfl
theorem ret (w : Tolog) : Statement (.ret w) := by rintro _ _ ⟨⟩ -; rfl
theorem jtab (w : Tolog) : Statement (.jtab w) := by rintro _ _ ⟨⟩ -; rfl
theorem loop (w : Tolog) : Statement (.loop w) := by rintro _ _ ⟨⟩ -; rfl
theorem fini (w : Tolog) : Statement (.fini w) := by rintro _ _ ⟨⟩ -; rfl
theorem abort (w : Tolog) : Statement (.abort w) := by rintro _ _ ⟨⟩ -; rfl
theorem yield (w : Tolog) : Statement (.yield w) := by rintro _ _ ⟨⟩ -; rfl
theorem trap (w : Tolog) : Statement (.trap w) := by rintro _ _ ⟨⟩ -; rfl
theorem ctlr (w : Tolog) : Statement (.ctlr w) := by rintro _ _ ⟨⟩ -; rfl
theorem ctlw (w : Tolog) : Statement (.ctlw w) := by
  rintro _ _ ⟨⟩ h
  have h : (!ctlOwnRow w.ctlIdx) = true := h
  simp only [ctlOwnRow, Bool.not_eq_true', Bool.or_eq_false_iff, beq_eq_false_iff_ne] at h
  obtain ⟨⟨⟨⟨h1, h2⟩, h3⟩, h4⟩, h5⟩ := h
  refine congrArg some ?_
  simp [mkCtlw, h1, h2, h3, h4, h5]
theorem fence (w : Tolog) : Statement (.fence w) := by rintro _ _ ⟨⟩ -; rfl
theorem clock (w : Tolog) : Statement (.clock w) := by rintro _ _ ⟨⟩ -; rfl
theorem getid (w : Tolog) : Statement (.getid w) := by rintro _ _ ⟨⟩ -; rfl
theorem tret (w : Tolog) : Statement (.tret w) := by rintro _ _ ⟨⟩ -; rfl
theorem ecall (w : Tolog) : Statement (.ecall w) := by rintro _ _ ⟨⟩ -; rfl
theorem chavl (w : Tolog) : Statement (.chavl w) := by rintro _ _ ⟨⟩ -; rfl
theorem chrd (w : Tolog) : Statement (.chrd w) := by rintro _ _ ⟨⟩ -; rfl
theorem chwr (w : Tolog) : Statement (.chwr w) := by rintro _ _ ⟨⟩ -; rfl
theorem send (w : Tolog) : Statement (.send w) := by rintro _ _ ⟨⟩ -; rfl
theorem sendh (w : Tolog) : Statement (.sendh w) := by rintro _ _ ⟨⟩ -; rfl
theorem sendv (w : Tolog) : Statement (.sendv w) := by rintro _ _ ⟨⟩ -; rfl
theorem ld (w : Tolog) : Statement (.ld w) := by rintro _ _ ⟨⟩ -; rfl
theorem st (w : Tolog) : Statement (.st w) := by rintro _ _ ⟨⟩ -; rfl
theorem ldp (w : Tolog) : Statement (.ldp w) := by rintro _ _ ⟨⟩ -; rfl
theorem stp (w : Tolog) : Statement (.stp w) := by rintro _ _ ⟨⟩ -; rfl
theorem pref (w : Tolog) : Statement (.pref w) := by rintro _ _ ⟨⟩ -; rfl
theorem amo (w : Tolog) : Statement (.amo w) := by rintro _ _ ⟨⟩ -; rfl
theorem cas (w : Tolog) : Statement (.cas w) := by rintro _ _ ⟨⟩ -; rfl
theorem incw (w : Tolog) : Statement (.incw w) := by rintro _ _ ⟨⟩ -; rfl
theorem faddb (w : Tolog) : Statement (.faddb w) := by rintro _ _ ⟨⟩ -; rfl
theorem cadd (w : Tolog) : Statement (.cadd w) := by
  rintro _ _ ⟨⟩ h
  have h : (!w.mod.getLsbD 7) = true := h
  exact congrArg some (if_neg fun e => by rw [e] at h; cases h)
theorem caddFab (w : Tolog) : Statement (.caddFab w) := by
  rintro _ _ ⟨⟩ h
  exact congrArg some (if_pos h)
theorem cwait (w : Tolog) : Statement (.cwait w) := by rintro _ _ ⟨⟩ -; rfl
theorem cread (w : Tolog) : Statement (.cread w) := by rintro _ _ ⟨⟩ -; rfl
theorem mon (w : Tolog) : Statement (.mon w) := by rintro _ _ ⟨⟩ -; rfl
theorem mwait (w : Tolog) : Statement (.mwait w) := by rintro _ _ ⟨⟩ -; rfl
theorem hld (w : Tolog) : Statement (.hld w) := by rintro _ _ ⟨⟩ -; rfl
theorem hst (w : Tolog) : Statement (.hst w) := by rintro _ _ ⟨⟩ -; rfl
theorem rgchk (w : Tolog) : Statement (.rgchk w) := by rintro _ _ ⟨⟩ -; rfl
theorem flushr (w : Tolog) : Statement (.flushr w) := by rintro _ _ ⟨⟩ -; rfl
theorem invr (w : Tolog) : Statement (.invr w) := by rintro _ _ ⟨⟩ -; rfl
theorem ldbit (w : Tolog) : Statement (.ldbit w) := by rintro _ _ ⟨⟩ -; rfl
theorem stbit (w : Tolog) : Statement (.stbit w) := by rintro _ _ ⟨⟩ -; rfl
theorem vadd (w : Tolog) : Statement (.vadd w) := by rintro _ _ ⟨⟩ -; rfl
theorem vsub (w : Tolog) : Statement (.vsub w) := by rintro _ _ ⟨⟩ -; rfl
theorem vmul (w : Tolog) : Statement (.vmul w) := by rintro _ _ ⟨⟩ -; rfl
theorem vmulh (w : Tolog) : Statement (.vmulh w) := by rintro _ _ ⟨⟩ -; rfl
theorem vmad (w : Tolog) : Statement (.vmad w) := by rintro _ _ ⟨⟩ -; rfl
theorem vmin (w : Tolog) : Statement (.vmin w) := by rintro _ _ ⟨⟩ -; rfl
theorem vmax (w : Tolog) : Statement (.vmax w) := by rintro _ _ ⟨⟩ -; rfl
theorem vabs (w : Tolog) : Statement (.vabs w) := by rintro _ _ ⟨⟩ -; rfl
theorem vand (w : Tolog) : Statement (.vand w) := by rintro _ _ ⟨⟩ -; rfl
theorem vor (w : Tolog) : Statement (.vor w) := by rintro _ _ ⟨⟩ -; rfl
theorem vxor (w : Tolog) : Statement (.vxor w) := by rintro _ _ ⟨⟩ -; rfl
theorem vshl (w : Tolog) : Statement (.vshl w) := by rintro _ _ ⟨⟩ -; rfl
theorem vshr (w : Tolog) : Statement (.vshr w) := by rintro _ _ ⟨⟩ -; rfl
theorem vsar (w : Tolog) : Statement (.vsar w) := by rintro _ _ ⟨⟩ -; rfl
theorem vclz (w : Tolog) : Statement (.vclz w) := by rintro _ _ ⟨⟩ -; rfl
theorem vpopc (w : Tolog) : Statement (.vpopc w) := by rintro _ _ ⟨⟩ -; rfl
theorem vcmp (w : Tolog) : Statement (.vcmp w) := by rintro _ _ ⟨⟩ -; rfl
theorem vsel (w : Tolog) : Statement (.vsel w) := by rintro _ _ ⟨⟩ -; rfl
theorem vrq (w : Tolog) : Statement (.vrq w) := by rintro _ _ ⟨⟩ -; rfl
theorem vadds (w : Tolog) : Statement (.vadds w) := by rintro _ _ ⟨⟩ -; rfl
theorem vsubs (w : Tolog) : Statement (.vsubs w) := by rintro _ _ ⟨⟩ -; rfl
theorem vavg (w : Tolog) : Statement (.vavg w) := by rintro _ _ ⟨⟩ -; rfl
theorem vdot4 (w : Tolog) : Statement (.vdot4 w) := by rintro _ _ ⟨⟩ -; rfl
theorem vmov (w : Tolog) : Statement (.vmov w) := by rintro _ _ ⟨⟩ -; rfl
theorem vext (w : Tolog) : Statement (.vext w) := by rintro _ _ ⟨⟩ -; rfl
theorem vins (w : Tolog) : Statement (.vins w) := by rintro _ _ ⟨⟩ -; rfl
theorem vred (w : Tolog) : Statement (.vred w) := by rintro _ _ ⟨⟩ -; rfl
theorem vscan (w : Tolog) : Statement (.vscan w) := by rintro _ _ ⟨⟩ -; rfl
theorem klog (w : Tolog) : Statement (.klog w) := by
  rintro _ _ ⟨⟩ h
  have h : (!(w.mod.extractLsb' 4 2 == 1)) = true := h
  exact congrArg some (if_neg fun e => by rw [e] at h; cases h)
theorem klogFromv (w : Tolog) : Statement (.klogFromv w) := by
  rintro _ _ ⟨⟩ h
  exact congrArg some (if_pos h)
theorem kpopc (w : Tolog) : Statement (.kpopc w) := by rintro _ _ ⟨⟩ -; rfl
theorem viota (w : Tolog) : Statement (.viota w) := by rintro _ _ ⟨⟩ -; rfl
theorem vfadd (w : Tolog) : Statement (.vfadd w) := by rintro _ _ ⟨⟩ -; rfl
theorem vfsub (w : Tolog) : Statement (.vfsub w) := by rintro _ _ ⟨⟩ -; rfl
theorem vfmul (w : Tolog) : Statement (.vfmul w) := by rintro _ _ ⟨⟩ -; rfl
theorem vfma (w : Tolog) : Statement (.vfma w) := by rintro _ _ ⟨⟩ -; rfl
theorem vfmin (w : Tolog) : Statement (.vfmin w) := by rintro _ _ ⟨⟩ -; rfl
theorem vfmax (w : Tolog) : Statement (.vfmax w) := by rintro _ _ ⟨⟩ -; rfl
theorem vfneg (w : Tolog) : Statement (.vfneg w) := by rintro _ _ ⟨⟩ -; rfl
theorem vfcmp (w : Tolog) : Statement (.vfcmp w) := by rintro _ _ ⟨⟩ -; rfl
theorem vfdiv (w : Tolog) : Statement (.vfdiv w) := by rintro _ _ ⟨⟩ -; rfl
theorem vfsqrt (w : Tolog) : Statement (.vfsqrt w) := by rintro _ _ ⟨⟩ -; rfl
theorem vfrsq (w : Tolog) : Statement (.vfrsq w) := by rintro _ _ ⟨⟩ -; rfl
theorem vfrcp (w : Tolog) : Statement (.vfrcp w) := by rintro _ _ ⟨⟩ -; rfl
theorem vfexp2 (w : Tolog) : Statement (.vfexp2 w) := by rintro _ _ ⟨⟩ -; rfl
theorem vflog2 (w : Tolog) : Statement (.vflog2 w) := by rintro _ _ ⟨⟩ -; rfl
theorem vftrig (w : Tolog) : Statement (.vftrig w) := by rintro _ _ ⟨⟩ -; rfl
theorem vftanh (w : Tolog) : Statement (.vftanh w) := by rintro _ _ ⟨⟩ -; rfl
theorem vfsig (w : Tolog) : Statement (.vfsig w) := by rintro _ _ ⟨⟩ -; rfl
theorem vfcvt (w : Tolog) : Statement (.vfcvt w) := by rintro _ _ ⟨⟩ -; rfl
theorem vicvt (w : Tolog) : Statement (.vicvt w) := by rintro _ _ ⟨⟩ -; rfl
theorem vfdotmx (w : Tolog) : Statement (.vfdotmx w) := by rintro _ _ ⟨⟩ -; rfl
theorem vfscale (w : Tolog) : Statement (.vfscale w) := by rintro _ _ ⟨⟩ -; rfl
theorem vfred (w : Tolog) : Statement (.vfred w) := by rintro _ _ ⟨⟩ -; rfl
theorem vfclass (w : Tolog) : Statement (.vfclass w) := by rintro _ _ ⟨⟩ -; rfl
theorem vftri (w : Tolog) : Statement (.vftri w) := by rintro _ _ ⟨⟩ -; rfl
theorem vfpack (w : Tolog) : Statement (.vfpack w) := by rintro _ _ ⟨⟩ -; rfl
theorem vfunpk (w : Tolog) : Statement (.vfunpk w) := by rintro _ _ ⟨⟩ -; rfl
theorem vld (w : Tolog) : Statement (.vld w) := by rintro _ _ ⟨⟩ -; rfl
theorem vst (w : Tolog) : Statement (.vst w) := by rintro _ _ ⟨⟩ -; rfl
theorem vlds (w : Tolog) : Statement (.vlds w) := by rintro _ _ ⟨⟩ -; rfl
theorem vsts (w : Tolog) : Statement (.vsts w) := by rintro _ _ ⟨⟩ -; rfl
theorem vgath (w : Tolog) : Statement (.vgath w) := by rintro _ _ ⟨⟩ -; rfl
theorem vscat (w : Tolog) : Statement (.vscat w) := by rintro _ _ ⟨⟩ -; rfl
theorem vldb (w : Tolog) : Statement (.vldb w) := by rintro _ _ ⟨⟩ -; rfl
theorem vstb (w : Tolog) : Statement (.vstb w) := by rintro _ _ ⟨⟩ -; rfl
theorem vldl (w : Tolog) : Statement (.vldl w) := by rintro _ _ ⟨⟩ -; rfl
theorem vstl (w : Tolog) : Statement (.vstl w) := by rintro _ _ ⟨⟩ -; rfl
theorem vperm (w : Tolog) : Statement (.vperm w) := by rintro _ _ ⟨⟩ -; rfl
theorem vrot (w : Tolog) : Statement (.vrot w) := by rintro _ _ ⟨⟩ -; rfl
theorem vzip (w : Tolog) : Statement (.vzip w) := by rintro _ _ ⟨⟩ -; rfl
theorem vuzp (w : Tolog) : Statement (.vuzp w) := by rintro _ _ ⟨⟩ -; rfl
theorem vbcast (w : Tolog) : Statement (.vbcast w) := by rintro _ _ ⟨⟩ -; rfl
theorem vcomp (w : Tolog) : Statement (.vcomp w) := by rintro _ _ ⟨⟩ -; rfl
theorem vexpd (w : Tolog) : Statement (.vexpd w) := by rintro _ _ ⟨⟩ -; rfl
theorem vamo (w : Tolog) : Statement (.vamo w) := by rintro _ _ ⟨⟩ -; rfl
theorem bamov (w : Tolog) : Statement (.bamov w) := by
  rintro _ _ ⟨⟩ h
  have h : (!(w.len == 0 && w.mod.getLsbD 0)) = true := h
  exact congrArg some (if_neg fun e => by rw [e] at h; cases h)
theorem bamovRd (w : Tolog) : Statement (.bamovRd w) := by
  rintro _ _ ⟨⟩ h
  exact congrArg some (if_pos h)
theorem baadd (w : Tolog) : Statement (.baadd w) := by rintro _ _ ⟨⟩ -; rfl
theorem mwld (w : Tolog) : Statement (.mwld w) := by rintro _ _ ⟨⟩ -; rfl
theorem mswap (w : Tolog) : Statement (.mswap w) := by rintro _ _ ⟨⟩ -; rfl
theorem mstrm (w : Tolog) : Statement (.mstrm w) := by rintro _ _ ⟨⟩ -; rfl
theorem mdrain (w : Tolog) : Statement (.mdrain w) := by rintro _ _ ⟨⟩ -; rfl
theorem mzero (w : Tolog) : Statement (.mzero w) := by rintro _ _ ⟨⟩ -; rfl
theorem mspmap (w : Tolog) : Statement (.mspmap w) := by rintro _ _ ⟨⟩ -; rfl
theorem cpy (w : Tolog) : Statement (.cpy w) := by rintro _ _ ⟨⟩ -; rfl
theorem cpy2d (w : Tolog) : Statement (.cpy2d w) := by rintro _ _ ⟨⟩ -; rfl
theorem chtail (w : Tolog) : Statement (.chtail w) := by rintro _ _ ⟨⟩ -; rfl
theorem chseq (w : Tolog) : Statement (.chseq w) := by rintro _ _ ⟨⟩ -; rfl
theorem chwait (w : Tolog) : Statement (.chwait w) := by rintro _ _ ⟨⟩ -; rfl
theorem xbarw (w : Tolog) : Statement (.xbarw w) := by rintro _ _ ⟨⟩ -; rfl
theorem xbarr (w : Tolog) : Statement (.xbarr w) := by rintro _ _ ⟨⟩ -; rfl
theorem bfmt (w : Tolog) : Statement (.bfmt w) := by rintro _ _ ⟨⟩ -; rfl
theorem help (w : Tolog) : Statement (.help w) := by rintro _ _ ⟨⟩ -; rfl
theorem evqr (w : Tolog) : Statement (.evqr w) := by rintro _ _ ⟨⟩ -; rfl
theorem gang (w : Tolog) : Statement (.gang w) := by rintro _ _ ⟨⟩ -; rfl
theorem disband (w : Tolog) : Statement (.disband w) := by rintro _ _ ⟨⟩ -; rfl
theorem bar (w : Tolog) : Statement (.bar w) := by rintro _ _ ⟨⟩ -; rfl
theorem lnkcfg (w : Tolog) : Statement (.lnkcfg w) := by rintro _ _ ⟨⟩ -; rfl
theorem lnkst (w : Tolog) : Statement (.lnkst w) := by rintro _ _ ⟨⟩ -; rfl
theorem rsend (w : Tolog) : Statement (.rsend w) := by rintro _ _ ⟨⟩ -; rfl
theorem rtree (w : Tolog) : Statement (.rtree w) := by rintro _ _ ⟨⟩ -; rfl
theorem tspawn (w : Tolog) : Statement (.tspawn w) := by rintro _ _ ⟨⟩ -; rfl
theorem tdone (w : Tolog) : Statement (.tdone w) := by
  rintro _ _ ⟨⟩ h
  have h : (!w.mod.getLsbD 0) = true := h
  exact congrArg some (if_neg fun e => by rw [e] at h; cases h)
theorem tdoneKill (w : Tolog) : Statement (.tdoneKill w) := by
  rintro _ _ ⟨⟩ h
  exact congrArg some (if_pos h)
theorem tregRel (w : Tolog) : Statement (.tregRel w) := by
  rintro _ _ ⟨⟩ h
  exact congrArg some (if_pos h)
theorem tregRo (w : Tolog) : Statement (.tregRo w) := by
  rintro _ _ ⟨⟩ h
  have h : (!(w.mod == 1)) = true := h
  exact congrArg some (if_neg fun e => by rw [e] at h; cases h)
theorem tqry (w : Tolog) : Statement (.tqry w) := by rintro _ _ ⟨⟩ -; rfl
theorem sfork (w : Tolog) : Statement (.sfork w) := by
  rintro _ _ ⟨⟩ h
  have h : (!w.mod.getLsbD 1) = true := h
  exact congrArg some (if_neg fun e => by rw [e] at h; cases h)
theorem sforkNew (w : Tolog) : Statement (.sforkNew w) := by
  rintro _ _ ⟨⟩ h
  exact congrArg some (if_pos h)
theorem sret (w : Tolog) : Statement (.sret w) := by rintro _ _ ⟨⟩ -; rfl
theorem sjoinArm (w : Tolog) : Statement (.sjoinArm w) := by
  rintro _ _ ⟨⟩ h
  exact congrArg some (if_pos h)
theorem sjoinQ (w : Tolog) : Statement (.sjoinQ w) := by
  rintro _ _ ⟨⟩ h
  have h : (!(w.mod == 0)) = true := h
  exact congrArg some (if_neg fun e => by rw [e] at h; cases h)
theorem sflat (w : Tolog) : Statement (.sflat w) := by rintro _ _ ⟨⟩ -; rfl
theorem sattn (w : Tolog) : Statement (.sattn w) := by rintro _ _ ⟨⟩ -; rfl
theorem sapp (w : Tolog) : Statement (.sapp w) := by rintro _ _ ⟨⟩ -; rfl
theorem spark (w : Tolog) : Statement (.spark w) := by rintro _ _ ⟨⟩ -; rfl
theorem swakeWake (w : Tolog) : Statement (.swakeWake w) := by
  rintro _ _ ⟨⟩ h
  exact congrArg some (if_pos h)
theorem swakePre (w : Tolog) : Statement (.swakePre w) := by
  rintro _ _ ⟨⟩ h
  have e : w.mod = 1 := beq_iff_eq.mp h
  refine congrArg some ((if_neg fun g => ?_).trans (if_pos h))
  rw [e] at g; cases g
theorem swakeExt (w : Tolog) : Statement (.swakeExt w) := by
  rintro _ _ ⟨⟩ h
  have h : (!(w.mod == 0) && !(w.mod == 1)) = true := h
  refine congrArg some ((if_neg fun g => ?_).trans (if_neg fun g => ?_)) <;> (rw [g] at h; simp at h)
theorem smig (w : Tolog) : Statement (.smig w) := by rintro _ _ ⟨⟩ -; rfl
theorem sprune (w : Tolog) : Statement (.sprune w) := by rintro _ _ ⟨⟩ -; rfl
theorem sstep (w : Tolog) : Statement (.sstep w) := by rintro _ _ ⟨⟩ -; rfl
theorem xlinvcWrite (w : Tolog) : Statement (.xlinvcWrite w) := by
  rintro _ _ ⟨⟩ h
  have e : w.ctlIdx = 0x212 := beq_iff_eq.mp h
  exact congrArg some (by simp [mkCtlw, e])
theorem fseedWrite (w : Tolog) : Statement (.fseedWrite w) := by
  rintro _ _ ⟨⟩ h
  have e : w.ctlIdx = 0x012 := beq_iff_eq.mp h
  exact congrArg some (by simp [mkCtlw, e])
theorem tepreqWrite (w : Tolog) : Statement (.tepreqWrite w) := by
  rintro _ _ ⟨⟩ h
  have e : w.ctlIdx = 0x204 := beq_iff_eq.mp h
  exact congrArg some (by simp [mkCtlw, e])
theorem spcfgWrite (w : Tolog) : Statement (.spcfgWrite w) := by
  rintro _ _ ⟨⟩ h
  have e : w.ctlIdx = 0x222 := beq_iff_eq.mp h
  exact congrArg some (by simp [mkCtlw, e])
theorem vdomWrite (w : Tolog) : Statement (.vdomWrite w) := by
  rintro _ _ ⟨⟩ h
  have h : (decide (0x280 ≤ w.ctlIdx) && decide (w.ctlIdx ≤ 0x28B)) = true := h
  simp only [Bool.and_eq_true, decide_eq_true_eq] at h
  refine congrArg some ?_
  simp only [mkCtlw, beq_iff_eq]
  rw [if_neg (by omega), if_neg (by omega), if_neg (by omega), if_neg (by omega), if_pos (by simpa using h)]
theorem hCadd (b a : BitVec 5) : Statement (.hCadd b a) := none_ rfl
theorem hPush (b a : BitVec 5) : Statement (.hPush b a) := none_ rfl
theorem hChap (b a d : BitVec 5) : Statement (.hChap b a d) := none_ rfl
theorem hEvq (b a d : BitVec 5) : Statement (.hEvq b a d) := none_ rfl
theorem hWait (b a d : BitVec 5) : Statement (.hWait b a d) := none_ rfl
theorem rv32imcInstruction (r : Rv) (len : Nat) : Statement (.rv32imcInstruction r len) := none_ rfl
theorem tableWalk (ctx va : Nat) (wr ilv : Bool) : Statement (.tableWalk ctx va wr ilv) := none_ rfl
theorem wakeAliasWrite (p : Nat) (bs : List Byte) : Statement (.wakeAliasWrite p bs) := none_ rfl
theorem bar2Access (wr : Bool) (pa len : Nat) (bs : List Byte) : Statement (.bar2Access wr pa len bs) := none_ rfl
theorem qtailWrite (v : Word) : Statement (.qtailWrite v) := none_ rfl
theorem qkickWrite (v : Word) : Statement (.qkickWrite v) := none_ rfl
theorem load (x : Container) : Statement (.load x) := none_ rfl
theorem keyLoad (key : Nat) (load : Bool) (allot : Ranges) : Statement (.keyLoad key load allot) := none_ rfl
theorem measuredStart (a b : BootTable) : Statement (.measuredStart a b) := none_ rfl
theorem throttleStart (tj pwr : Nat) : Statement (.throttleStart tj pwr) := none_ rfl
theorem throttleEnd (tj pwr : Nat) : Statement (.throttleEnd tj pwr) := none_ rfl
theorem fabMsg (p : Packet) : Statement (.fabMsg p) := none_ rfl
theorem fabRed (p : Packet) : Statement (.fabRed p) := none_ rfl
theorem fabCtr (p : Packet) : Statement (.fabCtr p) := none_ rfl
theorem fabWake (p : Packet) : Statement (.fabWake p) := none_ rfl
theorem sxreq (p : Packet) : Statement (.sxreq p) := none_ rfl
theorem sxack (p : Packet) : Statement (.sxack p) := none_ rfl
theorem sxnak (p : Packet) : Statement (.sxnak p) := none_ rfl
theorem sxpull (p : Packet) : Statement (.sxpull p) := none_ rfl
theorem sxdata (p : Packet) : Statement (.sxdata p) := none_ rfl
theorem sxdone (p : Packet) : Statement (.sxdone p) := none_ rfl
theorem sxfin (p : Packet) : Statement (.sxfin p) := none_ rfl
theorem sxabort (p : Packet) : Statement (.sxabort p) := none_ rfl
theorem rmem (p : Packet) : Statement (.rmem p) := none_ rfl
theorem moved (p : Packet) : Statement (.moved p) := none_ rfl
theorem rspBounce (p : Packet) : Statement (.rspBounce p) := none_ rfl
theorem rspAcknowledge (p : Packet) : Statement (.rspAcknowledge p) := none_ rfl
theorem qbaseWrite (v : Word) : Statement (.qbaseWrite v) := none_ rfl
theorem qdwbWrite (v : Word) : Statement (.qdwbWrite v) := none_ rfl
theorem queueBind (key ctx fn : Nat) : Statement (.queueBind key ctx fn) := none_ rfl
theorem hPulse : Statement (.hPulse) := none_ rfl
theorem helperWake : Statement (.helperWake) := none_ rfl
theorem firingStart : Statement (.firingStart) := none_ rfl
theorem messageArrival : Statement (.messageArrival) := none_ rfl
theorem resultDelivery : Statement (.resultDelivery) := none_ rfl
theorem mxsusDelivery : Statement (.mxsusDelivery) := none_ rfl
theorem cwaitEnd : Statement (.cwaitEnd) := none_ rfl
theorem cwaitTimeout : Statement (.cwaitTimeout) := none_ rfl
theorem monRegistered : Statement (.monRegistered) := none_ rfl
theorem mwaitWake : Statement (.mwaitWake) := none_ rfl
theorem mwaitTimeout : Statement (.mwaitTimeout) := none_ rfl
theorem yieldExpiry : Statement (.yieldExpiry) := none_ rfl
theorem xbarPulse : Statement (.xbarPulse) := none_ rfl
theorem xbarTermFire : Statement (.xbarTermFire) := none_ rfl
theorem xbarStartAction : Statement (.xbarStartAction) := none_ rfl
theorem xbarTimer : Statement (.xbarTimer) := none_ rfl
theorem emptyEntry : Statement (.emptyEntry) := none_ rfl
theorem mwldEntry : Statement (.mwldEntry) := none_ rfl
theorem mswapEntry : Statement (.mswapEntry) := none_ rfl
theorem mstrmEntry : Statement (.mstrmEntry) := none_ rfl
theorem mdrainEntry : Statement (.mdrainEntry) := none_ rfl
theorem mzeroEntry : Statement (.mzeroEntry) := none_ rfl
theorem mspmapEntry : Statement (.mspmapEntry) := none_ rfl
theorem cpyEntry : Statement (.cpyEntry) := none_ rfl
theorem cpy2dEntry : Statement (.cpy2dEntry) := none_ rfl
theorem entryComplete : Statement (.entryComplete) := none_ rfl
theorem folRelease : Statement (.folRelease) := none_ rfl
theorem gangFormed : Statement (.gangFormed) := none_ rfl
theorem linkWordArrival : Statement (.linkWordArrival) := none_ rfl
theorem partialSumArrival : Statement (.partialSumArrival) := none_ rfl
theorem routerMergeSend : Statement (.routerMergeSend) := none_ rfl
theorem routerResponseSplit : Statement (.routerResponseSplit) := none_ rfl
theorem xlinvDone : Statement (.xlinvDone) := none_ rfl
theorem taskQueued : Statement (.taskQueued) := none_ rfl
theorem taskDispatch : Statement (.taskDispatch) := none_ rfl
theorem taskAgePreempt : Statement (.taskAgePreempt) := none_ rfl
theorem entryEdge : Statement (.entryEdge) := none_ rfl
theorem quiescence : Statement (.quiescence) := none_ rfl
theorem tregFlush : Statement (.tregFlush) := none_ rfl
theorem exitDrain : Statement (.exitDrain) := none_ rfl
theorem exitFlush : Statement (.exitFlush) := none_ rfl
theorem exitPublish : Statement (.exitPublish) := none_ rfl
theorem preemptWaitExpiry : Statement (.preemptWaitExpiry) := none_ rfl
theorem preemptSave : Statement (.preemptSave) := none_ rfl
theorem taskRestore : Statement (.taskRestore) := none_ rfl
theorem stageBalance : Statement (.stageBalance) := none_ rfl
theorem streamRelease : Statement (.streamRelease) := none_ rfl
theorem absorb : Statement (.absorb) := none_ rfl
theorem batchForm : Statement (.batchForm) := none_ rfl
theorem batchTimerExpiry : Statement (.batchTimerExpiry) := none_ rfl
theorem joinReduce : Statement (.joinReduce) := none_ rfl
theorem attnTripleMerge : Statement (.attnTripleMerge) := none_ rfl
theorem pendingPark : Statement (.pendingPark) := none_ rfl
theorem wake : Statement (.wake) := none_ rfl
theorem parkTcxExpiry : Statement (.parkTcxExpiry) := none_ rfl
theorem parkTflExpiry : Statement (.parkTflExpiry) := none_ rfl
theorem frameMove : Statement (.frameMove) := none_ rfl
theorem stageA : Statement (.stageA) := none_ rfl
theorem stageB : Statement (.stageB) := none_ rfl
theorem stageC : Statement (.stageC) := none_ rfl
theorem queueEnable : Statement (.queueEnable) := none_ rfl
theorem queueReset : Statement (.queueReset) := none_ rfl
theorem rstdone : Statement (.rstdone) := none_ rfl
theorem qstatRead : Statement (.qstatRead) := none_ rfl
theorem kick : Statement (.kick) := none_ rfl
theorem hostCadd : Statement (.hostCadd) := none_ rfl
theorem amsg : Statement (.amsg) := none_ rfl
theorem hostFence : Statement (.hostFence) := none_ rfl
theorem hwrite : Statement (.hwrite) := none_ rfl
theorem hread : Statement (.hread) := none_ rfl
theorem graphReplay : Statement (.graphReplay) := none_ rfl
theorem graphComplete : Statement (.graphComplete) := none_ rfl
theorem map_ : Statement (.map_) := none_ rfl
theorem unmap : Statement (.unmap) := none_ rfl
theorem keyq : Statement (.keyq) := none_ rfl
theorem hrst : Statement (.hrst) := none_ rfl
theorem preempt : Statement (.preempt) := none_ rfl
theorem getVersion : Statement (.getVersion) := none_ rfl
theorem getCapabilities : Statement (.getCapabilities) := none_ rfl
theorem negotiateAlgorithms : Statement (.negotiateAlgorithms) := none_ rfl
theorem getDigests : Statement (.getDigests) := none_ rfl
theorem getCertificate : Statement (.getCertificate) := none_ rfl
theorem challenge : Statement (.challenge) := none_ rfl
theorem getMeasurements : Statement (.getMeasurements) := none_ rfl
theorem keyExchange : Statement (.keyExchange) := none_ rfl
theorem finish : Statement (.finish) := none_ rfl
theorem endSession : Statement (.endSession) := none_ rfl
theorem heartbeat : Statement (.heartbeat) := none_ rfl
theorem queryDeviceIdentifiers : Statement (.queryDeviceIdentifiers) := none_ rfl
theorem getFirmwareParameters : Statement (.getFirmwareParameters) := none_ rfl
theorem getStatus : Statement (.getStatus) := none_ rfl
theorem requestUpdate : Statement (.requestUpdate) := none_ rfl
theorem passComponentTable : Statement (.passComponentTable) := none_ rfl
theorem updateComponent (comp : Nat) : Statement (.updateComponent comp) := none_ rfl
theorem requestFirmwareData (bs : List Byte) : Statement (.requestFirmwareData bs) := none_ rfl
theorem transferComplete : Statement (.transferComplete) := none_ rfl
theorem verifyComplete (good : Bool) (version : Nat) : Statement (.verifyComplete good version) := none_ rfl
theorem applyComplete : Statement (.applyComplete) := none_ rfl
theorem activateFirmware : Statement (.activateFirmware) := none_ rfl
theorem cancelUpdateComponent : Statement (.cancelUpdateComponent) := none_ rfl
theorem cancelUpdate : Statement (.cancelUpdate) := none_ rfl
theorem lockInterface : Statement (.lockInterface) := none_ rfl
theorem getDeviceInterfaceReport : Statement (.getDeviceInterfaceReport) := none_ rfl
theorem startInterface : Statement (.startInterface) := none_ rfl
theorem stopInterface : Statement (.stopInterface) := none_ rfl
theorem bindingViolation : Statement (.bindingViolation) := none_ rfl
theorem bitmapFlashWrite : Statement (.bitmapFlashWrite) := none_ rfl
theorem rectFence : Statement (.rectFence) := none_ rfl
theorem fenceComplete : Statement (.fenceComplete) := none_ rfl
theorem scrub (a found : Nat) : Statement (.scrub a found) := none_ rfl
theorem domainRaise : Statement (.domainRaise) := none_ rfl
theorem domainWindowExpiry : Statement (.domainWindowExpiry) := none_ rfl
theorem powerRemoval : Statement (.powerRemoval) := none_ rfl
theorem smigTimeout : Statement (.smigTimeout) := none_ rfl
theorem stubExpiry : Statement (.stubExpiry) := none_ rfl
theorem fabTimeout : Statement (.fabTimeout) := none_ rfl
theorem frameResend : Statement (.frameResend) := none_ rfl
theorem portDown : Statement (.portDown) := none_ rfl
theorem linkTraining : Statement (.linkTraining) := none_ rfl
theorem packageReset : Statement (.packageReset) := none_ rfl
theorem copyOnWriteComplete : Statement (.copyOnWriteComplete) := none_ rfl
theorem firmwareRestartComplete : Statement (.firmwareRestartComplete) := none_ rfl
theorem linkKeyRenewal : Statement (.linkKeyRenewal) := none_ rfl
theorem powerFailure : Statement (.powerFailure) := none_ rfl

end Sys2Proof.Laws.Row
end

