-- ==== Sys2Proof/Safety.lean ====
section
/-! DEFINITION. What a sound state and a safe step are. -/

namespace Sys2Proof.Safety

/-- A step is safe where it answers a next state: the machine never stops by itself. -/
def Completes (s : Machine.State) : Prop := ∃ t, Machine.step s = .next t

/-- The byte store is in its canonical form (R6, R181, R313). -/
def Sound (s : Machine.State) : Prop := Machine.Memory.wf s.mem = true

end Sys2Proof.Safety
end

