-- ==== Sys2Proof/Tests/Slice0.lean ====
section
/-! SUPPORT. Tests: decoding, well-formedness, values the spec works out, and the witnesses of the statements' hypotheses. -/

namespace Sys2Proof.Tests
open Sys2Proof.Machine Sys2Proof.Claims
set_option Elab.async false

/-- A word with no guard and no stall. -/
def tw (len mod d a b c e imm : Nat) : Tolog :=
  { len := BitVec.ofNat 2 len, stall := 0, yld := false, ga := 0, na := false, gb := 0, nb := false, ch := 0, mod := BitVec.ofNat 8 mod,
    d := BitVec.ofNat 6 d, a := BitVec.ofNat 6 a, b := BitVec.ofNat 6 b, c := BitVec.ofNat 6 c, e := BitVec.ofNat 6 e, imm := BitVec.ofNat 64 imm }

/-- The same word with a stall, a yield and guards. -/
def guarded (w : Tolog) (stall yld ga na gb nb : Nat) : Tolog :=
  { w with stall := BitVec.ofNat 4 stall, yld := yld == 1, ga := BitVec.ofNat 3 ga, na := na == 1, gb := BitVec.ofNat 3 gb, nb := nb == 1 }

/-- Entries of a handle table: space, base, length, and the third word. -/
def han (space base len w2 : Nat) (w3 : Nat := 0) : Handle :=
  { w0 := wd (2 ^ 63 + space * 2 ^ 60 + base), w1 := wd len, w2 := wd w2, w3 := wd w3 }

/-- A handle's readable and writable bits, and its policy. -/
def rdwr : Nat := 2 ^ 51 + 2 ^ 50
def byp : Nat := 2 ^ 62

/-- A region record of a space, readable and writable. -/
def reg (space base ext : Nat) : Region := { hidx := 2, ofs := 0, ext, mode := .rw, space, base, now := some .rw }

/-- An identity mapping of the first gigabyte for context 0: the context table at 0x100000 and four tables. -/
def tables : Memory :=
  memWrite (memWrite (memWrite (memWrite [] 0x100000 (leBytes 8 0x101001)) 0x101000 (leBytes 8 0x102001)) 0x102000 (leBytes 8 0x103001))
    0x103000 (leBytes 8 0xF)

/-- A stream of die 0 that is running. -/
def live : Stream := { state := .running, kv := true, node := 0xFFFF, key := 0 }

/-- The id of that stream: die 0, entry 16, generation 1. -/
def sid0 : Nat := 2 ^ 16 + 16

/-- A task that runs on core 0 with one band. -/
def job : Task :=
  { state := .running, sid := sid0, regions := [reg 4 0x200000 0x10000, reg 3 0 4096, reg 5 0 0x100000], handles := [],
    tw := [wd (2 ^ 63 + 2 ^ 47 + 2 ^ 46 + 2 ^ 45 + 2 ^ 44 + 16 * 2 ^ 16 + 4 * 2 ^ 8 + 16), wd (4 * 2 ^ 56 + 4 * 2 ^ 52)],
    places := [{ band := 0, member := 0, core := 0, rti := 0 }] }

/-- Its resident record. -/
def res : Resident :=
  { task := 1, spBase := 0, spSize := 0x10000, chBase := 0x10000, chSize := 0x1000, slBase := 0, slSize := 1024, arr := true, xbar := true, links := true,
    helpers := true, cchain := { cfg := wd (4 * 2 ^ 32) }, achain := { cfg := wd (16 + 4 * 2 ^ 32) },
    handles := [(0, han 0 0 1024 rdwr), (1, han 1 0x2000 0x1000 rdwr), (2, han 4 0x200000 0x10000 (byp + rdwr)), (3, han 4 0x200000 0x10000 rdwr),
                (4, han 3 0 4096 (byp + rdwr)), (5, han 5 0 0x100000 (byp + rdwr) sid0)] }

/-- Two actors: the first reads a channel and writes one that it is bound to itself. -/
def actor0 : Actor :=
  { task := 1, rti := 0, idx := 0, entry := 0, cls := 0, priv := true, busy := true, ins := [{ ch := 0, rate := 1, depth := 4, cls := 0, fifo := [7, 8] }],
    outs := [{ ch := 1, rate := 1, tcore := 0, tactor := 0, tch := 0 }] }

/-- A core that runs a firing of that task, with registers `gs`. -/
def rig (gs : List (Nat × Nat)) : State :=
  let d : Die := {}
  let s : State := { State.reset with mem := memWrite tables 0x200000 (leBytes 16 0x8877665544332211), clk := 100 }
  let s := s.setDie 0 { d with xlctx := 0x100000, spcfg := 1, ways := 1, streams := [(16, live)], hbmFree := [0, 1, 2, 3], tesave := 0, tesavesz := 0 }
  let s := (s.setTask 1 job).setResident 0 0 res
  let s := s.setActor 0 0 actor0
  let f : Firing := { priv := true, window := [(0, [0x1234])], sigctl := 0 }
  s.setFiring 0 0 { f with g := gs.foldl (fun v x => if h : x.1 < 64 then v.set x.1 (wd x.2) else v) (f.g.set 4 (wd sid0)) }

/-- Whether an instruction is well formed and issues, passing the checks that precede its own. -/
def issues (i : Instr) (s : State) : Bool :=
  match i.tolog with
  | some (op, w) => i.wf && decide (Issues op w s)
  | none => false

/-- Whether its effect is its own: no trap has been taken and no record posted, and the firing has gone on, waits, or has ended. -/
def acts (i : Instr) (s : State) : Bool :=
  match exec i s with
  | .next t =>
    (t.core 0).evq.isEmpty && (match t.firing 0 0 with
      | some f => f.trapCause == 0 && f.pc != 0 && f.tried.isNone
      | none => true)
  | _ => false

/-- A base word of each instruction of a firing, with its immediate, laid out from the fields of R11 and R12, and the instruction that it is. -/
def words1 : List (Nat × Nat × Instr) :=
  [(96, 0x40030000000000000001, .nop (guarded (tw 1 0 0 0 0 0 0 16387) 0 0 0 0 0 0)), (64, 0xC20400040944, .iadd (guarded (tw 0 0 1 2 3 0 0 0) 1 1 1 1 0 0)),
   (64, 0xC20400089208, .isub (guarded (tw 0 0 1 2 3 0 0 0) 2 0 2 0 1 1)), (64, 0xC204000C134C, .imul (guarded (tw 0 0 1 2 3 0 0 0) 3 1 3 0 1 0)),
   (64, 0xC20408102C10, .imulh (guarded (tw 0 2 1 2 3 0 0 0) 4 0 4 1 2 0)), (64, 0xC20408142554, .idiv (guarded (tw 0 2 1 2 3 0 0 0) 5 1 5 0 2 0)),
   (64, 0xC20408183618, .irem (guarded (tw 0 2 1 2 3 0 0 0) 6 0 6 0 3 0)), (64, 0xC204081CB85C, .imin (guarded (tw 0 2 1 2 3 0 0 0) 7 1 0 1 3 1)),
   (64, 0xC20408204120, .imax (guarded (tw 0 2 1 2 3 0 0 0) 8 0 1 0 4 0)), (64, 0x20400244264, .iabs (guarded (tw 0 0 1 2 0 0 0 0) 9 1 2 0 4 0)),
   (64, 0xC20400285B28, .and_ (guarded (tw 0 0 1 2 3 0 0 0) 10 0 3 1 5 0)), (64, 0xC204002C546C, .or_ (guarded (tw 0 0 1 2 3 0 0 0) 11 1 4 0 5 0)),
   (64, 0xC2040030E530, .xor_ (guarded (tw 0 0 1 2 3 0 0 0) 12 0 5 0 6 1)), (64, 0xC20400346E74, .andn (guarded (tw 0 0 1 2 3 0 0 0) 13 1 6 1 6 0)),
   (64, 0xC20400380038, .shl (guarded (tw 0 0 1 2 3 0 0 0) 14 0 0 0 0 0)), (64, 0xC204003C017C, .shr (guarded (tw 0 0 1 2 3 0 0 0) 15 1 1 0 0 0)),
   (64, 0xC20400401A00, .sar (guarded (tw 0 0 1 2 3 0 0 0) 0 0 2 1 1 0)), (64, 0xC20480449344, .rot (guarded (tw 0 32 1 2 3 0 0 0) 1 1 3 0 1 1)),
   (64, 0x20400482408, .clz (guarded (tw 0 0 1 2 0 0 0 0) 2 0 4 0 2 0)), (64, 0x204004C2D4C, .popc (guarded (tw 0 0 1 2 0 0 0 0) 3 1 5 1 2 0)),
   (96, 0x8010000020408503611, .bfx (guarded (tw 1 2 1 2 0 0 0 2049) 4 0 6 0 3 0)), (96, 0x8010000020400543055, .bfi (guarded (tw 1 0 1 2 0 0 0 2049) 5 1 0 0 3 0)),
   (64, 0x2050858C918, .sext (guarded (tw 0 66 1 2 0 0 0 0) 6 0 1 1 4 1)), (96, 0x400300000004085C425D, .movi (guarded (tw 1 2 1 0 0 0 0 16387) 7 1 2 0 4 0)),
   (64, 0x20400605320, .mov (guarded (tw 0 0 1 2 0 0 0 0) 8 0 3 0 5 0)), (64, 0x40C20400645C64, .sel (guarded (tw 0 0 1 2 3 4 0 0) 9 1 4 1 5 0)),
   (64, 0xC20460686528, .icmp (guarded (tw 0 24 1 2 3 0 0 0) 10 0 5 0 6 0)), (64, 0xC2043C6CE66C, .plog (guarded (tw 0 15 1 2 3 0 0 0) 11 1 6 0 6 1)),
   (64, 0xC20780700830, .lea (guarded (tw 0 224 1 2 3 0 0 0) 12 0 0 1 0 0)), (64, 0x40C20400740174, .imad (guarded (tw 0 0 1 2 3 4 0 0) 13 1 1 0 0 0)),
   (64, 0xC20408781238, .iadds (guarded (tw 0 2 1 2 3 0 0 0) 14 0 2 0 1 0)), (64, 0x2000080A400, .br (guarded (tw 0 0 0 2 0 0 0 0) 0 0 4 0 2 1)),
   (96, 0x40030000000000842545, .bri (guarded (tw 1 0 0 0 0 0 0 16387) 1 1 5 0 2 0)), (96, 0x40030000000400883E09, .call (guarded (tw 1 0 1 0 0 0 0 16387) 2 0 6 1 3 0))]

theorem test_decode_1 : (words1.all fun x => decodeTableWord x.1 x.2.1 == some x.2.2) = true := by decide +kernel

/-- The same, part 2. -/
def words2 : List (Nat × Nat × Instr) :=
  [(64, 0x200008C304C, .ret (guarded (tw 0 0 0 2 0 0 0 0) 3 1 0 0 3 0)), (128, 0x40030000C20000904112, .jtab (guarded (tw 2 0 0 2 3 0 0 16387) 4 0 1 0 4 0)),
   (96, 0x4003000000040094CA55, .loop (guarded (tw 1 0 1 0 0 0 0 16387) 5 1 2 1 4 1)), (64, 0x985318, .fini (guarded (tw 0 0 0 0 0 0 0 0) 6 0 3 0 5 0)),
   (64, 0x9C545C, .abort (guarded (tw 0 0 0 0 0 0 0 0) 7 1 4 0 5 0)), (64, 0xA06D20, .yield (guarded (tw 0 0 0 0 0 0 0 0) 8 0 5 1 6 0)),
   (96, 0x40030000000000A46665, .trap (guarded (tw 1 0 0 0 0 0 0 16387) 9 1 6 0 6 0)), (96, 0x2120000000400A88029, .ctlr (guarded (tw 1 0 1 0 0 0 0 530) 10 0 0 0 0 1)),
   (96, 0x100000020000AC096D, .ctlw (guarded (tw 1 0 0 2 0 0 0 16) 11 1 1 1 0 0)), (64, 0x14CB01230, .fence (guarded (tw 0 83 0 0 0 0 0 0) 12 0 2 0 1 0)),
   (64, 0x400B41374, .clock (guarded (tw 0 0 1 0 0 0 0 0) 13 1 3 0 1 0)), (64, 0x410B82C38, .getid (guarded (tw 0 4 1 0 0 0 0 0) 14 0 4 1 2 0)),
   (64, 0x4BCA57C, .tret (guarded (tw 0 1 0 0 0 0 0 0) 15 1 5 0 2 1)), (96, 0x40030000C20400C03601, .ecall (guarded (tw 1 0 1 2 3 0 0 16387) 0 0 6 0 3 0)),
   (64, 0x41CC43844, .chavl (guarded (tw 0 7 1 0 0 0 0 0) 1 1 0 1 3 0)), (64, 0x2060CC84108, .chrd (guarded (tw 0 131 1 2 0 0 0 0) 2 0 1 0 4 0)),
   (64, 0xC2002CCC424C, .chwr (guarded (tw 0 11 0 2 3 0 0 0) 3 1 2 0 4 0)), (96, 0x40030040C20000D0DB11, .send (guarded (tw 1 0 0 2 3 4 0 16387) 4 0 3 1 5 1)),
   (96, 0x40030040C20000D45455, .sendh (guarded (tw 1 0 0 2 3 4 0 16387) 5 1 4 0 5 0)), (96, 0xC20000D86519, .sendv (guarded (tw 1 0 0 2 3 0 0 0) 6 0 5 0 6 0)),
   (96, 0x4003000002042D004901, .ld (guarded (tw 1 11 1 2 0 0 0 16387) 0 0 1 1 4 0)), (96, 0x40030000C2000D044245, .st (guarded (tw 1 3 0 2 3 0 0 16387) 1 1 2 0 4 0)),
   (96, 0x40030000C20411085309, .ldp (guarded (tw 1 4 1 2 3 0 0 16387) 2 0 3 0 5 0)), (96, 0x40030040C200110CDC4D, .stp (guarded (tw 1 4 0 2 3 4 0 16387) 3 1 4 1 5 1)),
   (96, 0x40030000020201106511, .pref (guarded (tw 1 128 0 2 0 0 0 16387) 4 0 5 0 6 0)), (96, 0x40030040C2056D146655, .amo (guarded (tw 1 91 1 2 3 4 0 16387) 5 1 6 0 6 0)),
   (96, 0x40030040C2054D180819, .cas (guarded (tw 1 83 1 2 3 4 0 16387) 6 0 0 1 0 0)), (96, 0x40030000C2054D1C015D, .incw (guarded (tw 1 83 1 2 3 0 0 16387) 7 1 1 0 0 0)),
   (96, 0x40031440C2054D209221, .faddb (guarded (tw 1 83 1 2 3 4 5 16387) 8 0 2 0 1 1)), (96, 0x40030000C2014D241B65, .cadd (guarded (tw 1 83 0 2 3 0 0 16387) 9 1 3 1 1 0)),
   (96, 0x40030040C2034D241B65, .caddFab (guarded (tw 1 211 0 2 3 4 0 16387) 9 1 3 1 1 0)),
   (96, 0x40031440C2054D282429, .cwait (guarded (tw 1 83 1 2 3 4 5 16387) 10 0 4 0 2 0)),
   (96, 0x4003000002054D2C256D, .cread (guarded (tw 1 83 1 2 0 0 0 16387) 11 1 5 0 2 0)), (96, 0x40030000020001303E31, .mon (guarded (tw 1 0 0 2 0 0 0 16387) 12 0 6 1 3 0))]

theorem test_decode_2 : (words2.all fun x => decodeTableWord x.1 x.2.1 == some x.2.2) = true := by decide +kernel

/-- The same, part 3. -/
def words3 : List (Nat × Nat × Instr) :=
  [(64, 0x2040134B074, .mwait (guarded (tw 0 0 1 2 0 0 0 0) 13 1 0 0 3 1)), (96, 0x210000000401384139, .hld (guarded (tw 1 0 1 0 0 0 0 33) 14 0 1 0 4 0)),
   (96, 0x210000C000013C4A7D, .hst (guarded (tw 1 0 0 0 3 0 0 33) 15 1 2 1 4 0)), (96, 0x40030000C20401405301, .rgchk (guarded (tw 1 0 1 2 3 0 0 16387) 0 0 3 0 5 0)),
   (96, 0x40030000C20001445445, .flushr (guarded (tw 1 0 0 2 3 0 0 16387) 1 1 4 0 5 0)), (96, 0x40030000C2000148ED09, .invr (guarded (tw 1 0 0 2 3 0 0 16387) 2 0 5 1 6 1)),
   (96, 0x40030000C204214C664D, .ldbit (guarded (tw 1 8 1 2 3 0 0 16387) 3 1 6 0 6 0)), (96, 0x40030040C20001500011, .stbit (guarded (tw 1 0 0 2 3 4 0 16387) 4 0 0 0 0 0)),
   (64, 0x1400C20619806500, .vadd (guarded (tw 0 134 1 2 3 0 5 0) 0 0 5 0 6 0)), (64, 0x1400C2061984EE44, .vsub (guarded (tw 0 134 1 2 3 0 5 0) 1 1 6 1 6 1)),
   (64, 0x1400C20739880008, .vmul (guarded (tw 0 206 1 2 3 0 5 0) 2 0 0 0 0 0)), (64, 0x1400C206398C014C, .vmulh (guarded (tw 0 142 1 2 3 0 5 0) 3 1 1 0 0 0)),
   (64, 0x1440C20739901A10, .vmad (guarded (tw 0 206 1 2 3 4 5 0) 4 0 2 1 1 0)), (64, 0x1400C20619941354, .vmin (guarded (tw 0 134 1 2 3 0 5 0) 5 1 3 0 1 0)),
   (64, 0x1400C2061998A418, .vmax (guarded (tw 0 134 1 2 3 0 5 0) 6 0 4 0 2 1)), (64, 0x14000207099C2D5C, .vabs (guarded (tw 0 194 1 2 0 0 5 0) 7 1 5 1 2 0)),
   (64, 0x1400C20609A03620, .vand (guarded (tw 0 130 1 2 3 0 5 0) 8 0 6 0 3 0)), (64, 0x1400C20609A43064, .vor (guarded (tw 0 130 1 2 3 0 5 0) 9 1 0 0 3 0)),
   (64, 0x1400C20609A84928, .vxor (guarded (tw 0 130 1 2 3 0 5 0) 10 0 1 1 4 0)), (64, 0x1400C20739ACC26C, .vshl (guarded (tw 0 206 1 2 3 0 5 0) 11 1 2 0 4 1)),
   (64, 0x1400C20639B05330, .vshr (guarded (tw 0 142 1 2 3 0 5 0) 12 0 3 0 5 0)), (64, 0x1400C20629B45C74, .vsar (guarded (tw 0 138 1 2 3 0 5 0) 13 1 4 1 5 0)),
   (64, 0x1400020609B86538, .vclz (guarded (tw 0 130 1 2 0 0 5 0) 14 0 5 0 6 0)), (64, 0x1400020609BC667C, .vpopc (guarded (tw 0 130 1 2 0 0 5 0) 15 1 6 0 6 0)),
   (64, 0x1400C206C9C08800, .vcmp (guarded (tw 0 178 1 2 3 0 5 0) 0 0 0 1 0 1)), (64, 0x1440C20609C40144, .vsel (guarded (tw 0 130 1 2 3 4 5 0) 1 1 1 0 0 0)),
   (64, 0x1440C20639C81208, .vrq (guarded (tw 0 142 1 2 3 4 5 0) 2 0 2 0 1 0)), (64, 0x1400C20619CC1B4C, .vadds (guarded (tw 0 134 1 2 3 0 5 0) 3 1 3 1 1 0)),
   (64, 0x1400C20619D02410, .vsubs (guarded (tw 0 134 1 2 3 0 5 0) 4 0 4 0 2 0)), (64, 0x1400C20619D4A554, .vavg (guarded (tw 0 134 1 2 3 0 5 0) 5 1 5 0 2 1)),
   (64, 0x1440C20721D83E18, .vdot4 (guarded (tw 0 200 1 2 3 4 5 0) 6 0 6 1 3 0)), (64, 0x1400020619DC305C, .vmov (guarded (tw 0 134 1 2 0 0 5 0) 7 1 0 0 3 0)),
   (64, 0xC20419E04120, .vext (guarded (tw 0 6 1 2 3 0 0 0) 8 0 1 0 4 0)), (64, 0xC20409E44A64, .vins (guarded (tw 0 2 1 2 3 0 0 0) 9 1 2 1 4 0))]

theorem test_decode_3 : (words3.all fun x => decodeTableWord x.1 x.2.1 == some x.2.2) = true := by decide +kernel

/-- The same, part 4. -/
def words4 : List (Nat × Nat × Instr) :=
  [(64, 0x14000206B9E8D328, .vred (guarded (tw 0 174 1 2 0 0 5 0) 10 0 3 0 5 1)), (64, 0x14000206D9EC546C, .vscan (guarded (tw 0 182 1 2 0 0 5 0) 11 1 4 0 5 0)),
   (64, 0xC2043DF06D30, .klog (guarded (tw 0 15 1 2 3 0 0 0) 12 0 5 1 6 0)), (64, 0x20441F06D30, .klogFromv (guarded (tw 0 16 1 2 0 0 0 0) 12 0 5 1 6 0)),
   (64, 0x20401F46674, .kpopc (guarded (tw 0 0 1 2 0 0 0 0) 13 1 6 0 6 0)), (64, 0x1400020609F80038, .viota (guarded (tw 0 130 1 2 0 0 5 0) 14 0 0 0 0 0)),
   (64, 0x1400C207CA001200, .vfadd (guarded (tw 0 242 1 2 3 0 5 0) 0 0 2 0 1 0)), (64, 0x1400C207CA041344, .vfsub (guarded (tw 0 242 1 2 3 0 5 0) 1 1 3 0 1 0)),
   (64, 0x1400C207CA082C08, .vfmul (guarded (tw 0 242 1 2 3 0 5 0) 2 0 4 1 2 0)), (64, 0x1440C207CA0C254C, .vfma (guarded (tw 0 242 1 2 3 4 5 0) 3 1 5 0 2 0)),
   (64, 0x1400C207CA10B610, .vfmin (guarded (tw 0 242 1 2 3 0 5 0) 4 0 6 0 3 1)), (64, 0x1400C207CA143854, .vfmax (guarded (tw 0 242 1 2 3 0 5 0) 5 1 0 1 3 0)),
   (64, 0x140002074A184118, .vfneg (guarded (tw 0 210 1 2 0 0 5 0) 6 0 1 0 4 0)), (64, 0x1400C207CA1C425C, .vfcmp (guarded (tw 0 242 1 2 3 0 5 0) 7 1 2 0 4 0)),
   (64, 0x1400C207CA205B20, .vfdiv (guarded (tw 0 242 1 2 3 0 5 0) 8 0 3 1 5 0)), (64, 0x14000207CA24D464, .vfsqrt (guarded (tw 0 242 1 2 0 0 5 0) 9 1 4 0 5 1)),
   (64, 0x14000207CA286528, .vfrsq (guarded (tw 0 242 1 2 0 0 5 0) 10 0 5 0 6 0)), (64, 0x14000207CA2C6E6C, .vfrcp (guarded (tw 0 242 1 2 0 0 5 0) 11 1 6 1 6 0)),
   (64, 0x14000207CA300030, .vfexp2 (guarded (tw 0 242 1 2 0 0 5 0) 12 0 0 0 0 0)), (64, 0x14000207CA340174, .vflog2 (guarded (tw 0 242 1 2 0 0 5 0) 13 1 1 0 0 0)),
   (64, 0x14000207CA389A38, .vftrig (guarded (tw 0 242 1 2 0 0 5 0) 14 0 2 1 1 1)), (64, 0x14000207CA3C137C, .vftanh (guarded (tw 0 242 1 2 0 0 5 0) 15 1 3 0 1 0)),
   (64, 0x14000207CA402400, .vfsig (guarded (tw 0 242 1 2 0 0 5 0) 0 0 4 0 2 0)), (64, 0x1400C207D2442D44, .vfcvt (guarded (tw 0 244 1 2 3 0 5 0) 1 1 5 1 2 0)),
   (64, 0x1400C207CA483608, .vicvt (guarded (tw 0 242 1 2 3 0 5 0) 2 0 6 0 3 0)), (64, 0x1440C204DE4CB04C, .vfdotmx (guarded (tw 0 55 1 2 3 4 5 0) 3 1 0 0 3 1)),
   (64, 0x1400C207CA504910, .vfscale (guarded (tw 0 242 1 2 3 0 5 0) 4 0 1 1 4 0)), (64, 0x14000207CA544254, .vfred (guarded (tw 0 242 1 2 0 0 5 0) 5 1 2 0 4 0)),
   (64, 0x14000207CA585318, .vfclass (guarded (tw 0 242 1 2 0 0 5 0) 6 0 3 0 5 0)), (64, 0x1400C206C25C5C5C, .vftri (guarded (tw 0 176 1 2 3 0 5 0) 7 1 4 1 5 0)),
   (64, 0x14400207DE60E520, .vfpack (guarded (tw 0 247 1 2 0 4 5 0) 8 0 5 0 6 1)), (64, 0x14400207DE646664, .vfunpk (guarded (tw 0 247 1 2 0 4 5 0) 9 1 6 0 6 0)),
   (96, 0x40031400020626803E01, .vld (guarded (tw 1 137 1 2 0 0 5 16387) 0 0 6 1 3 0)), (96, 0x40031400C2020A843045, .vst (guarded (tw 1 130 0 2 3 0 5 16387) 1 1 0 0 3 0))]

theorem test_decode_4 : (words4.all fun x => decodeTableWord x.1 x.2.1 == some x.2.2) = true := by decide +kernel

/-- The same, part 5. -/
def words5 : List (Nat × Nat × Instr) :=
  [(96, 0x40031400C2062688C109, .vlds (guarded (tw 1 137 1 2 3 0 5 16387) 2 0 1 0 4 1)), (96, 0x40031440C2020A8C4A4D, .vsts (guarded (tw 1 130 0 2 3 4 5 16387) 3 1 2 1 4 0)),
   (96, 0x40031400C20626905311, .vgath (guarded (tw 1 137 1 2 3 0 5 16387) 4 0 3 0 5 0)),
   (96, 0x40031440C2020A945455, .vscat (guarded (tw 1 130 0 2 3 4 5 16387) 5 1 4 0 5 0)),
   (96, 0x40031400C20622986D19, .vldb (guarded (tw 1 136 1 2 3 0 5 16387) 6 0 5 1 6 0)), (96, 0x40031440C202029CE65D, .vstb (guarded (tw 1 128 0 2 3 4 5 16387) 7 1 6 0 6 1)),
   (96, 0x1400020626A00021, .vldl (guarded (tw 1 137 1 2 0 0 5 0) 8 0 0 0 0 0)), (96, 0x1400C2020AA40965, .vstl (guarded (tw 1 130 0 2 3 0 5 0) 9 1 1 1 0 0)),
   (64, 0x1400C2060AA81228, .vperm (guarded (tw 0 130 1 2 3 0 5 0) 10 0 2 0 1 0)), (64, 0x1400C2060AAC136C, .vrot (guarded (tw 0 130 1 2 3 0 5 0) 11 1 3 0 1 0)),
   (64, 0x1400C2060AB0AC30, .vzip (guarded (tw 0 130 1 2 3 0 5 0) 12 0 4 1 2 1)), (64, 0x1400C2060AB42574, .vuzp (guarded (tw 0 130 1 2 3 0 5 0) 13 1 5 0 2 0)),
   (64, 0x1400C2062AB83638, .vbcast (guarded (tw 0 138 1 2 3 0 5 0) 14 0 6 0 3 0)), (64, 0xC2040ABC387C, .vcomp (guarded (tw 0 2 1 2 3 0 0 0) 15 1 0 1 3 0)),
   (64, 0xC2040AC04100, .vexpd (guarded (tw 0 2 1 2 3 0 0 0) 0 0 1 0 4 0)), (96, 0x40031440C2076AC4C245, .vamo (guarded (tw 1 218 1 2 3 4 5 16387) 1 1 2 0 4 1)),
   (64, 0x20402C85B08, .bamov (guarded (tw 0 0 1 2 0 0 0 0) 2 0 3 1 5 0)), (64, 0x20406C85B08, .bamovRd (guarded (tw 0 1 1 2 0 0 0 0) 2 0 3 1 5 0)),
   (64, 0xC20402CC544C, .baadd (guarded (tw 0 0 1 2 3 0 0 0) 3 1 4 0 5 0)), (96, 0x4003140002078300D301, .mwld (guarded (tw 1 224 1 2 0 0 5 16387) 0 0 3 0 5 1)),
   (64, 0x1400000383045C44, .mswap (guarded (tw 0 224 0 0 0 0 5 0) 1 1 4 1 5 0)), (96, 0x40031400C20787086509, .mstrm (guarded (tw 1 225 1 2 3 0 5 16387) 2 0 5 0 6 0)),
   (96, 0x40031440C207EF0C664D, .mdrain (guarded (tw 1 251 1 2 3 4 5 16387) 3 1 6 0 6 0)), (64, 0x1400C00783100810, .mzero (guarded (tw 0 224 1 0 3 0 5 0) 4 0 0 1 0 0)),
   (96, 0x40031400020787148155, .mspmap (guarded (tw 1 225 1 2 0 0 5 16387) 5 1 1 0 0 1)),
   (96, 0x40031440C205EB181219, .cpy (guarded (tw 1 122 1 2 3 4 5 16387) 6 0 2 0 1 0)),
   (128, 0x40031440C205EB1C1B5E, .cpy2d (guarded (tw 2 122 1 2 3 4 5 16387) 7 1 3 1 1 0)), (64, 0x2000F202420, .chtail (guarded (tw 0 3 0 2 0 0 0 0) 8 0 4 0 2 0)),
   (64, 0x40F242564, .chseq (guarded (tw 0 3 1 0 0 0 0 0) 9 1 5 0 2 0)), (64, 0x2000728BE28, .chwait (guarded (tw 0 1 0 2 0 0 0 0) 10 0 6 1 3 1)),
   (96, 0x2100000200032C306D, .xbarw (guarded (tw 1 0 0 2 0 0 0 33) 11 1 0 0 3 0)), (96, 0x210000000403304131, .xbarr (guarded (tw 1 0 1 0 0 0 0 33) 12 0 1 0 4 0)),
   (64, 0xC20003344A74, .bfmt (guarded (tw 0 0 0 2 3 0 0 0) 13 1 2 1 4 0)), (64, 0xF385338, .help (guarded (tw 0 3 0 0 0 0 0 0) 14 0 3 0 5 0))]

theorem test_decode_5 : (words5.all fun x => decodeTableWord x.1 x.2.1 == some x.2.2) = true := by decide +kernel

/-- The same, part 6. -/
def words6 : List (Nat × Nat × Instr) :=
  [(64, 0x4033CD47C, .evqr (guarded (tw 0 0 1 0 0 0 0 0) 15 1 4 0 5 1)), (64, 0xF406D00, .gang (guarded (tw 0 3 0 0 0 0 0 0) 0 0 5 1 6 0)),
   (64, 0x3446644, .disband (guarded (tw 0 0 0 0 0 0 0 0) 1 1 6 0 6 0)), (64, 0xC20003480008, .bar (guarded (tw 0 0 0 2 3 0 0 0) 2 0 0 0 0 0)),
   (96, 0x80100000000034C094D, .lnkcfg (guarded (tw 1 0 0 0 0 0 0 2049) 3 1 1 1 0 0)), (64, 0x403509210, .lnkst (guarded (tw 0 0 1 0 0 0 0 0) 4 0 2 0 1 1)),
   (64, 0xC20003541354, .rsend (guarded (tw 0 0 0 2 3 0 0 0) 5 1 3 0 1 0)), (96, 0x210000C20003582C19, .rtree (guarded (tw 1 0 0 2 3 0 0 33) 6 0 4 1 2 0)),
   (96, 0x40030000C20403800001, .tspawn (guarded (tw 1 0 1 2 3 0 0 16387) 0 0 0 0 0 0)), (64, 0x3840144, .tdone (guarded (tw 0 0 0 0 0 0 0 0) 1 1 1 0 0 0)),
   (64, 0x7840144, .tdoneKill (guarded (tw 0 1 0 0 0 0 0 0) 1 1 1 0 0 0)), (96, 0x30000000007881A09, .tregRel (guarded (tw 1 1 0 0 0 0 0 3) 2 0 2 1 1 0)),
   (96, 0x3000000000B881A09, .tregRo (guarded (tw 1 2 0 0 0 0 0 3) 2 0 2 1 1 0)), (96, 0x10000C004038C934D, .tqry (guarded (tw 1 0 1 0 3 0 0 1) 3 1 3 0 1 1)),
   (96, 0x40030040C20407902411, .sfork (guarded (tw 1 1 1 2 3 4 0 16387) 4 0 4 0 2 0)),
   (96, 0x4003004002040F902411, .sforkNew (guarded (tw 1 3 1 2 0 4 0 16387) 4 0 4 0 2 0)), (64, 0xC20003942D54, .sret (guarded (tw 0 0 0 2 3 0 0 0) 5 1 5 1 2 0)),
   (96, 0x40031440C20403983619, .sjoinArm (guarded (tw 1 0 1 2 3 4 5 16387) 6 0 6 0 3 0)), (96, 0x30000C20407983619, .sjoinQ (guarded (tw 1 1 1 2 3 0 0 3) 6 0 6 0 3 0)),
   (64, 0x204039C305C, .sflat (guarded (tw 0 0 1 2 0 0 0 0) 7 1 0 0 3 0)), (96, 0x40030000C20403A0C921, .sattn (guarded (tw 1 0 1 2 3 0 0 16387) 8 0 1 1 4 1)),
   (96, 0x40030040C20403A44265, .sapp (guarded (tw 1 0 1 2 3 4 0 16387) 9 1 2 0 4 0)), (96, 0x40031440C20403A85329, .spark (guarded (tw 1 0 1 2 3 4 5 16387) 10 0 3 0 5 0)),
   (96, 0x20003AC5C6D, .swakeWake (guarded (tw 1 0 0 2 0 0 0 0) 11 1 4 1 5 0)), (96, 0x20007AC5C6D, .swakePre (guarded (tw 1 1 0 2 0 0 0 0) 11 1 4 1 5 0)),
   (96, 0x4003000002000BAC5C6D, .swakeExt (guarded (tw 1 2 0 2 0 0 0 16387) 11 1 4 1 5 0)),
   (96, 0x40030040C20403B06531, .smig (guarded (tw 1 0 1 2 3 4 0 16387) 12 0 5 0 6 0)), (64, 0x20003B4E674, .sprune (guarded (tw 0 0 0 2 0 0 0 0) 13 1 6 0 6 1)),
   (64, 0x1400C20403B80838, .sstep (guarded (tw 0 0 1 2 3 0 5 0) 14 0 0 1 0 0)), (96, 0x2120000020000AC096D, .xlinvcWrite (guarded (tw 1 0 0 2 0 0 0 530) 11 1 1 1 0 0)),
   (96, 0x120000020000AC096D, .fseedWrite (guarded (tw 1 0 0 2 0 0 0 18) 11 1 1 1 0 0)),
   (96, 0x2040000020000AC096D, .tepreqWrite (guarded (tw 1 0 0 2 0 0 0 516) 11 1 1 1 0 0)),
   (96, 0x2220000020000AC096D, .spcfgWrite (guarded (tw 1 0 0 2 0 0 0 546) 11 1 1 1 0 0)),
   (96, 0x2830000020000AC096D, .vdomWrite (guarded (tw 1 0 0 2 0 0 0 643) 11 1 1 1 0 0))]

theorem test_decode_6 : (words6.all fun x => decodeTableWord x.1 x.2.1 == some x.2.2) = true := by decide +kernel

def scalars : List (Instr × State) :=
  let s := rig [(2, 0xF000000000000081), (3, 200), (5, 0)]
  [(.nop (tw 0 0 0 0 0 0 0 0), s), (.iadd (tw 0 0 1 2 3 0 0 0), s), (.isub (tw 1 1 1 2 0 0 0 5), s), (.imul (tw 0 0 1 2 3 0 0 0), s), (.imulh (tw 0 2 1 2 3 0 0 0), s),
   (.idiv (tw 0 0 1 2 5 0 0 0), s), (.irem (tw 0 0 1 2 5 0 0 0), s), (.imin (tw 0 0 1 2 3 0 0 0), s), (.imax (tw 0 2 1 2 3 0 0 0), s), (.iabs (tw 0 0 1 2 0 0 0 0), s),
   (.imad (tw 0 0 1 2 3 2 0 0), s), (.iadds (tw 0 0 1 2 3 0 0 0), s), (.and_ (tw 0 0 1 2 3 0 0 0), s), (.or_ (tw 0 0 1 2 3 0 0 0), s), (.xor_ (tw 0 0 1 2 3 0 0 0), s),
   (.andn (tw 0 0 1 2 3 0 0 0), s), (.shl (tw 0 0 1 2 3 0 0 0), s), (.shr (tw 0 0 1 2 3 0 0 0), s), (.sar (tw 0 0 1 2 3 0 0 0), s), (.rot (tw 0 32 1 2 3 0 0 0), s),
   (.clz (tw 0 0 1 2 0 0 0 0), s), (.popc (tw 0 0 1 2 0 0 0 0), s), (.bfx (tw 1 0 1 2 0 0 0 0x800), s), (.bfi (tw 1 0 1 2 0 0 0 0x4000), s), (.sext (tw 0 64 1 2 0 0 0 0), s),
   (.movi (tw 2 0 1 0 0 0 0 0xFFFFFFFFFFFFFFFF), s), (.mov (tw 0 0 1 2 0 0 0 0), s), (.sel (tw 0 0 1 2 3 1 0 0), s), (.icmp (tw 0 8 1 2 3 0 0 0), s), (.plog (tw 0 14 1 2 3 0 0 0), s),
   (.lea (tw 0 0x60 1 2 3 0 0 0), s), (.fence (tw 0 0x13 0 0 0 0 0 0), s), (.clock (tw 0 0 1 0 0 0 0 0), s), (.getid (tw 0 0 1 0 0 0 0 0), s), (.getid (tw 0 1 1 0 0 0 0 0), s), (.getid (tw 0 2 1 0 0 0 0 0), s),
   (.getid (tw 0 3 1 0 0 0 0 0), s), (.getid (tw 0 4 1 0 0 0 0 0), s)]

def flow : List (Instr × State) :=
  let s := rig [(1, 1), (2, 0x3FFFC), (3, 5), (5, 7), (6, 2), (7, 0)]
  let table := { s with mem := memWrite s.mem (Loc.sp 0 0x2008) (leBytes 4 64) }
  let f : Firing := (s.firing 0 0).getD {}
  let closed := s.setFiring 0 0 { f with closed := [(1, [5])] }
  [(.br (tw 0 0 0 3 0 0 0 0), rig [(3, 0x3FFE0)]), (.bri (tw 1 0 0 0 0 0 0 64), s), (.call (tw 1 0 1 0 0 0 0 64), s), (.ret (tw 0 0 0 3 0 0 0 0), rig [(3, 32)]), (.loop (tw 1 0 1 0 0 0 0 64), s),
   (.loop (tw 1 0 7 0 0 0 0 64), s), (.jtab (tw 2 0 0 7 5 0 0 0x0008000300000001), s), (.jtab (tw 2 0 0 7 6 0 0 0x0008000300000001), table), (.yield (tw 0 0 0 0 0 0 0 0), s),
   (.fini (tw 0 0 0 0 0 0 0 0), closed), (.abort (tw 0 0 0 0 0 0 0 0), s), (.tret (tw 0 1 0 0 0 0 0 0), s)]

/-- One sample for each channel, send and scalar memory instruction. -/
def memory : List (Instr × State) :=
  let s := rig [(1, 1), (2, 0x10), (3, 5), (5, 7), (6, 2), (7, 0), (8, 2 ^ 14), (9, 0xFFFFFFFFFFFFFFFF)]
  let armed := s.setCore 0 { s.core 0 with monitors := [{ home := 0x8000, slot := 0, dir := 0, registered := true, fired := true }] }
  let fab := { s with pkg := { s.pkg with fabcfg := wd (2 ^ 63 + 0x3E8000A), fabid := wd (1 * 2 ^ 3) } }
  [(.chavl (tw 0 0 1 0 0 0 0 0), s), (.chavl (tw 0 5 1 0 0 0 0 0), s), (.chrd (tw 0 0 1 2 0 0 0 0), s), (.chrd (tw 0 0x80 1 7 0 0 0 0), s), (.chwr (tw 0 1 0 2 3 0 0 0), s),
   (.chwr (tw 0 9 0 2 3 0 0 0), s), (.chwr (tw 0 0x81 0 0 3 0 0 0), s), (.send (tw 1 0 0 7 3 5 0 3), s), (.sendv (tw 1 0 0 7 3 0 0 0), s), (.sendv (tw 1 1 0 0 3 0 0 0), s),
   (.sendh (tw 1 0 0 7 7 5 0 4), s),
   (.ld (tw 1 3 1 2 0 0 0 1), s), (.ld (tw 1 0x0A 1 7 0 0 0 2), s), (.st (tw 1 2 0 2 3 0 0 1), s), (.ldp (tw 1 4 1 7 10 0 0 2), s), (.stp (tw 1 4 0 2 3 5 0 3), s),
   (.pref (tw 1 0 0 2 0 0 0 3), s), (.pref (tw 1 0x80 0 2 0 0 0 3), s), (.amo (tw 1 0x13 1 2 3 0 0 1), s), (.amo (tw 1 0x33 1 2 3 6 0 2), s), (.cas (tw 1 0x13 1 7 3 5 0 2), s),
   (.incw (tw 1 0x12 1 2 3 0 0 1), s), (.faddb (tw 1 0x13 1 2 3 5 1 1), s), (.hld (tw 1 0 1 0 0 0 0 2), s), (.hst (tw 1 0 0 0 3 0 0 0x109), s), (.rgchk (tw 1 0 1 2 3 0 0 2), s),
   (.flushr (tw 1 0 0 2 3 0 0 3), s), (.invr (tw 1 0 0 2 3 0 0 3), s), (.ldbit (tw 1 0 1 2 7 0 0 1), s), (.stbit (tw 1 0 0 2 7 3 0 1), s),
   (.cadd (tw 1 0x53 0 2 3 0 0 1), s), (.caddFab (tw 1 0xD3 0 2 3 7 0 2), fab), (.cread (tw 1 0x53 1 7 0 0 0 2), s), (.cwait (tw 1 0x53 1 7 3 7 1 2), s), (.cwait (tw 1 0x53 1 2 3 7 1 2), s),
   (.cwait (tw 1 0x53 1 2 9 9 1 2), s), (.mon (tw 1 0 0 7 0 0 0 2), s), (.mon (tw 1 0 0 7 0 0 0 2), armed), (.mwait (tw 0 0 1 7 0 0 0 0), s), (.mwait (tw 0 0 1 3 0 0 0 0), armed),
   (.ecall (tw 1 0 1 2 3 0 0 3), s)]

def vectors : List (Instr × State) :=
  let s := rig [(1, 1), (2, 0x10), (3, 5), (5, 7), (6, 2), (7, 0), (8, 64)]
  let x (o : Tolog → Instr) (mod a b c : Nat) : Instr × State := (o (tw 0 mod 1 a b c 0 0), s)
  [x .vadd 2 2 3 0, x .vsub 1 2 3 0, x .vmul 2 2 3 0, x .vmulh 14 2 3 0, x .vmad 2 2 3 4, x .vmin 2 2 3 0, x .vmax 6 2 3 0, x .vabs 2 2 0 0, x .vand 2 2 3 0, x .vor 2 2 3 0, x .vxor 2 2 3 0,
   x .vshl 2 2 3 0, x .vshr 10 2 3 0, x .vsar 2 2 3 0, x .vclz 2 2 0 0, x .vpopc 2 2 0 0, x .vcmp 0x12 2 3 0, x .vsel 2 2 3 4, x .vrq 14 2 3 4, x .vadds 2 2 3 0, x .vsubs 2 2 3 0,
   x .vavg 2 2 3 0, x .vdot4 0 2 3 4, x .vmov 2 2 0 0, x .vext 2 2 3 0, x .vins 2 2 3 0, x .vred 2 2 0 0, x .vscan 2 2 0 0, x .klog 8 2 3 0, x .klogFromv 0x10 2 0 0, x .kpopc 0 2 0 0, x .viota 2 2 0 0,
   x .vfadd 0 2 3 0, x .vfsub 1 2 3 0, x .vfmul 2 2 3 0, x .vfma 0 2 3 4, x .vfmin 0 2 3 0, x .vfmax 0 2 3 0, x .vfneg 0 2 0 0, x .vfcmp 0 2 3 0, x .vfdiv 0 2 3 0, x .vfsqrt 0 2 0 0, x .vfrsq 0 2 0 0,
   x .vfrcp 0 2 0 0, x .vfexp2 0 2 0 0, x .vflog2 0 2 0 0, x .vftrig 0 2 0 0, x .vftanh 0 2 0 0, x .vfsig 0 2 0 0, x .vfcvt 0 2 1 0, x .vicvt 0 2 0 0, x .vfscale 0 2 3 0, x .vfred 0 2 0 0, x .vfclass 0 2 0 0,
   x .vftri 0x30 2 3 0, x .vfpack 7 2 0 0, x .vfunpk 7 2 0 0, x .vperm 2 2 3 0, x .vrot 2 2 3 0, x .vzip 2 2 3 0, x .vuzp 2 2 3 0, x .vbcast 2 2 0 0, x .vcomp 2 2 3 0, x .vexpd 2 2 3 0,
   (.vfdotmx (tw 0 7 20 1 2 3 5 0), s), (.bamov (tw 0 0 1 2 0 0 0 0), s), (.bamovRd (tw 0 1 1 2 0 0 0 0), s), (.baadd (tw 0 0 1 2 3 0 0 0), s),
   (.vld (tw 1 2 1 2 0 0 0 1), s), (.vst (tw 1 2 0 2 3 0 0 1), s), (.vlds (tw 1 2 1 2 8 0 0 1), s), (.vsts (tw 1 2 0 2 3 8 0 1), s), (.vgath (tw 1 2 1 2 3 0 0 1), s), (.vscat (tw 1 2 0 2 3 4 0 1), s),
   (.vldb (tw 1 0 1 2 3 0 0 1), s), (.vstb (tw 1 0 0 2 3 4 0 1), s), (.vldl (tw 1 2 1 7 0 0 0 0), s), (.vstl (tw 1 2 0 7 3 0 0 0), s), (.vamo (tw 1 0x12 1 2 3 4 0 1), s)]

/-- One sample for each instruction of the engines, the core's units, gangs, barriers, links and servers. -/
def units : List (Instr × State) :=
  let s := rig [(1, 0), (2, 0x10), (3, 5), (5, 7), (6, 2), (7, 0), (8, 0x100), (10, 2 ^ 63 + 2 ^ 48), (11, 0x1000), (12, 0x3000), (13, 0x40)]
  let record : EvRecord := { w0 := wd (2 ^ 57 + 1), w1 := 7 }
  let queued := s.setCore 0 { s.core 0 with evq := [record] }
  let f : Firing := (s.firing 0 0).getD {}
  let led := s.setFiring 0 0 { f with gang := 2 }
  let chain : Chain := { cfg := wd (4 * 2 ^ 32), tail := 1, tags := [{ seq := 1, started := true }] }
  let busy := s.setResident 0 0 { res with cchain := chain }
  let halted := s.setResident 0 0 { res with cchain := { chain with halted := some 1 } }
  let fab := { s with pkg := { s.pkg with fabcfg := wd (2 ^ 63 + 0x3E8000A), fabid := wd (1 * 2 ^ 3) } }
  [(.mwld (tw 1 0 1 7 0 0 13 0x100), s), (.mswap (tw 0 0 0 0 0 0 13 0), s), (.mstrm (tw 1 0x40 1 7 8 0 13 0x100), s), (.mdrain (tw 1 0 1 7 8 3 13 0), s), (.mzero (tw 0 0 1 0 1 0 13 0), s),
   (.mspmap (tw 1 0 1 7 0 0 13 0xFF), s), (.cpy (tw 1 0 1 7 8 13 13 0x101), s), (.cpy2d (tw 2 0 1 7 8 13 13 0x1000400101), s),
   (.chtail (tw 0 1 0 6 0 0 0 0), s), (.chtail (tw 0 1 0 7 0 0 0 0), halted), (.chseq (tw 0 1 1 0 0 0 0 0), s), (.chseq (tw 0 3 1 0 0 0 0 0), halted), (.chwait (tw 0 1 0 1 0 0 0 0), s),
   (.chwait (tw 0 1 0 6 0 0 0 0), busy), (.xbarw (tw 1 0 0 13 0 0 0 0x10), s), (.xbarw (tw 1 0 0 8 0 0 0 0), s), (.xbarw (tw 1 0 0 8 0 0 0 0x28), s), (.xbarw (tw 1 0 0 7 0 0 0 0x18), s),
   (.xbarr (tw 1 0 1 0 0 0 0 0), s), (.xbarr (tw 1 0 1 0 0 0 0 0x17), s), (.xbarr (tw 1 0 1 0 0 0 0 0x27), s), (.xbarr (tw 1 0 1 0 0 0 0 0x28), s), (.xbarr (tw 1 0 1 0 0 0 0 0x29), s),
   (.bfmt (tw 0 0 0 13 0 0 0 0), s), (.help (tw 0 3 0 0 0 0 0 0), s), (.evqr (tw 0 0 1 0 0 0 0 0), s), (.evqr (tw 0 0 1 0 0 0 0 0), queued),
   (.gang (tw 0 1 0 0 0 0 0 0), paired s), (.disband (tw 0 0 0 0 0 0 0 0), s), (.disband (tw 0 0 0 0 0 0 0 0), led), (.bar (tw 0 0 0 7 1 0 0 0), s), (.bar (tw 0 0 0 6 1 0 0 0), s),
   (.bar (tw 0 0 0 0 1 0 0 0), s), (.lnkcfg (tw 1 0 0 0 0 0 0 0), s), (.lnkst (tw 0 0 1 0 0 0 0 0), s), (.rsend (tw 0 0 0 11 3 0 0 0), s), (.rsend (tw 0 0 0 10 3 0 0 0), fab),
   (.rtree (tw 1 0 0 14 7 0 0 0x11), rig [(14, 2 ^ 16)])]
where
  /-- Core 1 holds a member of the same band. -/
  paired (s : State) : State :=
    let j := { job with tw := job.tw.set 0 (wd (2 ^ 63 + 2 ^ 48)), places := job.places ++ [{ band := 0, member := 1, core := 1, rti := 0 }] }
    (s.setTask 1 j).setResident 1 0 { res with member := 1 }

/-- One sample for each instruction of tasks, streams and control registers. -/
def services : List (Instr × State) :=
  let s := rig [(1, 1), (2, 0x10), (3, 5), (5, 7), (6, 2), (7, 0), (8, 0x40), (9, 4 * 2 ^ 48), (12, 1), (13, 2 ^ 56), (14, 0x100)]
  let with_ (e : Stream) (s : State) : State := let d := s.die 0; s.setDie 0 { d with streams := [(16, e)] }
  let child := with_ { live with parent := sid0, depth := 1 } s
  let mapped := (fun s : State => let d := s.die 0; s.setDie 0 { d with ipt := [{ holder := sid0, block := 0, frame := 1 }] }) s
  let shared := with_ { live with state := .snapshot, nch := 2 } s
  let parkable : State := { s with pkg := { s.pkg with pkcfg := 1 } }
  let parked (n : Nat) : State := { parkable with pkg := { parkable.pkg with parks := [(0, { state := n, sid := sid0, wake := 0x200040, place := 0x200040 })] } }
  let ready := with_ { live with state := .ready } s
  let fab (s : State) : State := { s with pkg := { s.pkg with fabcfg := wd (2 ^ 63 + 0x3E8000A), fabid := wd (1 * 2 ^ 3) } }
  let desc := { s with mem := memWrite s.mem (Loc.sp 0 0x2040) (leBytes 8 (1 * 2 ^ 54) ++ List.replicate 56 0) }
  let attn := { s with mem := memWrite s.mem (Loc.sp 0 0x2040) (leBytes 8 (3 * 2 ^ 48 + 0x200 + 0x400 * 2 ^ 20) ++ leBytes 8 0 ++ leBytes 8 0 ++ leBytes 8 16 ++ leBytes 8 (256 + 128 * 2 ^ 32) ++ List.replicate 24 0) }
  let ctl (i : Nat) : Instr × State := (.ctlr (tw 1 0 1 0 0 0 0 i), s)
  let put (i v : Nat) : Instr × State := (.ctlw (tw 1 0 0 20 0 0 0 i), rig [(20, v)])
  [(.tspawn (tw 1 0 1 8 6 0 0 1), desc), (.tspawn (tw 1 0 1 8 14 0 0 1), desc), (.tdone (tw 0 0 0 0 0 0 0 0), s), (.tdoneKill (tw 0 1 0 0 0 0 0 0), s), (.tregRel (tw 1 1 0 0 0 0 0 0), s),
   (.tregRo (tw 1 2 0 0 0 0 0 0), s), (.tqry (tw 1 0 1 0 12 0 0 0), s), (.tqry (tw 1 0 1 0 12 0 0 1), s), (.tqry (tw 1 0 1 0 12 0 0 2), s), (.tqry (tw 1 0 1 0 5 0 0 0), s),
   (.sfork (tw 1 0 1 0 7 6 0 0), s), (.sforkNew (tw 1 2 1 0 0 6 0 0), s), (.sret (tw 0 0 0 7 3 0 0 0), child), (.sret (tw 0 0 0 7 3 0 0 0), s), (.sjoinQ (tw 1 1 1 0 7 0 0 0), s),
   (.sjoinArm (tw 1 0 1 8 7 14 7 1), shared), (.sflat (tw 0 0 1 7 0 0 0 0), s), (.sattn (tw 1 0 1 8 7 0 0 1), attn), (.sapp (tw 1 0 1 8 7 6 0 1), mapped), (.spark (tw 1 0 1 8 7 7 7 2), parked 2),
   (.swakeWake (tw 1 0 0 7 0 0 0 0), parked 2), (.swakePre (tw 1 1 0 7 0 0 0 0), parked 2), (.swakeExt (tw 1 2 0 7 0 0 0 5), parked 2), (.swakeExt (tw 1 2 0 7 0 0 0 5), parked 3),
   (.smig (tw 1 0 1 7 3 21 0 0), fab (with_ { live with state := .ready } (rig [(3, 1), (21, 2 * 2 ^ 56 + 2 ^ 48 + 5 * 2 ^ 45 + 0x40)]))), (.sprune (tw 0 0 0 7 0 0 0 0), s), (.sstep (tw 0 0 1 7 3 0 1 0), s), (.sstep (tw 0 0 1 7 3 0 1 0), ready),
   ctl 0x010, ctl 0x030, ctl 0x10F, ctl 0x123, ctl 0x16B, ctl 0x203, ctl 0x235, ctl 0x25A, ctl 0x28B, ctl 0x28D, ctl 0x2FF, ctl 0x400, ctl 0x7FF,
   put 0x010 0xC5, put 0x011 0x7F, put 0x013 1, put 0x023 0x3FFFD, put 0x014 0, put 0x120 (4 * 2 ^ 32), put 0x121 (8 * 2 ^ 32), (.fseedWrite (tw 1 0 0 3 0 0 0 0x012), s), put 0x200 0, put 0x202 0x1111,
   put 0x206 0x1000, put 0x210 0x1000, put 0x211 1,  put 0x240 0xF, put 0x253 3, put 0x257 0x101, put 0x234 0x1000, put 0x259 8, put 0x254 0, put 0x260 0, put 0x27F 0, put 0x230 1, put 0x233 7,
   put 0x236 192, put 0x28E 1500, put 0x2B0 0, put 0x2B1 0x10001, put 0x400 0, put 0x7FF 0x80000000000003FF, (.xlinvcWrite (tw 1 0 0 20 0 0 0 0x212), rig [(20, 0x20001)]),
   (.tepreqWrite (tw 1 0 0 20 0 0 0 0x204), rig [(20, 1)]), (.spcfgWrite (tw 1 0 0 20 0 0 0 0x222), rig [(20, 7)]), (.vdomWrite (tw 1 0 0 20 0 0 0 0x28B), rig [(20, 10)])]

/-- Whether a step changes the machine. -/
def moves (i : Instr) (s : State) : Bool :=
  match exec i s with
  | .next t => t != s
  | _ => false

/-- A state whose step acts on part `n` (and `k`). -/
def on (n k : Nat) (s : State) : State := { s with cur := { n, k } }

/-- A core with a firing's own fields changed, and with another state of its task, core or die. -/
def withFiring (f : Firing → Firing) (s : State) : State := s.setFiring 0 0 (f ((s.firing 0 0).getD {}))
def withCore (f : Core → Core) (s : State) : State := s.setCore 0 (f (s.core 0))
def withDie (f : Die → Die) (s : State) : State := s.setDie 0 (f (s.die 0))
def withPkg (f : Pkg → Pkg) (s : State) : State := { s with pkg := f s.pkg }
def withTask (f : Task → Task) (s : State) : State := s.setTask 1 (f ((s.task 1).getD {}))

/-- A helper that runs, its registers 1 to 8 set. -/
def hart (h : Helper → Helper) (s : State) : State :=
  withCore (fun k => { k with helpers := k.helpers.set 0 (h { held := false, hsel := 0x302, x := (Vector.replicate 32 (0 : BitVec 32)).set 1 0x10000 |>.set 2 5 |>.set 3 0x10080 |>.set 4 0x40 }) }) s

/-- One sample for each form of a helper's instructions. -/
def helpers : List (Instr × State) :=
  let s := hart id (rig [])
  let q := withCore (fun k => { k with evq := [{ w0 := wd (3 * 2 ^ 56) }] }) s
  let asleep := hart (fun h => { h with asleep := some (2, 0, 5), wake1 := true }) (rig [])
  let rv (r : Rv) : Instr × State := (.rv32imcInstruction r 4, s)
  [rv (.lui 5 0x1000), rv (.auipc 5 0x1000), rv (.jal 1 8), rv (.jalr 1 4 4), rv (.branch .eq 1 2 8), rv (.load 4 true 5 1 0), rv (.load 1 false 5 1 1), rv (.load 4 true 5 4 1), rv (.load 4 true 5 2 0x7FFFFFFB),
   rv (.store 4 1 2 0), rv (.store 2 1 2 1), rv (.store 4 4 2 0), rv (.opImm .add 5 2 0xFFFFFFFF), rv (.op .mulhu 5 1 2), rv .fence, rv .wfi, rv .ecall, rv .ebreak, rv .mret, rv (.illegal 0),
   rv (.csr .rw false 5 2 0x340), rv (.csr .rs false 5 0 0xF14), rv (.csr .rw false 5 2 0xF14), rv (.csr .rs true 5 3 0x7C0), rv (.csr .rw false 5 2 0xB80), rv (.csr .rs false 5 0 0x7C8), rv (.csr .rw false 5 2 0x123),
   (.hCadd 2 4, s), (.hPush 2 1, s), (.hPush 2 1, hart (fun h => { h with x := h.x.set 2 0 }) (rig [])), (.hChap 2 1 5, s), (.hChap 0 1 5, s), (.hEvq 0 1 5, q), (.hEvq 0 1 5, withCore (fun k => { k with evq := [{ w0 := wd (3 * 2 ^ 56), psn := true }] }) s), (.hEvq 0 1 5, s), (.hWait 0 0 5, s), (.hWait 0 4 5, s), (.hPulse, s), (.helperWake, asleep)]

/-- One sample for each step of a firing, of the crossbar, of gangs, links, servers, routers and of the table walker. -/
def coreSteps : List (Instr × State) :=
  let s := rig []
  let idle := withCore (fun k => { k with slots := Vector.replicate 8 none }) (withPkg (fun p => p) s)
  let actor : Actor := { actor0 with busy := false, readyAt := some 50 }
  let waits (w : Wait) (s : State) : State := withFiring (fun f => { f with wait := w, nextIssue := 0 }) s
  let armed (m : Monitor) (s : State) : State := withCore (fun k => { k with monitors := [m] }) s
  let mon : Monitor := { home := 0x8000, slot := 0, dir := 0, registered := true, fired := true }
  let xbar (x : Xbar) : State := withCore (fun k => { k with xbar := x }) s
  let merge : Merge := { home := 0x200000, key := 0, addr := 0x200000, n := 8, op := 0, signed := false, scope := 3, born := 0, parts := [{ core := 0, slot := 0, tag := 256, task := 1, val := 5 }] }
  let sum (v : Server) : State := withCore (fun k => { k with server := v }) s
  [(.firingStart, on 0 0 (idle.setActor 0 0 actor)), (.messageArrival, on 0 0 (withCore (fun k => { k with nic := [.actor 1 0 0 0 9] }) s)),
   (.messageArrival, on 0 0 (withCore (fun k => { k with nic := [.actor 1 0 0 0 9] }) (s.setCore 0 { s.core 0 with fenced := true }))),
   (.resultDelivery, on 0 0 (withFiring (fun f => { f with flight := [{ due := none, writes := [.g 9 5] }] }) s)), (.mxsusDelivery, on 0 0 (withFiring (fun f => { f with mxsus := [3] }) s)),
   (.cwaitEnd, on 0 0 (waits (.cwait 0x200000 0 5 none 1 1) s)), (.cwaitTimeout, on 0 0 (waits (.cwait 0x200000 0 0xFFFFFFFFFFFFFFFF (some 99) 1 1) s)),
   (.monRegistered, on 0 0 (armed { mon with registered := false, fired := false } s)), (.mwaitWake, on 0 0 (armed mon (waits (.mwait none 1) s))), (.mwaitTimeout, on 0 0 (armed { mon with fired := false } (waits (.mwait (some 99) 1) s))),
   (.yieldExpiry, on 0 0 (waits (.yield [1] [1] 100) s)), (.xbarPulse, on 0 0 (xbar { pulses := [(3, 99)], counters := (Vector.replicate 16 (0 : Word)).set 0 (wd (2 ^ 21 + 3 * 2 ^ 16 + 4 * 2 ^ 8 + 1)) })),
   (.xbarTermFire, on 0 0 (xbar { terms := (Vector.replicate 8 (0 : Word)).set 0 1, latches := (Vector.replicate 8 (0 : BitVec 32)).set 0 1 })), (.xbarTimer, on 0 0 (xbar { timer := 10, timerAt := 100 })),
   (.xbarStartAction, on 0 0 (xbar { fired := [(0, 99)], starts := (Vector.replicate 16 (0 : Word)).set 2 (wd (2 ^ 15)) })), (.xbarStartAction, on 2 0 (xbar { pending := 4 })),
   (.gangFormed, on 0 0 (waits (.gang 2 none) s)), (.gangFormed, on 0 0 (waits (.gang 2 (some 100)) s)), (.linkWordArrival, on 1 0 (withCore (fun k => { k with arriving := k.arriving.set 1 [(100, 7)] }) s)),
   (.partialSumArrival, on 0 0 (sum { cfg := 0x21, waiting := [(1, false)] })), (.partialSumArrival, on 0 0 (sum { cfg := 0x11, waiting := [(1, false)], parent := wd (2 ^ 16) })),
   (.partialSumArrival, on 0 0 (sum { cfg := 0x11, waiting := [(1, false)], parent := wd (3 * 2 ^ 62), root := 0x200000 })),
   (.routerResponseSplit, on 0 0 (withDie (fun d => { d with merges := [{ merge with old := some 7 }] }) s)),
   (.xlinvDone, on 0 0 (withDie (fun d => { d with xlinvc := wd (2 ^ 63) }) s)), (.tableWalk 0 0x200000 true false, s)]

/-- The state with one entry of words `ws` in a chain of the resident, whose step is current. -/
def entry (arr : Bool) (ws : List Nat) (t : EntryTag) (s : State) : State :=
  let ch : Chain := { cfg := wd ((if arr then 16 else 0) + 4 * 2 ^ 32), tail := 1, tags := [{ t with seq := 1, folDone := true, formats := (List.range 16).map fun b => (b, wd 0x20) }] }
  let s := { s with mem := memWrite s.mem (Loc.sp 0 (if arr then 0x400 else 0)) (ws.flatMap (leBytes 8)) }
  let s := s.setResident 0 0 (if arr then { res with achain := ch } else { res with cchain := ch })
  { s with cur := { core := 0, hart := if arr then 0 else 1, n := 0, k := 1 } }

/-- One sample for each step of the engines. -/
def engines : List (Instr × State) :=
  let s := rig []
  let op (n : Nat) : Nat := n * 2 ^ 56
  let to_ (h o : Nat) : Nat := h * 2 ^ 56 + o
  let ends : EntryTag := { seq := 1, started := true, clock := 100, slot := some 0 }
  [(.mwldEntry, entry true [op 1, 0x2000, 0, 0, 0, 0, 0, 0] { seq := 1 } s), (.mwldEntry, entry true [op 1, 0x2001, 0, 0, 0, 0, 0, 0] { seq := 1 } s), (.mswapEntry, entry true [op 2, 0, 0, 0, 0, 0, 0, 0] { seq := 1 } s),
   (.mstrmEntry, entry true [op 3, 0x2000, 1, 0, 0, 0, 0, 0] { seq := 1 } s), (.mdrainEntry, entry true [op 4, 0x2000, 1, 0x3F800000, 0, 0, 0, 0] { seq := 1 } s), (.mzeroEntry, entry true [op 5, 0, 0x100, 0, 0, 0, 0, 0] { seq := 1 } s),
   (.mspmapEntry, entry true [op 6, 0, 0, 0xFF, 0, 0, 0, 0] { seq := 1 } s), (.cpyEntry, entry false [op 0x10, to_ 1 0x100, to_ 3 0, 13, 0, 0, 0, 0] { seq := 1 } s),
   (.cpyEntry, entry false [op 0x10, to_ 1 0x100, to_ 9 0, 13, 0, 0, 0, 0] { seq := 1 } s), (.cpy2dEntry, entry false [op 0x11, to_ 1 0x100, to_ 3 0, 0, 0, 4 + 2 ^ 20, 64 + 64 * 2 ^ 32, 0] { seq := 1 } s),
   (.emptyEntry, entry false [0, 0, 0, 0, 0, 0, 0, 0] { seq := 1 } s), (.emptyEntry, entry false [op 0x77, 0, 0, 0, 0, 0, 0, 0] { seq := 1 } s), (.entryComplete, entry false [op 0x10 + 2 ^ 54, 0, 0, 0, to_ 1 0x40 + 2 ^ 48, 0, 0, 0] ends s),
   (.entryComplete, entry true [op 2, 0, 0, 0, 0, 0, 0, 0] { ends with status := 9 } s), (.folRelease, on 0 5 (s.setResident 0 0 { res with cchain := { fol := [(5, 99)] } }))]

/-- One sample for each step of the task engine, of the stream engine and of the park engine. -/
def taskSteps : List (Instr × State) :=
  let s := rig []
  let none_ := withCore (fun k => { k with slots := Vector.replicate 8 none }) s
  let at_ (t : TaskState) (s : State) : State := on 1 0 (withTask (fun j => { j with state := t }) s)
  let typed := withPkg (fun p => { p with placed := [(0, 0), (1, 0)], images := [(0, { actors := [{ entry := 0, priv := false, ins := [], outs := [] }] })] }) (State.reset)
  let fresh (t : TaskState) : State := on 0 0 ((typed.setDie 0 { (typed.die 0) with tasks := [(1, { state := t, tw := [wd (2 ^ 63 + 16 * 2 ^ 16 + 4 * 2 ^ 8 + 16), wd (4 * 2 ^ 56 + 4 * 2 ^ 52)], roles := [some 0] })] }))
  let flush := withTask (fun j => { j with state := .flushing, regions := [{ (reg 4 0x200000 64) with flushing := true }] }) s
  let kind : List Word := [wd (2 ^ 47 + 16 * 2 ^ 16 + 4 * 2 ^ 8 + 16), wd (4 * 2 ^ 56 + 4 * 2 ^ 52)]
  let young := withDie (fun d => { d with tepage := 1, tesavesz := wd (2 ^ 39) }) (withPkg (fun p => { p with placed := [(0, 0)], images := typed.pkg.images }) (withTask (fun j => { j with cls := 3, tw := kind }) s))
  let aged := young.setTask 2 { state := .queued, tw := kind, waitingSince := some 0, roles := [some 0] }
  let stage : InChan := { ch := 0, rate := 1, depth := 4, cls := 0 }
  let balanced := { (on 1 0 (withTask (fun j => { j with tw := [wd (2 ^ 42)], queues := [(0, [stage])] }) s)) with clk := 9000 }
  [(.taskQueued, at_ .waiting (withTask (fun j => { j with preds := some 0 }) s)), (.taskDispatch, fresh .queued), (.taskAgePreempt, on 0 0 aged), (.entryEdge, at_ .placed s), (.entryEdge, at_ .entering s),
   (.quiescence, at_ .running none_), (.tregFlush, on 1 0 flush), (.exitDrain, at_ .draining none_), (.exitFlush, at_ .flushing s), (.exitPublish, at_ .flushing (withTask (fun j => { j with regions := [] }) none_)),
   (.preemptWaitExpiry, at_ .preempting s), (.preemptSave, at_ .preempting (withFiring (fun f => { f with stopped := true }) s)), (.taskRestore, at_ .restoring (withTask (fun j => { j with
     saved := [{ band := 0, member := 0, core := 0, res := res, actors := [], firings := [(0, {})], sp := [], sl := [], array := none, bfmt := [], xbar := none, fwd := none, fifos := [], msgs := [] }] }) none_)), (.stageBalance, balanced)]

def streamSteps : List (Instr × State) :=
  let s := rig []
  let put (xs : List (Nat × Stream)) (s : State) : State := withDie (fun d => { d with streams := xs }) s
  let map_ (m : List Mapping) (s : State) : State := withDie (fun d => { d with ipt := m }) s
  let page : Mapping := { holder := sid0, block := 0, frame := 1 }
  let at_ (s : State) : State := on sid0 0 s
  let child : Stream := { live with parent := sid0, depth := 1, state := .ready }
  let back : Stream := { child with state := .returned, counted := true, rval := 0x3F800000 }
  let group : Stream := { live with state := .snapshot, nch := 1 }
  let wait_ := put [(16, { live with state := .ready, node := 3 })] (withDie (fun d => { d with snode := 0x104000 }) { s with mem := memWrite s.mem 0x104030 (leBytes 8 0 ++ leBytes 8 (1 * 2 ^ 16)) })
  let park (p : Park) (s : State) : State := on 0 0 (withPkg (fun q => { q with parks := [(0, { p with sid := sid0, wake := 0x200040, place := 0x200040 })], pkcfg := 7, cxlSize := 2 ^ 30 }) s)
  let parked := put [(16, { live with state := .parked })] s
  let woken (s : State) : State := withPkg (fun p => { p with wakes := [0] }) s
  let attn : Attn := { slot := 0, d := 1, sid := sid0, key := 0, mode := 0, ftz := false, nanpol := false, fmt := 1, dim := 64, scale := 0, tstr := 256, kofs := 0, vofs := 128, t0 := 0, n := 1,
                       blocks := [(0, 5)], queries := [List.replicate 128 0], out := [], left := [(5, 0)], accs := [(0xFF800000, 0, List.replicate 64 0)] }
  [(.streamRelease, at_ (put [(16, { live with releasing := true })] s)), (.streamRelease, at_ (map_ [page] (put [(16, { live with releasing := true })] s))),
   (.absorb, at_ (put [(16, { group with absorbing := true }), (17, child)] s)), (.absorb, at_ (map_ [page] (put [(16, { group with absorbing := true }), (17, child)] s))),
   (.batchForm, on 0 3 wait_), (.batchTimerExpiry, on 0 3 { wait_ with clk := 2250 }), (.joinReduce, at_ (put [(16, { group with arm := true, nret := 1, kk := 1 }), (17, back)] s)),
   (.attnTripleMerge, on 0 (5 * 64) (withCore (fun k => { k with attns := [attn] }) s)), (.copyOnWriteComplete, on 0 0 (withDie (fun d => { d with copies := [{ holder := sid0, block := 0, src := none, own := false, frame := 2 }] }) s)),
   (.pendingPark, park { state := 1 } (withTask (fun j => { j with sid := 0 }) s)), (.wake, woken (park { state := 2 } parked)), (.wake, woken (park { state := 1 } s)), (.parkTcxExpiry, park { state := 2 } parked),
   (.parkTflExpiry, park { state := 2, steps := 1 } parked), (.frameMove, park { state := 2, steps := 1, todo := [0] } (map_ [{ page with tier := 2 }] parked)), (.frameMove, park { state := 2, todo := [0] } parked),
   (.stageA, park { state := 4, stage := 1 } parked), (.stageB, park { state := 5, stage := 2 } parked), (.stageC, park { state := 6, stage := 3 } parked)]

/-- One sample for each access of the host, each queue entry, service and message of management. -/
noncomputable def hostSteps : List (Instr × State) :=
  let s := rig []
  let q (x : Queue) (s : State) : State := on 0 0 (withPkg (fun p => { p with queues := [(0, x)] }) s)
  let live_ : Queue := { base := 4, en := true, bound := true, tail := 1 }
  let started (ws : List Nat) (s : State) : State := { (q { live_ with started := [(0, ws.map wd)], head := 1 } s) with cur := { n := 0, k := 1 } }
  let ring (op : Nat) (s : State) : State := q live_ { s with mem := memWrite s.mem (2 ^ 64) (leBytes 8 (op * 2 ^ 56)) }
  let to_ (n : Nat) : Nat := n * 2 ^ 56
  let graph : Graph := { np := 0, gdone := 0x200008, gval := 1, grec := 0x200040, tasks := [{ desc := List.replicate 48 0, dsel := 0, preds := [] }] }
  let owned_ := withPkg (fun p => { p with graphs := [(1, { graph, owner := 0 })] }) s
  let run (r : Replay) : State := on 1 0 (withPkg (fun p => { p with runs := [(1, r)], queues := [(0, live_)] }) s)
  let replay : Replay := { queue := 0, key := 0, ctx := 0, graph, descs := [List.replicate 48 0] }
  let asks (svc : Nat) (a b : Word) (s : State) : State := on 0 0 (withCore (fun k => { k with calls := [{ slot := 0, d := 1, svc, a, b, key := 0, ctx := 0 }] }) s)
  let granted := withPkg (fun p => { p with allot := [(0, [(0, 2 ^ 40)])] }) s
  let nego (n k : Nat) : State := withPkg (fun p => { p with spdm := { nego := n, session := k } }) s
  let upd (u : Update) : State := withPkg (fun p => { p with pldm := { state := u } }) s
  let tdi (fn t k : Nat) : State := { (withPkg (fun p => { p with tdisp := [(fn, t)], queues := [(0, { bound := true, fn })] }) s) with cur := { n := fn, k } }
  let park := withPkg (fun p => { p with parks := [(0, { state := 2, sid := sid0, wake := 0x200040, place := 0x200040 })], queues := [(0, live_)] }) s
  [(.wakeAliasWrite 0 [1, 2, 3], on 0 0 park), (.bar2Access true 0x200000 0 [1], on 0 0 s), (.bar2Access false 0x200000 4 [], on 0 0 s), (.qbaseWrite 0x1004, q { bound := true } s), (.qbaseWrite 0x1003, q { bound := true } s),
   (.qtailWrite 5, q { base := 4 } s), (.qkickWrite 0, q { live_ with tail := 0 } s), (.qkickWrite 0, { (q { live_ with kicks := [wd (2 ^ 52)] } owned_) with cur := { n := 0, k := 1 } }), (.qdwbWrite 8, q {} s),
   (.queueEnable, q { bound := true } s), (.queueReset, q live_ s), (.rstdone, q { rst := true } s), (.qstatRead, q { code := 3 } s), (.queueBind 1 2 0, q {} s),
   (.kick, ring 1 s), (.kick, ring 9 s), (.kick, started [to_ 1, 2 ^ 52] owned_), (.hostCadd, started [to_ 2, 0x200008, 5] s), (.amsg, started [to_ 3, 0, 2 ^ 32] s), (.hostFence, started [to_ 4] s),
   (.load {}, started [to_ 5, 0x1000, 0x200040] s), (.hwrite, started [to_ 6, 0x200000, 0x40, 8] s), (.hread, started [to_ 7, 0x200000, 0x40, 8] s), (.graphReplay, run replay), (.graphComplete, run { replay with expanded := true }),
   (.map_, asks 1 0x40000000 2 granted), (.unmap, asks 2 0 2 s), (.keyq, asks 3 0 0 s), (.hrst, asks 4 0 1 s), (.preempt, asks 5 1 0 s),
   (.keyLoad 5 true [], nego 3 2), (.getVersion, s), (.getCapabilities, nego 1 0), (.negotiateAlgorithms, nego 2 0), (.getDigests, nego 3 0), (.getCertificate, nego 3 0), (.challenge, nego 3 0), (.getMeasurements, nego 3 0),
   (.keyExchange, nego 3 0), (.finish, nego 3 1), (.endSession, nego 3 2), (.heartbeat, nego 3 2), (.queryDeviceIdentifiers, s), (.getFirmwareParameters, s), (.getStatus, s), (.requestUpdate, s), (.passComponentTable, upd .learn),
   (.updateComponent 1, upd .ready), (.verifyComplete true 1, upd .verify), (.requestFirmwareData [1], upd .download), (.transferComplete, upd .download), (.applyComplete, upd .apply),
   (.activateFirmware, withPkg (fun p => { p with pldm := { state := .ready, applied := [0] } }) s), (.cancelUpdateComponent, upd .verify), (.cancelUpdate, upd .ready), (.lockInterface, tdi 1 0 0), (.getDeviceInterfaceReport, tdi 1 1 0),
   (.startInterface, tdi 1 1 1), (.stopInterface, tdi 1 2 0), (.bindingViolation, tdi 1 2 0), (.firmwareRestartComplete, withPkg (fun p => { p with restarting := true }) s)]

/-- One sample for each event of reliability, power and the fabric. -/
noncomputable def packageSteps : List (Instr × State) :=
  let fab (s : State) : State := withPkg (fun p => { p with fabcfg := wd (2 ^ 63 + 0x3E8000A), fabid := wd (1 * 2 ^ 3), fabin := [(0, wd (2 ^ 63))], fablnk := p.fablnk.set 16 2 }) s
  let s := rig []
  let f := fab s
  let from_ (cls op : Nat) : Packet := { cls, op, dpkg := 0, spkg := 1 }
  let stub : Stub := { old := sid0, pkg := 1, new := 5, ends := 100 }
  let out : OutMig := { pkg := 1, die := 0, stub := 5, prev := .ready, start := 0, core := 0, slot := 0, d := 1, task := 1, key := 0, cplace := 0x200008, ckey := 0, cval := 1, caddr := 0x200008 }
  let leaving (m : OutMig) (s : State) : State := fab (withDie (fun d => { d with streams := [(16, { live with state := .migrating })], outMigs := [(sid0, m)] }) s)
  let entering (m : InMig) (s : State) : State := fab (withDie (fun d => { d with streams := [(16, { live with state := .migrating })], inMigs := [(sid0, m)] }) s)
  let inc : InMig := { pkg := 1, old := 9, count := 1 }
  let sent (p : Packet) : State := withPkg (fun q => { q with fabOut := [{ clk := 0, port := some 0, p }] }) f
  let own_ : Packet := { cls := 3, dpkg := 1, spkg := 0, addr := 0x200008, val := 1 }
  let late (s : State) : State := { s with clk := 2 ^ 40 }
  [(.measuredStart { ways := [1] } {}, s), (.throttleStart 1680 0, on 0 0 s), (.throttleEnd 0 0, on 0 0 (withDie (fun d => { d with therm := 0x10000 }) s)),
   (.throttleEnd 0 0, on 0 0 (late (withDie (fun d => { d with therm := 0x10000, coolAt := some 0 }) s))), (.throttleEnd 1680 0, on 0 0 (withDie (fun d => { d with coolAt := some 0 }) s)),
   (.scrub 0x200000 2, s), (.scrub (12 * 2 ^ 60 + 2 ^ 8 + 3) 2, s), (.domainRaise, on 0 0 (withDie (fun d => { d with pfthr := 1, domCount := d.domCount.set 0 1, vdom := d.vdom.set 0 20 }) s)), (.bitmapFlashWrite, on 0 0 (withDie (fun d => { d with slpend := 4 }) s)),
   (.rectFence, { s with fenceReq := [17] }), (.fenceComplete, withCore (fun k => { k with fenced := true }) s), (.scrub 0x200000 1, { s with bad := [0x200000] }), (.scrub (11 * 2 ^ 60 + 5 * 2 ^ 14) 1, s), (.domainRaise, on 0 0 (withDie (fun d => { d with pfthr := 1, domCount := d.domCount.set 0 1 }) s)), (.domainWindowExpiry, on 0 0 (late s)), (.powerRemoval, on 1840 0 s), (.packageReset, s), (.powerFailure, s),
   (.fabMsg { (from_ 1 0) with task := 1 }, f), (.fabRed (from_ 2 0), f), (.fabCtr { (from_ 3 0) with addr := 0x200008, val := 1 }, f),
   (.fabWake { (from_ 4 0) with data := List.replicate 64 0 }, withPkg (fun p => { p with parks := [(0, { state := 2, sid := sid0, wake := 0x200040, place := 0x200040 })] }) f), (.rmem { (from_ 6 0) with sid := sid0, addr := 0, val := 8 }, f),
   (.sxreq { (from_ 5 1) with sid := 9, words := List.replicate 16 0 }, f), (.sxack { (from_ 5 2) with sid := sid0, val := 5 }, leaving out s), (.sxnak { (from_ 5 3) with sid := sid0, val := 4 }, leaving out s),
   (.sxpull { (from_ 5 4) with sid := sid0 }, leaving out (withDie (fun d => { d with ipt := [{ holder := sid0, block := 0, frame := 1 }] }) s)), (.sxdata { (from_ 5 5) with sid := 9, data := [1, 2] }, entering inc (withDie (fun d => { d with hbmFree := [] }) s)),
   (.sxdone { (from_ 5 6) with sid := sid0 }, leaving { out with told := true } s), (.sxfin { (from_ 5 7) with sid := 9 }, entering inc s), (.sxabort { (from_ 5 8) with sid := 9 }, entering inc s),
   (.rspAcknowledge { (from_ 7 1) with chan := 3, addr := 0x200008, val := 1 }, sent own_), (.rspBounce { (from_ 7 2) with chan := 3, addr := 0x200008, val := 1 }, sent own_),
   (.moved { (from_ 7 4) with chan := 3, addr := 0x200008, val := 1, x := 1, words := [7] }, sent own_), (.smigTimeout, on sid0 0 (late (leaving out s))), (.stubExpiry, on 0 0 (withDie (fun d => { d with stubs := [stub] }) s)),
   (.fabTimeout, on 0 0 (late (sent own_))), (.frameResend, on 16 0 f), (.linkKeyRenewal, on 16 0 f), (.portDown, on 16 0 f), (.linkTraining, on 1 1 f)]

/-- The result last in flight after an instruction. -/
def gives (i : Instr) (s : State) : List RegWrite × BitVec 7 :=
  match exec i s with
  | .next t => (((t.firing 0 0).bind fun f => f.flight.getLast?).map fun r => (r.writes, r.flags)).getD ([], 0)
  | _ => ([], 0)

/-- The low `w` bits of its vector result, with the flags. -/
def low_ (w : Nat) (i : Instr) (s : State) : Nat × Nat :=
  let r := gives i s
  (match r.1 with
   | [.v _ y _] => y.toNat % 2 ^ w
   | _ => 0, r.2.toNat)

/-- The rig with vector registers set. -/
def vrig (xs : List (Nat × Nat)) (s : State) : State :=
  withFiring (fun f => { f with v := xs.foldl (fun v x => if h : x.1 < 32 then v.set x.1 (BitVec.ofNat 8192 x.2) else v) f.v }) s

/-- A 64-bit word of the scratchpad that `h1` names at offset 16, before and after. -/
def word_ (n : Nat) (s : State) : State := { s with mem := memWrite s.mem (Loc.sp 0 0x2010) (leBytes 8 n) }
def wordAfter (i : Instr) (s : State) : Nat :=
  match exec i s with
  | .next t => number (memRead t.mem (Loc.sp 0 0x2010) 8)
  | _ => 0

/-! ### The spec's own examples -/

/-- The table below R111. -/
theorem test_shifts_and_fields :
    let s (b : Nat) : State := rig [(2, 0xF000000000000081), (3, b)]
    [gives (.shl (tw 0 0 1 2 3 0 0 0)) (s 0x100), gives (.shl (tw 0 0 1 2 3 0 0 0)) (s 64), gives (.sar (tw 0 0 1 2 3 0 0 0)) (s 200), gives (.shr (tw 0 0 1 2 3 0 0 0)) (s 200),
     gives (.rot (tw 0 0 1 2 3 0 0 0)) (s 65), gives (.idiv (tw 0 0 1 2 3 0 0 0)) (s 0), gives (.irem (tw 0 0 1 2 3 0 0 0)) (s 0), gives (.bfx (tw 1 0 1 2 0 0 0 0x800)) (s 0),
     gives (.bfx (tw 1 2 1 2 0 0 0 0x800)) (s 0)] =
    [([.g 1 0xF000000000000081], 0), ([.g 1 0], 0), ([.g 1 0xFFFFFFFFFFFFFFFF], 0), ([.g 1 0], 0), ([.g 1 0xE000000000000103], 0), ([.g 1 0xFFFFFFFFFFFFFFFF], 0),
     ([.g 1 0xF000000000000081], 0), ([.g 1 0xFFFFFFFFFFFFFF81], 0), ([.g 1 0x81], 0)] := by decide +kernel

/-- R110: the signed quotient that overflows, and its remainder. -/
theorem test_division_overflow :
    let s := rig [(2, 2 ^ 63), (3, 2 ^ 64 - 1)]
    [gives (.idiv (tw 0 0 1 2 3 0 0 0)) s, gives (.irem (tw 0 0 1 2 3 0 0 0)) s] = [([.g 1 0x8000000000000000], 0), ([.g 1 0], 0)] := by decide +kernel

/-- The worked conversions of the chapter on lane arithmetic: source code, instruction, result code and flags. -/
theorem test_conversions :
    let s (x : Nat) : State := vrig [(2, x)] (rig [])
    let pack (w mod x : Nat) : Nat × Nat := low_ w (.vfpack (tw 0 mod 1 2 0 0 0 0)) (s x)
    let cvt (w mod x : Nat) : Nat × Nat := low_ w (.vfcvt (tw 0 mod 1 2 0 0 0 0)) (s x)
    [pack 4 0x07 0x40200000, pack 4 0x27 0x40200000, pack 4 0x07 0x40E00000, pack 4 0x0F 0x40E00000, cvt 8 0x03 0x43FA0000, cvt 8 0x43 0x43FA0000, cvt 8 0x0B 0x43FA0000,
     pack 6 0x05 0xBE99999A, cvt 16 0x01 0x7FC01234, pack 4 0x07 0xFFC00000, cvt 8 0x43 0x7F800000] =
    [(4, 1), (5, 1), (7, 5), (7, 1), (0x7F, 5), (0x7E, 5), (0x7E, 5), (0x25, 1), (0x7FC0, 0), (0, 16), (0x7E, 16)] := by decide +kernel

/-- The stochastic example of the same chapter: the result of the first draw, from state 1, which leaves 0x42021. Lane 0 holds two elements of BF16, so
it draws a second time: by R61, 0x42021 gives 0x84000021, 0x84004221 and 0x4080601. -/
theorem test_stochastic_conversion :
    let s := withFiring (fun f => { f with gens := 1 }) (vrig [(2, 0x3F808000)] (rig []))
    let i : Instr := .vfcvt (tw 0 0x29 1 2 0 0 0 0)
    low_ 16 i s = (0x3F80, 1) ∧ (match exec i s with
      | .next t => ((t.firing 0 0).map fun (f : Firing) => f.gens.toNat % 2 ^ 32)
      | _ => none) = some 0x4080601 := by decide +kernel

/-- The two runs of the MX dot product (R245 to R247). -/
theorem test_mx_dot :
    let lanes (xs : List (Nat × Nat)) : Nat := (xs.map fun x => x.2 * 2 ^ (32 * x.1)).sum
    let a := lanes [(0, 0x76543210), (1, 0xFEDCBA98), (2, 0x22222222), (3, 0x11111111), (4, 0xF7E6D5B3), (5, 0x99999999)]
    let b := lanes [(0, 0x22222222), (1, 0x22222222), (2, 0xFEDCBA98), (3, 0x77777777), (4, 0x44444444), (5, 0xAAAAAAAA)]
    let s (first : Nat) : State := vrig [(1, a), (2, b), (3, lanes [(0, first), (1, 0xBC3C), (16, 0x343C4038), (17, 0x3C44)])] (rig [(21, 0x643EC0)])
    [gives (.vfdotmx (tw 0 7 20 1 2 3 21 0)) (s 0x7F383C40), gives (.vfdotmx (tw 0 7 20 1 2 3 21 0)) (s 0x44383C40)] =
    [([.g 20 0x7FC00000], 0), ([.g 20 0xC0280000], 0)] := by decide +kernel

/-- The table below R142: old value, operands, what memory holds after, and the results. -/
theorem test_wrapping_and_bounded_adds :
    let m := 2 ^ 64 - 1
    ([(5, 7), (7, 7), (9, 7), (3, 0), (m - 1, m)].map fun x => let s := word_ x.1 (rig [(2, 0x10), (3, x.2)]); (wordAfter (.incw (tw 1 0x13 1 2 3 0 0 1)) s, (gives (.incw (tw 1 0x13 1 2 3 0 0 1)) s).1)) =
      [(6, [.g 1 5]), (0, [.g 1 7]), (0, [.g 1 9]), (0, [.g 1 3]), (m, [.g 1 (wd (m - 1))])] ∧
    ([(10, 5, 20), (18, 5, 20), (20, 0, 20), (25, 1, 20), (m, 2, m)].map fun x => let s := word_ x.1 (rig [(2, 0x10), (3, x.2.1), (5, x.2.2)]);
        (wordAfter (.faddb (tw 1 0x13 1 2 3 5 1 1)) s, (gives (.faddb (tw 1 0x13 1 2 3 5 1 1)) s).1)) =
      [(15, [.g 1 10, .p 1 false]), (20, [.g 1 18, .p 1 true]), (20, [.g 1 20, .p 1 false]), (25, [.g 1 25, .p 1 true]), (m, [.g 1 (wd m), .p 1 true])] := by decide +kernel

/-- The example of R179: three lanes at one word return 10, 11 and 13, and leave 17. -/
theorem test_vector_atomic_order :
    let s := withFiring (fun f => { f with k := f.k.set 1 7 }) (vrig [(1, 1 + 2 * 2 ^ 32 + 4 * 2 ^ 64)] (word_ 10 (rig [(2, 0x10)])))
    let i : Instr := .vamo (tw 1 0x92 1 2 3 0 1 1)
    (match gives i s with
     | ([.v _ y _], _) => y.toNat % 2 ^ 96
     | _ => 0) = 10 + 11 * 2 ^ 32 + 13 * 2 ^ 64 ∧ wordAfter i s = 17 := by decide +kernel

/-- The helper's encoding example (R204), and words of its RV32IMC instructions as the RISC-V encodings give them. -/
theorem test_decode_helper :
    ([0x00B5000B, 0x0031100B, 0x0031228B, 0x0001328B, 0x0031428B, 0x0000500B, 0x123452B7, 0x00001297, 0x008000EF, 0x004100E7, 0x00208463, 0x00432283, 0x00134283, 0x00532223, 0xFFF30293,
      0x007302B3, 0x027302B3, 0x0FF0000F, 0x00000073, 0x00100073, 0x30200073, 0x10500073, 0x340112F3, 0x7C01E2F3].map (decodeTableWord 32)) =
    (([.hCadd 11 10, .hPush 3 2, .hChap 3 2 5, .hEvq 0 2 5, .hWait 3 2 5, .hPulse] : List Instr) ++ (([.lui 5 0x12345000, .auipc 5 0x1000, .jal 1 8, .jalr 1 2 4, .branch .eq 1 2 8, .load 4 true 5 6 4, .load 1 false 5 6 1,
      .store 4 6 5 4, .opImm .add 5 6 0xFFFFFFFF, .op .add 5 6 7, .op .mul 5 6 7, .fence, .ecall, .ebreak, .mret, .wfi, .csr .rw false 5 2 0x340, .csr .rs true 5 3 0x7C0] : List Rv).map fun r =>
        Instr.rv32imcInstruction r 4)).map some := by decide +kernel

/-- Compressed words (R202): each is the standard instruction that it stands for. -/
theorem test_decode_compressed :
    ([0x4285, 0x829A, 0x929A, 0x4292, 0xC216, 0x40C0, 0xC401, 0xA021, 0x8282, 0x9002, 0x0001, 0x6141, 0x6285, 0x8005, 0x8805, 0x8C05, 0x0040].map (decodeTableWord 16)) =
    (([.opImm .add 5 0 1, .op .add 5 0 6, .op .add 5 5 6, .load 4 true 5 2 4, .store 4 2 5 4, .load 4 true 8 9 4, .branch .eq 8 0 8, .jal 0 8, .jalr 0 5 0, .ebreak, .opImm .add 0 0 0, .opImm .add 2 2 16,
      .lui 5 0x1000, .opImm .srl 8 8 1, .opImm .and 8 8 1, .op .sub 8 8 9, .opImm .add 8 2 4] : List Rv).map fun r => some (Instr.rv32imcInstruction r 2)) := by decide +kernel

/-- What does not decode: a reserved length, an unassigned opcode, a helper's custom word with a register where none may stand, the zero word. -/
theorem test_decode_refuses :
    [decodeTableWord 64 3, decodeTableWord 64 0x7C0000, decodeTableWord 32 0x00B5028B, decodeTableWord 32 0x0000700B, decodeTableWord 16 0] = [none, none, none, none, none] := by decide +kernel

/-! ### Ill-formed terms, one for each check -/

theorem test_wf_refuses :
    [(Instr.nop (tw 3 0 0 0 0 0 0 0)).wf, (Instr.iadd (tw 2 0 1 2 3 0 0 0)).wf, (Instr.iadd (tw 0 0x20 1 2 3 0 0 0)).wf, (Instr.iadd (tw 0 0 1 2 3 1 0 0)).wf, (Instr.vadd (tw 0 3 1 2 3 0 0 0)).wf,
     (Instr.vadd (tw 0 2 36 2 3 0 0 0)).wf, (Instr.bfx (tw 1 0 1 2 0 0 0 0)).wf, (Instr.icmp (tw 0 8 8 2 3 0 0 0)).wf, (Instr.iadd (tw 0 0 1 2 3 0 0 5)).wf, (Instr.isub (tw 1 1 1 2 0 0 0 (2 ^ 32))).wf,
     (Instr.cadd (tw 1 0xD3 0 2 3 7 0 2)).wf, (Instr.caddFab (tw 1 0x53 0 2 3 0 0 2)).wf, (Instr.ctlw (tw 1 0 0 2 0 0 0 0x012)).wf, (Instr.fseedWrite (tw 1 0 0 2 0 0 0 0x013)).wf, (Instr.tdone (tw 0 1 0 0 0 0 0 0)).wf,
     (Instr.rv32imcInstruction (.lui 5 1) 4).wf, (Instr.rv32imcInstruction (.jal 1 1) 4).wf, (Instr.rv32imcInstruction (.opImm .add 5 6 0x800) 4).wf, (Instr.rv32imcInstruction (.opImm .sll 5 6 32) 4).wf,
     (Instr.rv32imcInstruction (.opImm .mul 5 6 1) 4).wf, (Instr.rv32imcInstruction (.load 4 false 5 6 0) 4).wf, (Instr.rv32imcInstruction (.store 8 5 6 0) 4).wf, (Instr.rv32imcInstruction (.illegal 0) 4).wf].any id = false := by
  decide +kernel

/-- And well-formed ones beside them. -/
theorem test_wf_takes :
    [(Instr.nop (tw 0 0 0 0 0 0 0 0)).wf, (Instr.iadd (tw 0 0 1 2 3 0 0 0)).wf, (Instr.isub (tw 1 1 1 2 0 0 0 (2 ^ 32 - 1))).wf, (Instr.vadd (tw 0 2 35 2 3 0 0 0)).wf, (Instr.bfx (tw 1 0 1 2 0 0 0 0x4000)).wf,
     (Instr.rv32imcInstruction (.opImm .add 5 6 0x7FF) 4).wf, (Instr.rv32imcInstruction (.opImm .sll 5 6 31) 4).wf].all id = true := by decide +kernel

/-! ### Witnesses: states and operands that meet the hypotheses of the statements -/

/-- Each instruction of these lists is well formed and issues, and its effect is its own: `Issues` and the conditions of the statement about it hold
(`ScalarResults`, `ControlTransfer`, `FiringControl`). -/
theorem test_issue_scalars : (scalars.all fun x => issues x.1 x.2 && acts x.1 x.2) = true := by decide +kernel
theorem test_issue_flow : (flow.all fun x => issues x.1 x.2 && acts x.1 x.2) = true := by decide +kernel

/-- The same for `ChannelAccess`, `Sends`, `ScalarLoads`, `ScalarStores`, `Atomics`, `CounterInstructions`, `MonitorInstructions`. -/
theorem test_issue_memory : (memory.all fun x => issues x.1 x.2 && acts x.1 x.2) = true := by decide +kernel

/-- The same for `VectorIntegers`, `VectorReductions`, `FloatArithmetic`, `FloatConversions`, `FloatReductions`, `VectorMemory`, `LanesAndPermutes`, and for `Frames`. -/
theorem test_issue_vectors : (vectors.all fun x => issues x.1 x.2 && acts x.1 x.2) = true := by decide +kernel

/-- The same for `EngineAppends`, `ChainControl`, `CoreUnits`, `GangsAndBarriers`, `LinksAndServers`. -/
theorem test_issue_units : (units.all fun x => issues x.1 x.2 && acts x.1 x.2) = true := by decide +kernel

/-- The same for `TaskInstructions`, `StreamForks`, `StreamInstructions`, `StreamParking`, `StreamAttention`, `ControlReads`, `ControlWrites`. -/
theorem test_issue_services : (services.all fun x => issues x.1 x.2 && acts x.1 x.2) = true := by decide +kernel

/-- An instruction that issues and takes the trap of its statement: the cause is in the record that its unhandled trap leaves. -/
def traps (cause : Nat) (i : Instr) (s : State) : Bool :=
  issues i s && (match exec i s with
    | .next t => (t.core 0).evq.any fun r => r.w0.toNat / 2 ^ 48 == 2 * 256 + cause
    | _ => false)

/-- Traps of the same statements: a bad target, the `TRAP` cause, a window entry that is not there, a send to no actor, a permission, an unassigned
register, a refused value, an array instruction without the array, and a privileged register. -/
theorem test_issue_traps :
    let s := rig [(2, 2), (3, 5), (5, 7), (6, 0x3FFFC), (7, 0)]
    let without := s.setResident 0 0 { res with arr := false, xbar := false }
    let user := withFiring (fun f => { f with priv := false }) s
    let wrong := s.setCore 0 { s.core 0 with evq := [{ w0 := wd (2 ^ 57 + 1), psn := true }] }
    [traps 0x16 (.evqr (tw 0 0 1 0 0 0 0 0)) wrong, traps 1 (.br (tw 0 0 0 2 0 0 0 0)) s, traps 1 (.ret (tw 0 0 0 6 0 0 0 0)) s, traps 1 (.bri (tw 1 0 0 0 0 0 0 2)) s, traps 1 (.call (tw 1 0 1 0 0 0 0 28)) s, traps 1 (.loop (tw 1 0 3 0 0 0 0 0x40000)) s,
     traps 0x28 (.trap (tw 1 0 0 0 0 0 0 9)) s, traps 0x18 (.chrd (tw 0 0x80 1 3 0 0 0 0)) s, traps 0x1A (.send (tw 1 0 0 6 3 5 0 3)) s, traps 0x1A (.rsend (tw 0 0 0 3 3 0 0 0)) s,
     traps 0x08 (.ctlr (tw 1 0 1 0 0 0 0 0x015)) s, traps 0x08 (.ctlw (tw 1 0 0 6 0 0 0 0x010)) s, traps 0x08 (.ctlw (tw 1 0 0 7 0 0 0 0x200)) user, traps 0x12 (.mswap (tw 0 0 0 0 0 0 7 0)) without,
     traps 0x08 (.xbarw (tw 1 0 0 7 0 0 0 0x10)) without, traps 0x08 (.bfmt (tw 0 0 0 3 0 0 0 0)) s, traps 0x12 (.gang (tw 0 1 0 0 0 0 0 0)) s, traps 0x08 (.rtree (tw 1 0 0 3 7 0 0 0x11)) s].all id = true := by
  decide +kernel

/-- The rules of R30 that come before an instruction's own, each in a state that breaks it and none before it (`IssueChecks`): a link in a gang, privilege, a
wait for a scoreboarded register, an early read of a guard and of a source, poison, failed parity, a guard that fails, an empty link and a poisoned word. -/
theorem test_issue_checks :
    let s := rig [(2, 2)]
    let linked := s.setResident 1 0 res
    let after (i : Instr) (s : State) : Option Firing :=
      match exec i s with
      | .next t => t.firing 0 0
      | _ => none
    let cause (i : Instr) (s : State) : Bool → Nat → Bool := fun record n => record &&
      (match exec i s with
       | .next t => (t.core 0).evq.any fun r => r.w0.toNat / 2 ^ 48 == 2 * 256 + n
       | _ => false)
    let add : Instr := .iadd (tw 0 0 1 2 3 0 0 0)
    let if_ : Instr := .iadd (guarded (tw 0 0 1 2 3 0 0 0) 0 0 1 0 0 0)
    let early (r : RegWrite) : State := withFiring (fun f => { f with sbchk := 1, flight := [{ due := some 103, writes := [r] }] }) s
    cause (.vadd (tw 0 2 32 2 3 0 0 0)) (withFiring (fun f => { f with gang := 2 }) s) true 5 = true ∧
    cause (.hst (tw 1 0 0 0 3 0 0 1)) (withFiring (fun f => { f with priv := false }) s) true 7 = true ∧
    ((after add (withFiring (fun f => { f with flight := [{ due := none, await := true, writes := [.g 2 0] }] }) s)).map fun f => (f.pc, f.tried.isSome)) = some (0, true) ∧
    cause if_ (early (.p 1 true)) true 6 = true ∧ cause add (early (.g 2 5)) true 6 = true ∧
    (match exec add (withFiring (fun f => { f with poison := [(0, 2)] }) s) with
     | .next t => (t.core 0).evq.any fun r => r.w0.toNat / 2 ^ 48 == 2 * 256 + 0x16
     | _ => false) = true ∧
    cause add (withFiring (fun f => { f with parity := [(0, 2)] }) s) true 0x16 = true ∧ cause if_ (withFiring (fun f => { f with parity := [(2, 1)] }) s) true 0x16 = true ∧
    cause (.vadd (tw 0 2 1 33 3 0 0 0)) (linked.setCore 0 { linked.core 0 with fifos := (linked.core 0).fifos.set 1 [(9, 7)], linkPsn := [(1, 9)] }) true 0x16 = true ∧
    ((after if_ s).map fun f => (f.pc, f.flight.length)) = some (8, 0) ∧
    ((after (.vadd (tw 0 2 1 33 3 0 0 0)) linked).map fun f => (f.pc, f.tried.isSome)) = some (0, true) := by decide +kernel
/-- The steps of the device that are due in these states change the machine: the conditions of `FiringSteps`, `CoreSteps` and `AddressTranslation` hold. -/
theorem test_due_core : (coreSteps.all fun x => moves x.1 x.2) = true := by decide +kernel
/-- The same for `EntryLifetimes`, `ArrayEntries` and `CopyEntries`. -/
theorem test_due_engines : (engines.all fun x => moves x.1 x.2) = true := by decide +kernel
/-- The same for `TaskStarts`, `TaskEnds` and `TaskSaves`. -/
theorem test_due_tasks : (taskSteps.all fun x => moves x.1 x.2) = true := by decide +kernel
/-- The same for `StreamSteps` and `ParkSteps`. -/
theorem test_due_streams : (streamSteps.all fun x => moves x.1 x.2) = true := by decide +kernel
/-- The same for `HelperInstructions` and `HelperCustoms`. -/
theorem test_due_helpers : (helpers.all fun x => moves x.1 x.2) = true := by decide +kernel
/-- The same for `HostAccess`, `QueueEntries`, `GraphReplays`, `FirmwareServices` and `TrustServices`. -/
theorem test_due_host : (hostSteps.all fun x => moves x.1 x.2) = true := by decide +kernel
/-- The same for `CorrectedErrors`, `FencesAndResets`, `FabricArrivals`, `Migration` and `FabricLinks`. -/
theorem test_due_package : (packageSteps.all fun x => moves x.1 x.2) = true := by decide +kernel

/-- Memory is in its canonical form after reset (`MemoryInvariant`). -/
theorem test_reset_wf : Memory.wf State.reset.mem = true := by decide

/-- The premises of `StepRuns`: a step that the clock forces, a firing picked whose word can be fetched and decodes, one in error, the turn of a helper, what
the instructions of a clock leave, an event that waits, a step whose clock is open, and a clock with nothing due. -/
theorem test_step_cases :
    let s := rig []
    let quiet := withCore (fun k => { k with slots := Vector.replicate 8 none }) s
    let placed := State.reset.withFetchWord 64 ((Instr.iadd (tw 0 0 1 2 3 0 0 0)).tolog.elim 0 fun x => x.2.bits x.1 |>.toNat)
    let helper := State.reset.withFetchWord 32 0x0031428B
    let leaves : State := { quiet with fenceReq := [0], kills := [(1, none)], inputs := [({}, .powerRemoval)] }
    let wrong : State := { placed with bad := [Loc.istore 0 0] }
    let empty : State := { State.reset with clk := 5 }
    (withCore (fun k => { k with xbar := { timer := 10, timerAt := 100 } }) s).forced.isEmpty = false ∧
    placed.inputs = [] ∧ placed.forced = [] ∧ placed.turn = .firings ∧
    (match placed.pickCore placed.coreIds with
     | some (c, k, t) => c == 0 && k == 0 && (match t.firing c k with
       | some f => f.pc % 32 == 0 && decide ((baseWord placed c f.pc).toNat % 4 = 0) && placed.isBad (Loc.istore c f.pc) 8 == false &&
         (match decodeTolog (baseWord placed c f.pc) (immediate placed c f.pc) with
          | .ok (.iadd w) => w == tw 0 0 1 2 3 0 0 0
          | _ => false)
       | none => false)
     | none => false) = true ∧
    helper.inputs = [] ∧ helper.forced = [] ∧ helper.turn = .helper 0 ∧
    ((wrong.pickCore wrong.coreIds).map fun x => (x.1, x.2.1, wrong.isBad (Loc.istore 0 0) 8)) = some (0, 0, true) ∧ wrong.forced = [] ∧ wrong.turn = .firings ∧
    leaves.forced = [] ∧ leaves.turn = .firings ∧ (leaves.pickCore leaves.coreIds).isNone = true ∧
    quiet.forced = [] ∧ quiet.turn = .firings ∧ (quiet.pickCore quiet.coreIds).isNone = true ∧ quiet.optional.isEmpty = false ∧
    empty.forced = [] ∧ empty.turn = .firings ∧ (empty.pickCore empty.coreIds).isNone = true ∧ empty.optional.isEmpty = true ∧ empty.runnable.isEmpty = true := by decide +kernel

/-- The premises of `TrapEntry`: no result awaited, a handler that takes the cause at a legal address; and one that may not take it. -/
theorem test_trap_cases :
    let s := withFiring (fun f => { f with trapVec := 0x101 }) (rig [])
    let t := s.raiseAfter 0 0 0x28 9 0
    let u := s.raiseAfter 0 0 0x16 9 0
    ((s.firing 0 0).map fun f => (f.trapVec.getLsbD 0, f.flight.length)) = some (true, 0) ∧
    ((t.firing 0 0).map fun f => (f.pc, f.trapCause, f.trapPc, f.trapVal, f.trapVec)) = some (0x100, 0x28, 0, 9, 0x100) ∧
    (u.actor 0 0).map (·.faulted) = some true := by decide +kernel

/-- A record that waits in a router, for `CoreSteps`: it may reach its home, or enter the buffer of a later router. -/
theorem test_router_send :
    let m : Merge := { home := 0x200000, key := 0, addr := 0x200000, n := 8, op := 0, signed := false, scope := 3, born := 0, parts := [{ core := 0, slot := 0, tag := 256, task := 1, val := 5 }] }
    let s := withDie (fun d => { d with merges := [m] }) (rig [])
    (s.sendMerge 0 0 != s) = true ∧ (s.moveMerge 0 0 5).2 = true := by decide +kernel

/-- A home in a fenced rectangle (R443): the premise of the negative answers in `Sends`, `TaskEnds`, `StreamSteps`, `FabricArrivals`, `Atomics` and `HostAccess`. -/
theorem test_fenced_home :
    let h := homeSlice 0x200000
    let c := h.1 * 256 + h.2 / 8 * 2 * 16 + h.2 % 8 * 2
    let s := (rig []).setCore c { (rig []).core c with fenced := true }
    s.rangeNack 0x200000 128 = some h.1 ∧ s.sliceFenced h.1 h.2 = true ∧ (s.countNack h.1 != s) = true := by decide +kernel

/-- No access or add of the samples is on its way: `Fresh`, and no release waits (`Frames`, and the statements about memory). -/
theorem test_fresh :
    ((memory ++ vectors ++ scalars).all fun x => (firing x.2).asked.isEmpty && (firing x.2).replies.isEmpty && (firing x.2).issued.isEmpty && !x.2.addsPending 1) = true := by
  decide +kernel

theorem test_trap_address : Legal (BitVec.ofNat 64 (part 0x101 17 2 * 4)) := by unfold Legal; decide

/-- Where a free frame, park record or slot is taken, one is there: the premises of `Migration` (a block that lands), `StreamParking` (a record given) and
`ParkSteps` (a page that moves) whose number is a free value. -/
theorem free_park (s : State) (h : s.pkg.parks = []) : s.freePark.isSome = true := by
  simp [State.freePark, State.free, h, mfree, mget, Nat.mod_lt]
theorem free_slot (s : State) (die tier : Nat) (h : (s.dies.flatMap fun d => (d.2.descs.filter fun x => x.2.tier == tier).map fun x => s.slotRank tier x.2.slot) = [])
    (hd : (s.die die).descs = []) (hn : 0 < s.slotCount tier) : (s.takeSlot die tier).isSome = true := by
  have hc : ¬ s.slotCount tier = 0 := by omega
  have e (n : Nat) : State.slotCount { s with freeCtr := n } tier = s.slotCount tier := rfl
  have d (n : Nat) : (State.die { s with freeCtr := n } die).descs = [] := hd
  simp [State.takeSlot, State.free, h, hc, d, mfree, mget, Nat.mod_lt]
theorem test_free_places :
    let s := rig []
    (s.takeHbm 0).isSome = true ∧ s.freePark.isSome = true ∧ ((withPkg (fun p => { p with cxlSize := 2 ^ 20 }) s).takeSlot 0 2).isSome = true :=
  ⟨by decide +kernel, free_park _ (by decide +kernel), free_slot _ 0 2 (by decide +kernel) (by decide +kernel) (by decide +kernel)⟩

/-- The premises under which `SPARK` writes its record (`StreamParking`): parking on, its own running stream named, the wake line watchable, and a record free. -/
theorem test_spark_accepted :
    let s := withPkg (fun p => { p with pkcfg := 7 }) (rig [(7, 0), (9, 0x8000000001)])
    let w := tw 1 0 1 8 7 7 9 2
    let x := ctx 0xEA w s
    let t := start s
    (issues (.spark w) s && serving t (streamNamed x (x.g w.b)) && t.pkg.pkcfg.getLsbD 0 && (t.parkOf sid0).isNone && (x.res t).holdsKey 0) = true ∧
    (t.stream sid0).map (fun e => (e.state, e.ppnd, e.qcnt, e.key)) = some (.running, false, 0, 0) ∧ streamNamed x (x.g w.b) = sid0 ∧
    (match t.check x.c (x.res t) x.sid (w.imm.toNat % 256) x.off 1 1 .watch [4] true 0 with
     | .ok (u, _) => u.pkg.parks.isEmpty
     | _ => false) = true := by decide +kernel

/-- What each check of R133 answers, in its order: no entry, no permission, past the end, a misaligned one, one in no record, one that passes (`AddressTranslation`). -/
theorem test_check_order :
    let s := rig []
    let check (t : State) (hi off : Nat) (k : Kind) : Option Nat := match t.check 0 res sid0 hi off 8 8 k [1, 3, 4] false 0 with
      | .error (.trap c) => some c
      | .ok _ => none
      | _ => some 0
    let bare := withTask (fun t => { t with regions := [] }) s
    [check s 9 0 .load, check s 0 0 .load, check s 1 0xFFC .load, check s 1 4 .load, check bare 2 0 .load, check s 1 8 .store, check s 2 8 .load] =
      [some 0x11, some 0x12, some 0x10, some 0x15, some 0x13, none, none] := by decide +kernel

/-- A copy whose source, and one whose destination, ends at byte 16 of the handle (`CopyEntries`): the bytes done, and the status. -/
theorem test_copy_stops :
    let word (h off : Nat) : Nat := h * 2 ^ 56 + off
    let left (d t : Nat) : Option (Nat × Nat × Nat) :=
      match exec .cpyEntry (entry false [0x10 * 2 ^ 56, d, t, 64, 0, 0, 0, 0] { seq := 1 } (rig [])) with
      | .next u => ((u.resident 0 0).bind fun r => r.cchain.tags.head?).map fun t => (t.status, t.done, t.faultVal.toNat)
      | _ => none
    left (word 1 0x100) (word 1 0xFF0) = some (3, 16, word 1 0x1000) ∧ left (word 1 0xFF0) (word 1 0x100) = some (3, 16, word 1 0x1000) := by decide +kernel

/-- A record that tells of an `MXSUS` reaches the firing with the record, and not while it is held back (`EntryLifetimes`). -/
theorem test_suspect_told :
    let r : EvRecord := { w0 := wd (2 ^ 56), tells := some (0, 7) }
    let full := withCore (fun k => { k with evq := List.replicate 64 { w0 := 0 } }) (rig [])
    (((rig []).post 0 r).firing 0 0).map (·.mxsus) = some [7] ∧ ((full.post 0 r).firing 0 0).map (·.mxsus) = some [] := by decide +kernel

/-- A write of `VDOM` issues at the end of its clock, and an entry of the crossbar arrives before that (`FiringSteps`, `StepRuns`). -/
theorem test_clock_parts :
    let s := State.reset.placeFiring (((Instr.vdomWrite (tw 1 0 0 2 0 0 0 0x280)).tolog.elim 0 fun x => (x.2.bits x.1).toNat) + 0x280 * 2 ^ 64)
    let t := withCore (fun k => { k with xbar := { pending := 16, starts := (Vector.replicate 16 (0 : Word)).set 4 (wd (2 ^ 15)) } }) (rig [])
    (s.pick 0).isNone = true ∧ (({ s with phase := 2 } : State).pick 0).isSome = true ∧ (s.endClock.phase == 2) = true ∧ t.arrivals.length = 1 := by decide +kernel

/-- Two lanes of an instruction at one address: the record of the later waits for that of the earlier (`CoreSteps`). -/
theorem test_lanes_in_turn :
    let part (i : Nat) : Part := { core := 0, slot := 0, tag := 256 + i, task := 1, val := 5 }
    let m (i : Nat) : Merge := { home := 0x200000, key := 0, addr := 0x200000, n := 8, op := 0, signed := false, scope := 3, born := 0, parts := [part i] }
    let d : Die := { merges := [m 1, m 0] }
    d.laneBefore (m 1) = some 1 ∧ d.laneBefore (m 0) = none := by decide +kernel

end Sys2Proof.Tests
end

section
/-! PROOF. Taking a trap (R27, R100 to R103): what delivering results, disbanding a gang, counting an event, capturing an image and leaving the
slot keep of what a trap reads and what it reports, and from these the two ways in which a trap ends. -/

namespace Sys2Proof.Trapping

open Sys2Proof.Machine Sys2Proof.Claims

/-! ### A firing with its results delivered (R26, R27) -/

/-- Two firings differ at most in the registers, flags and marks that a delivered result writes, and in the results in flight. -/
def SameButResults (f h : Firing) : Prop :=
  h = { f with g := h.g, v := h.v, p := h.p, k := h.k, ba := h.ba, fstat := h.fstat, flagsDue := h.flagsDue, flight := h.flight,
               poison := h.poison, parity := h.parity, clean := h.clean }

theorem SameButResults.refl (f : Firing) : SameButResults f f := rfl

theorem SameButResults.trans {f g h : Firing} (a : SameButResults f g) (b : SameButResults g h) : SameButResults f h := by
  unfold SameButResults at *
  rw [b, a]

theorem sameButResults_put (f : Firing) (x : RegWrite) : SameButResults f (f.put x) := by
  cases x with
  | g r y => simp only [Firing.put]; split <;> rfl
  | v r y m => simp only [Firing.put]; split <;> rfl
  | p r y =>
    simp only [Firing.put]
    split
    · rfl
    · split <;> rfl
  | k r y =>
    simp only [Firing.put]
    split
    · rfl
    · split <;> rfl
  | ba r y => simp only [Firing.put]; split <;> rfl

theorem sameButResults_puts (f : Firing) (xs : List RegWrite) (bad : Bool) : SameButResults f (f.puts xs bad) := by
  have writes : SameButResults f (xs.foldl Firing.put f) :=
    List.foldlRecOn xs Firing.put (.refl f) fun g hg x _ => hg.trans (sameButResults_put g x)
  simp only [Firing.puts]
  split
  · exact writes
  · exact writes.trans rfl

theorem sameButResults_deliver (sel : Result → Bool) (clk : Nat) (rs : List Result) (f : Firing) : SameButResults f (deliver sel clk rs f).2 := by
  induction rs generalizing f with
  | nil => exact .refl f
  | cons r t ih =>
    simp only [deliver]
    split
    · refine SameButResults.trans ?_ (ih _)
      exact (sameButResults_puts f r.writes r.poison).trans rfl
    · exact ih f

theorem sameButResults_mergeFlags (f : Firing) (clk : Nat) : SameButResults f (f.mergeFlags clk) := by
  simp only [Firing.mergeFlags]
  split <;> rfl

theorem sameButResults_drain (f : Firing) (clk : Nat) : SameButResults f (f.drain clk) := by
  simp only [Firing.drain]
  split
  · exact sameButResults_mergeFlags f _
  · exact (sameButResults_deliver _ clk f.flight f).trans rfl

@[simp] theorem drain_flight (f : Firing) (clk : Nat) : (f.drain clk).flight = [] := by
  simp only [Firing.drain]
  split
  · rename_i h
    simp only [Firing.mergeFlags]
    split <;> exact List.isEmpty_iff.mp h
  · rfl

theorem drain_span (f : Firing) (clk : Nat) : (f.drain clk).span = f.span := by
  rw [sameButResults_drain f clk]; rfl

/-! ### What a trap reads of its firing -/

/-- The two firings are one for a trap: the same actor, resident task, sequence number, address and handler. -/
structure SameSource (f g : Firing) : Prop where
  actor : g.actor = f.actor
  rti : g.rti = f.rti
  seqNo : g.seqNo = f.seqNo
  pc : g.pc = f.pc
  trapVec : g.trapVec = f.trapVec

theorem SameSource.refl (f : Firing) : SameSource f f := ⟨rfl, rfl, rfl, rfl, rfl⟩

theorem SameSource.trans {f g h : Firing} (a : SameSource f g) (b : SameSource g h) : SameSource f h :=
  ⟨b.actor.trans a.actor, b.rti.trans a.rti, b.seqNo.trans a.seqNo, b.pc.trans a.pc, b.trapVec.trans a.trapVec⟩

theorem sameSource_drain (f : Firing) (clk : Nat) : SameSource f (f.drain clk) := by
  rw [sameButResults_drain f clk]
  exact ⟨rfl, rfl, rfl, rfl, rfl⟩

/-- Disbanding leaves the firing in its slot (R253): as it was where it leads no gang, and for a trap the same where it does. -/
theorem disband_firing {s : State} {c k : Nat} {f : Firing} (h : s.firing c k = some f) (hf : f.flight = []) :
    ∃ g, (s.disband c k).firing c k = some g ∧ (f.span = 1 → g = f) ∧ g.flight = [] ∧ SameSource f g := by
  by_cases one : f.span = 1
  · exact ⟨f, by simp only [State.disband, h, one, if_true], fun _ => rfl, hf, .refl f⟩
  · simp only [State.disband, h, one, if_false]
    generalize ((gangCores c f.span).drop 1).foldl _ s = u
    refine ⟨_, State.firing_setFiring _ _ (State.slot_lt h), False.elim, drain_flight f u.clk, ?_⟩
    have source := sameSource_drain f u.clk
    exact ⟨source.actor, source.rti, source.seqNo, source.pc, source.trapVec⟩

/-! ### The tables that a trap reads and marks -/

/-- An entry of an actor table without its input channels, which messages and commits change. -/
def bare (a : Actor) : Actor := { a with ins := [] }

/-- The clock, the actors but for their channels, the ids of the resident tasks and the faults of the tasks are as they were. -/
structure Keeps (s t : State) : Prop where
  clk : t.clk = s.clk
  actors : ∀ c e, (t.actor c e).map bare = (s.actor c e).map bare
  residents : ∀ c r, (t.resident c r).map (·.task) = (s.resident c r).map (·.task)
  faults : ∀ i, (t.task i).map (·.faulted) = (s.task i).map (·.faulted)

/-- The firings are as they were, too. -/
structure KeepsFirings (s t : State) : Prop extends Keeps s t where
  firings : ∀ c k, t.firing c k = s.firing c k

theorem Keeps.refl (s : State) : Keeps s s := ⟨rfl, fun _ _ => rfl, fun _ _ => rfl, fun _ => rfl⟩

theorem Keeps.trans {s t u : State} (a : Keeps s t) (b : Keeps t u) : Keeps s u :=
  ⟨b.clk.trans a.clk, fun c e => (b.actors c e).trans (a.actors c e), fun c r => (b.residents c r).trans (a.residents c r),
    fun i => (b.faults i).trans (a.faults i)⟩

theorem Keeps.actor {s t : State} (h : Keeps s t) {c e : Nat} {a : Actor} (ha : s.actor c e = some a) :
    ∃ b, t.actor c e = some b ∧ bare b = bare a :=
  Option.map_eq_some_iff.mp ((h.actors c e).trans (congrArg (Option.map bare) ha))

theorem Keeps.task {s t : State} (h : Keeps s t) {i : Nat} {x : Task} (hx : s.task i = some x) :
    ∃ y, t.task i = some y ∧ y.faulted = x.faulted :=
  Option.map_eq_some_iff.mp ((h.faults i).trans (congrArg (Option.map (·.faulted)) hx))

theorem KeepsFirings.refl (s : State) : KeepsFirings s s := ⟨.refl s, fun _ _ => rfl⟩

theorem KeepsFirings.trans {s t u : State} (a : KeepsFirings s t) (b : KeepsFirings t u) : KeepsFirings s u :=
  ⟨a.toKeeps.trans b.toKeeps, fun c k => (b.firings c k).trans (a.firings c k)⟩

theorem core_setCore_eq (s : State) (c d : Nat) (x : Core) : (s.setCore c x).core d = if d = c then x else s.core d := by
  split
  · rename_i h; rw [h, State.core_setCore]
  · rename_i h; exact State.core_setCore_other s x h

theorem keeps_setCore {s : State} {c : Nat} {x : Core} (ha : x.actors = (s.core c).actors) (ht : x.tasks = (s.core c).tasks) :
    Keeps s (s.setCore c x) := by
  have same (d : Nat) : ((s.setCore c x).core d).actors = (s.core d).actors ∧ ((s.setCore c x).core d).tasks = (s.core d).tasks := by
    rw [core_setCore_eq]
    split
    · rename_i h; rw [h]; exact ⟨ha, ht⟩
    · exact ⟨rfl, rfl⟩
  refine ⟨rfl, fun d e => ?_, fun d r => ?_, fun _ => rfl⟩
  · simp only [State.actor, (same d).1]
  · simp only [State.resident, (same d).2]

theorem keepsFirings_setCore {s : State} {c : Nat} {x : Core} (ha : x.actors = (s.core c).actors) (ht : x.tasks = (s.core c).tasks)
    (hs : x.slots = (s.core c).slots) : KeepsFirings s (s.setCore c x) := by
  refine ⟨keeps_setCore ha ht, fun d k => ?_⟩
  simp only [State.firing, core_setCore_eq]
  split
  · split
    · rename_i h; subst h; simp only [hs]
    · rfl
  · rfl

theorem keeps_setFiring (s : State) (c k : Nat) (f : Firing) : Keeps s (s.setFiring c k f) := by
  refine keeps_setCore ?_ ?_ <;> (simp only [Core.setSlot]; split <;> rfl)

theorem keepsFirings_setActor {s : State} {c e : Nat} {a b : Actor} (h : s.actor c e = some a) (hb : bare b = bare a) :
    KeepsFirings s (s.setActor c e b) := by
  have core (d : Nat) : ((s.setActor c e b).core d).slots = (s.core d).slots ∧ ((s.setActor c e b).core d).tasks = (s.core d).tasks := by
    rw [State.setActor, core_setCore_eq]
    split
    · rename_i h; rw [h]; exact ⟨rfl, rfl⟩
    · exact ⟨rfl, rfl⟩
  refine ⟨⟨rfl, fun d i => ?_, fun d r => ?_, fun _ => rfl⟩, fun d k => ?_⟩
  · simp only [State.actor] at h ⊢
    rw [State.setActor, core_setCore_eq]
    split
    · rename_i hd
      subst hd
      by_cases hi : i = e
      · rw [hi, mget_mset_same, h, Option.map_some, Option.map_some, hb]
      · rw [mget_mset_other _ _ hi]
    · rfl
  · simp only [State.resident, (core d).2]
  · simp only [State.firing, (core d).1]

theorem keepsFirings_setDie {s : State} {d : Nat} {x : Die} (h : x.tasks = (s.die d).tasks) : KeepsFirings s (s.setDie d x) := by
  refine ⟨⟨rfl, fun _ _ => rfl, fun _ _ => rfl, fun i => ?_⟩, fun _ _ => rfl⟩
  by_cases hi : i / 2 ^ 29 = d
  · simp only [State.task, hi, State.die_setDie, h]
  · simp only [State.task, State.die_setDie_other s x hi]

theorem task_setTask_other (s : State) {i j : Nat} (x : Task) (h : j ≠ i) : (s.setTask i x).task j = s.task j := by
  by_cases hd : j / 2 ^ 29 = i / 2 ^ 29
  · simp only [State.task, State.setTask, hd, State.die_setDie, mget_mset_other _ x h]
  · simp only [State.task, State.setTask, State.die_setDie_other s _ hd]

theorem keepsFirings_setTask {s : State} {i : Nat} {x y : Task} (h : s.task i = some x) (hy : y.faulted = x.faulted) :
    KeepsFirings s (s.setTask i y) := by
  refine ⟨⟨rfl, fun _ _ => rfl, fun _ _ => rfl, fun j => ?_⟩, fun _ _ => rfl⟩
  by_cases hj : j = i
  · rw [hj, State.task_setTask, h, Option.map_some, Option.map_some, hy]
  · rw [task_setTask_other s y hj]

/-! ### Memory and counts -/

theorem mget_map {α β : Type} (m : SMap α) (f : α → β) (k : Nat) : mget (m.map fun x => (x.1, f x.2)) k = (mget m k).map f := by
  induction m with
  | nil => rfl
  | cons x t ih =>
    simp only [List.map_cons, mget]
    split
    · rfl
    · exact ih

/-- A write triggers monitors, and changes nothing else of a core (R148). -/
theorem trigger_eq (x : Core) (lines : List Nat) : x.trigger lines = { x with monitors := (x.trigger lines).monitors } := by
  simp only [Core.trigger]
  split <;> rfl

theorem core_notify (s : State) (lines : List Nat) (c : Nat) : (s.notify lines).core c = (s.core c).trigger lines := by
  have cores : (s.notify lines).cores = s.cores.map fun x => (x.1, x.2.trigger lines) := by
    simp only [State.notify]; split <;> rfl
  have image : mget (s.notify lines).cores c = (mget s.cores c).map (·.trigger lines) := by
    rw [cores]; exact mget_map s.cores (fun x => x.trigger lines) c
  rw [State.core, State.core, mgetD, mgetD, image]
  cases mget s.cores c with
  | none => rfl
  | some x => rfl

theorem keepsFirings_notify (s : State) (lines : List Nat) : KeepsFirings s (s.notify lines) := by
  have whole : (s.notify lines).clk = s.clk ∧ (s.notify lines).dies = s.dies := by
    simp only [State.notify]; split <;> exact ⟨rfl, rfl⟩
  have core (c : Nat) := (core_notify s lines c).trans (trigger_eq (s.core c) lines)
  exact ⟨⟨whole.1, fun c e => by simp only [State.actor, core c], fun c r => by simp only [State.resident, core c],
    fun i => by simp only [State.task, State.die, whole.2]⟩, fun c k => by simp only [State.firing, core c]⟩

theorem keepsFirings_homeWrite (s : State) (key a : Nat) (xs : List Byte) : KeepsFirings s (s.homeWrite key a xs) := by
  refine KeepsFirings.trans ?_ (keepsFirings_notify _ _)
  exact ⟨⟨rfl, fun _ _ => rfl, fun _ _ => rfl, fun _ => rfl⟩, fun _ _ => rfl⟩

theorem keepsFirings_countNack (s : State) (die : Nat) : KeepsFirings s (s.countNack die) := keepsFirings_setDie rfl

theorem keepsFirings_domainEvent (s : State) (c : Nat) : KeepsFirings s (s.domainEvent c) := by
  simp only [State.domainEvent]
  split
  · exact keepsFirings_setDie rfl
  · exact .refl s

theorem keepsFirings_relEvent (s : State) (die kind detail : Nat) : KeepsFirings s (s.relEvent die kind detail) := by
  refine keepsFirings_setDie ?_
  split <;> rfl

theorem keepsFirings_quarantine (s : State) (c n : Nat) : KeepsFirings s (s.quarantine c n) := by
  refine KeepsFirings.trans ?_ (keepsFirings_relEvent _ _ _ _)
  split
  · exact keepsFirings_setDie rfl
  · exact .refl s

theorem keepsFirings_countSig (s : State) (c : Nat) : KeepsFirings s (s.countSig c) := by
  have counted : KeepsFirings s (s.setCore c { s.core c with sigCount := (s.core c).sigCount + 1 }) := keepsFirings_setCore rfl rfl rfl
  simp only [State.countSig]
  split
  · exact counted.trans (keepsFirings_quarantine _ _ _)
  · exact counted

theorem keepsFirings_countSuspect (s : State) (c : Nat) : KeepsFirings s (s.countSuspect c) := by
  have counted : KeepsFirings s (s.setCore c { s.core c with susCount := (s.core c).susCount + 1 }) := keepsFirings_setCore rfl rfl rfl
  have seen := counted.trans (keepsFirings_domainEvent _ c)
  simp only [State.countSuspect]
  split
  · exact seen.trans (keepsFirings_quarantine _ _ _)
  · exact seen

/-! ### The capture of an image (R210) -/

theorem keepsFirings_devWrite {s t : State} {die ctx key addr : Nat} {xs : List Byte} (h : s.devWrite die ctx key addr xs = some t) :
    KeepsFirings s t := by
  simp only [State.devWrite, Option.ite_none_left_eq_some, Option.map_eq_some_iff] at h
  obtain ⟨-, ⟨u, rest⟩, hu, rfl⟩ := h
  refine List.foldlRecOn (motive := fun (acc : Option (State × List Byte)) => ∀ y, acc = some y → KeepsFirings s y.1) _ _ ?_ ?_ _ hu
  · rintro _ ⟨⟩
    exact .refl s
  · intro acc ih p _ y hy
    cases acc with
    | none => cases hy
    | some x =>
      simp only at hy
      split at hy
      · cases hy
        exact (ih x rfl).trans (keepsFirings_homeWrite _ _ _ _)
      · cases hy

theorem keepsFirings_capture (s : State) (c k : Nat) (f : Firing) (pc : Nat) : KeepsFirings s (s.capture c k f pc).1 := by
  simp only [State.capture]
  split
  · exact .refl s
  split
  · exact .refl s
  split
  · exact .refl s
  rename_i r _ _ _ t ht
  split
  · rename_i u hu
    have written := keepsFirings_devWrite (Option.ite_none_right_eq_some.mp hu).2
    obtain ⟨x, hx, hf⟩ := written.task ht
    exact written.trans (keepsFirings_setTask hx hf.symm)
  · dsimp only
    split
    · exact keepsFirings_countNack s _
    · exact .refl s

/-! ### Leaving the slot (R84, R103) -/

theorem keepsFirings_setQueue (s : State) (task stage : Nat) (is : List InChan) : KeepsFirings s (s.setQueue task stage is) := by
  simp only [State.setQueue]
  split
  · rename_i t ht
    exact keepsFirings_setTask ht rfl
  · exact .refl s

theorem keepsFirings_modIn (s : State) (c e ch : Nat) (f : InChan → InChan) (bound : Bool) : KeepsFirings s (s.modIn c e ch f bound) := by
  simp only [State.modIn]
  split
  · exact .refl s
  · rename_i a ha
    split
    · exact keepsFirings_setQueue s _ _ _
    · exact keepsFirings_setActor ha rfl

theorem keepsFirings_unreserve (s : State) (outs : List OutChan) : KeepsFirings s (s.unreserve outs) :=
  List.foldlRecOn outs _ (.refl s) fun _ ih _ _ => ih.trans (keepsFirings_modIn _ _ _ _ _ _)

theorem keepsFirings_settleHeld (s : State) (c k : Nat) (a : Actor) (pop : Bool) : KeepsFirings s (s.settleHeld c k a pop) := by
  simp only [State.settleHeld]
  split
  · exact keepsFirings_setQueue s _ _ _
  · exact .refl s

/-- What leaving does to the state, for an actor that is there: its actor is put back free and marked by `fa`, and the core lets go of the slot. -/
theorem leave_eq {s : State} {c k : Nat} {f : Firing} {a : Actor} (fa : Actor → Actor) (ha : s.actor c f.actor = some a) :
    ∃ u b, KeepsFirings s u ∧ bare b = bare a ∧ s.leave c k f fa =
      let t := u.setActor c f.actor (fa { b with busy := false, readyAt := none })
      t.setCore c ((((t.core c).disarm k).orphan k).setSlot k none) := by
  have given := (keepsFirings_settleHeld s c k a false).trans (keepsFirings_unreserve _ a.outs)
  obtain ⟨b, hb, eq⟩ := given.actor ha
  exact ⟨_, b, given, eq, by simp only [State.leave, ha, hb]⟩

/-- What a firing that has ended leaves on its core: its actor as `b`, and its slot free, or held by it until its record is written (R84, R201). -/
structure Vacated (x : Core) (k e : Nat) (b : Actor) : Prop where
  actor : mget x.actors e = some b
  slot : ∀ (h : k < 8) (g : Firing), x.slots[k] = some g → g.wait = .record

/-- What a firing that has ended with a trap leaves on its core: its record, too, in the event queue or held back by the full one (R103, R201). -/
structure Ended (x : Core) (k e : Nat) (b : Actor) (r : EvRecord) : Prop extends Vacated x k e b where
  told : r ∈ x.evq ∨ r ∈ x.evHeld

theorem leave_vacated {s : State} {c k : Nat} {f : Firing} {a : Actor} (fa : Actor → Actor) (ha : s.actor c f.actor = some a) :
    ∃ b, bare b = bare a ∧ Vacated ((s.leave c k f fa).core c) k f.actor (fa { b with busy := false, readyAt := none }) := by
  obtain ⟨u, b, -, hb, eq⟩ := leave_eq (k := k) fa ha
  refine ⟨b, hb, ?_, fun hk g hg => ?_⟩
  · rw [eq]
    simp only [State.core_setCore, State.setActor, Core.setSlot]
    split <;> exact mget_mset_same _ _ _
  · rw [eq] at hg
    simp [Core.setSlot, hk] at hg

theorem leave_task {s : State} {c k i : Nat} {f : Firing} {a : Actor} {x : Task} (fa : Actor → Actor) (ha : s.actor c f.actor = some a)
    (hx : s.task i = some x) : ∃ y, (s.leave c k f fa).task i = some y ∧ y.faulted = x.faulted := by
  obtain ⟨u, b, kept, -, eq⟩ := leave_eq (k := k) fa ha
  rw [eq]
  exact kept.task hx

/-! ### The event queue (R199, R201) -/

theorem core_pulse (s : State) (c n : Nat) : ∃ x, (s.pulse c n).core c = { s.core c with xbar := x } := by
  simp only [State.pulse]
  split
  · exact ⟨_, State.core_setCore _ _ _⟩
  · exact ⟨_, rfl⟩

/-- A record that tells a firing of an event changes what that one still has to take (R101). -/
theorem tell_eq (x : Core) (r : EvRecord) : ∃ v, x.tell r = { x with slots := v } ∧
    ∀ (k : Nat) (_ : k < 8) (g : Firing), v[k] = some g → ∃ g0, x.slots[k] = some g0 ∧ g.wait = g0.wait := by
  have same : ∀ (k : Nat) (_ : k < 8) (g : Firing), x.slots[k] = some g → ∃ g0, x.slots[k] = some g0 ∧ g.wait = g0.wait :=
    fun _ _ g hg => ⟨g, hg, rfl⟩
  simp only [Core.tell]
  split
  · split
    · rename_i j n _ hj
      refine ⟨_, rfl, fun k hk g hg => ?_⟩
      by_cases hkj : k = j
      · subst hkj
        rw [Vector.getElem_set_self] at hg
        obtain ⟨g0, h0, rfl⟩ := Option.map_eq_some_iff.mp hg
        exact ⟨g0, h0, rfl⟩
      · rw [Vector.getElem_set_ne _ _ (Ne.symm hkj)] at hg
        exact same k hk g hg
    · exact ⟨_, rfl, same⟩
  · exact ⟨_, rfl, same⟩

/-- What posting a record does to the core: the record goes to the queue, or is held back. -/
theorem core_post (s : State) (c : Nat) (r : EvRecord) : ∃ q h v x,
    (s.post c r).core c = { s.core c with evq := q, evHeld := h, slots := v, xbar := x } ∧
    (q = (s.core c).evq ++ [{ r with tells := none }] ∧ h = (s.core c).evHeld ∨ q = (s.core c).evq ∧ h = (s.core c).evHeld ++ [r]) ∧
    ∀ (k : Nat) (_ : k < 8) (g : Firing), v[k] = some g → ∃ g0, (s.core c).slots[k] = some g0 ∧ g.wait = g0.wait := by
  simp only [State.post]
  split
  · obtain ⟨v, told, slots⟩ := tell_eq { s.core c with evq := (s.core c).evq ++ [{ r with tells := none }] } r
    rw [told]
    obtain ⟨x, pulsed⟩ := core_pulse (s.setCore c { s.core c with evq := (s.core c).evq ++ [{ r with tells := none }], slots := v }) c 8
    rw [State.core_setCore] at pulsed
    exact ⟨_, _, _, _, pulsed, .inl ⟨rfl, rfl⟩, slots⟩
  · exact ⟨_, _, _, _, State.core_setCore _ _ _, .inr ⟨rfl, rfl⟩, fun _ _ g hg => ⟨g, hg, rfl⟩⟩

theorem Vacated.post {s : State} {c k e : Nat} {b : Actor} (h : Vacated (s.core c) k e b) (r : EvRecord) :
    Vacated ((s.post c r).core c) k e b := by
  obtain ⟨q, w, v, x, eq, -, slots⟩ := core_post s c r
  rw [eq]
  refine ⟨h.actor, fun hk g hg => ?_⟩
  obtain ⟨g0, h0, wait⟩ := slots k hk g hg
  exact wait.trans (h.slot hk g0 h0)

theorem Vacated.post_ended {s : State} {c k e : Nat} {b : Actor} (h : Vacated (s.core c) k e b) {r : EvRecord} (hr : r.tells = none) :
    Ended ((s.post c r).core c) k e b r := by
  refine ⟨h.post r, ?_⟩
  obtain ⟨q, w, v, x, eq, room, -⟩ := core_post s c r
  have plain : { r with tells := none } = r := by rw [← hr]
  rw [eq]
  rcases room with ⟨rfl, rfl⟩ | ⟨rfl, rfl⟩
  · exact .inl (List.mem_append_right _ (by rw [plain]; exact List.mem_singleton_self r))
  · exact .inr (List.mem_append_right _ (List.mem_singleton_self r))

theorem Ended.post {s : State} {c k e : Nat} {b : Actor} {r : EvRecord} (h : Ended (s.core c) k e b r) (p : EvRecord) :
    Ended ((s.post c p).core c) k e b r := by
  refine ⟨h.toVacated.post p, ?_⟩
  obtain ⟨q, w, v, x, eq, room, -⟩ := core_post s c p
  rw [eq]
  rcases room with ⟨rfl, rfl⟩ | ⟨rfl, rfl⟩
  · exact h.told.imp (List.mem_append_left _) id
  · exact h.told.imp id (List.mem_append_left _)

theorem sameButCores_post (s : State) (c : Nat) (r : EvRecord) : SameButCores s (s.post c r) := by
  have pulsed (t : State) : SameButCores t (t.pulse c 8) := by
    simp only [State.pulse]; split <;> rfl
  simp only [State.post]
  split
  · exact (sameButCores_setCore s c _).trans (pulsed _)
  · exact sameButCores_setCore s c _

theorem task_sameButCores {s t : State} (h : SameButCores s t) (i : Nat) : t.task i = s.task i := by
  simp only [State.task, State.die, h.dies]

/-! ### The end of a firing (R103) -/

/-- The firing stays in its slot until its record is written (R201). -/
theorem Ended.waits {s : State} {c k e : Nat} {b : Actor} {r : EvRecord} (h : Ended (s.core c) k e b r) {f : Firing} (hf : f.wait = .record) :
    Ended ((s.setFiring c k f).core c) k e b r := by
  rw [State.setFiring, State.core_setCore]
  refine ⟨⟨?_, fun hk g hg => ?_⟩, ?_⟩
  · simp only [Core.setSlot]; split <;> exact h.actor
  · simp only [Core.setSlot, hk, dite_true, Vector.getElem_set_self] at hg
    cases hg
    exact hf
  · simp only [Core.setSlot]; split <;> exact h.told

theorem Ended.held {s : State} {c k e : Nat} {b : Actor} {r : EvRecord} (h : Ended (s.core c) k e b r) (f : Firing) :
    Ended ((if (s.core c).evHeld.isEmpty then s else s.setFiring c k { f with wait := .record }).core c) k e b r := by
  split
  · exact h
  · exact h.waits rfl

/-- The clock goes to the slot of the firing that has ended (R90). -/
theorem Ended.spentBy {s : State} {c k e : Nat} {b : Actor} {r : EvRecord} (h : Ended (s.core c) k e b r) :
    Ended ((s.spentBy c k).core c) k e b r := by
  rw [State.spentBy, State.core_setCore]
  refine ⟨⟨h.actor, fun hk g hg => ?_⟩, h.told⟩
  simp only [Vector.getElem_map] at hg
  cases slot : (s.core c).slots[k] with
  | none => rw [slot] at hg; cases hg
  | some f =>
    have wait := h.slot hk f slot
    rw [slot, yieldTo, wait] at hg
    cases hg
    exact wait

theorem Ended.firing {s : State} {c k e : Nat} {b : Actor} {r : EvRecord} (h : Ended (s.core c) k e b r) :
    s.firing c k = none ∨ ∃ g, s.firing c k = some g ∧ g.wait = .record := by
  cases found : s.firing c k with
  | none => exact .inl rfl
  | some g =>
    have hk := State.slot_lt found
    simp only [State.firing, hk, dite_true] at found
    exact .inr ⟨g, rfl, h.slot hk g found⟩

/-- The core `c` on which `f` has ended as faulted: its actor `a` is free and faulted, and its record tells of the trap (R103, R104). -/
def EndedFaulted (u : State) (c k cause pc : Nat) (val : Word) (f : Firing) (a : Actor) (task : Nat) : Prop :=
  ∃ b, bare b = bare a ∧
    Ended (u.core c) k f.actor { b with busy := false, readyAt := none, faulted := true } (trapRecord cause k a.idx task pc val f.seqNo)

theorem endFaulted_ended {s : State} {c k cause pc : Nat} {val : Word} {f : Firing} {a : Actor} {task : Nat} (more : Option EvRecord)
    (hf : s.firing c k = some f) (ha : s.actor c f.actor = some a) (hr : (s.resident c f.rti).map (·.task) = some task) :
    EndedFaulted (s.endFaulted c k cause pc val (fun a => { a with faulted := true }) more) c k cause pc val f a task := by
  obtain ⟨b, hb, vacated⟩ := leave_vacated (k := k) (fun a => { a with faulted := true }) ha
  have posted := vacated.post_ended (r := trapRecord cause k a.idx task pc val f.seqNo) rfl
  refine ⟨b, hb, ?_⟩
  simp only [State.endFaulted, hf, ha, hr, Option.map_some, Option.getD_some]
  cases more with
  | none => exact posted.held f
  | some r => exact (posted.held f).post r

/-- Posting its record changes the cores alone, once the firing has left its slot. -/
theorem sameButCores_endFaulted {s : State} {c k cause pc : Nat} {val : Word} {f : Firing} (fa : Actor → Actor) (more : Option EvRecord)
    (hf : s.firing c k = some f) : SameButCores (s.leave c k f fa) (s.endFaulted c k cause pc val fa more) := by
  simp only [State.endFaulted, hf]
  have held (t : State) (g : Firing) : SameButCores t (if (t.core c).evHeld.isEmpty then t else t.setFiring c k g) := by
    split
    · exact .refl t
    · exact sameButCores_setFiring t c k g
  cases more with
  | none => exact (sameButCores_post _ _ _).trans (held _ _)
  | some r => exact ((sameButCores_post _ _ _).trans (held _ _)).trans (sameButCores_post _ _ _)

/-! ### Raising a trap (R100 to R103) -/

/-- The task `y`, once a trap has marked the task `x` (R103): the cause of the first one stays. -/
def Marked (x : Task) (c k cause pc : Nat) (val : Word) (y : Task) : Prop :=
  y.faulted = true ∧ (x.faulted = false → y.cause = cause ∧ y.fcore = c ∧ y.fslot = k ∧ y.fpc = pc ∧ y.fval = val)

theorem unhandled_ends {s : State} {c k cause pc : Nat} {val : Word} {f : Firing} {a : Actor} {task : Nat} {x : Task}
    (hf : s.firing c k = some f) (ha : s.actor c f.actor = some a) (hr : (s.resident c f.rti).map (·.task) = some task)
    (hx : s.task task = some x) :
    EndedFaulted (s.unhandled c k cause pc val) c k cause pc val f a task ∧
      ∃ y, (s.unhandled c k cause pc val).task task = some y ∧ Marked x c k cause pc val y := by
  have kept := keepsFirings_capture s c k f pc
  have hf' := (kept.firings c k).trans hf
  obtain ⟨a', ha', same⟩ := kept.actor ha
  obtain ⟨x', hx', faulted⟩ := kept.task hx
  obtain ⟨z, hz, left⟩ := leave_task (k := k) (fun a => { a with faulted := true }) ha' hx'
  obtain ⟨b, hb, ended⟩ := endFaulted_ended (cause := cause) (pc := pc) (val := val) (s.capture c k f pc).2 hf' ha'
    ((kept.residents c f.rti).trans hr)
  have hy := (task_sameButCores (sameButCores_endFaulted (cause := cause) (pc := pc) (val := val) (fun a => { a with faulted := true })
    (s.capture c k f pc).2 hf') task).trans hz
  rw [show a'.idx = a.idx from congrArg (·.idx) same] at ended
  simp only [State.unhandled, hf, hr, Option.getD_some, hy]
  refine ⟨⟨b, hb.trans same, ended⟩, _, State.task_setTask _ _ _, ?_⟩
  rw [left.trans faulted]
  cases was : x.faulted with
  | true => exact ⟨(left.trans faulted).trans was, fun h => absurd (was.symm.trans h) nofun⟩
  | false => exact ⟨rfl, fun _ => ⟨rfl, rfl, rfl, rfl, rfl⟩⟩

/-- The firing that a trap finds: its results delivered, its gang disbanded (R27, R253, R254). -/
theorem resultsDelivered_firing {s : State} {c k : Nat} {f0 : Firing} (h : s.firing c k = some f0) (clk : Nat) :
    ∃ f, ((s.setFiring c k (f0.drain clk)).disband c k).firing c k = some f ∧ (f0.span = 1 → f = f0.drain clk) ∧ f.flight = [] ∧
      SameSource f0 f := by
  obtain ⟨f, hf, alone, flight, source⟩ := disband_firing (State.firing_setFiring s (f0.drain clk) (State.slot_lt h)) (drain_flight f0 clk)
  exact ⟨f, hf, fun one => alone ((drain_span f0 clk).trans one), flight, (sameSource_drain f0 clk).trans source⟩

theorem keeps_disband (s : State) (c k : Nat) : Keeps s (s.disband c k) := by
  simp only [State.disband]
  split
  · exact .refl s
  split
  · exact .refl s
  · refine Keeps.trans ?_ (keeps_setFiring _ _ _ _)
    exact List.foldlRecOn _ _ (.refl s) fun _ released _ _ => released.trans (keeps_setCore rfl rfl)

/-- The state with the event of a trap counted: the core of a `POISON` is to be fenced (R443), and a `SIGMIS` counts toward quarantine (R444). -/
def eventCounted (s : State) (c cause : Nat) : State :=
  let t := if cause = 0x16 then { s with fenceReq := s.fenceReq ++ [c] } else s
  if cause = 0x20 then t.countSig c else t

/-- The state in which a trap looks for its handler: the results of its firing delivered, the gang disbanded (R27, R253, R254). -/
def resultsDelivered (s : State) (c k : Nat) (f0 : Firing) : State := (s.setFiring c k (f0.drain s.clk)).disband c k

theorem keepsFirings_eventCounted (s : State) (c cause : Nat) : KeepsFirings s (eventCounted s c cause) := by
  have asked : KeepsFirings s (if cause = 0x16 then { s with fenceReq := s.fenceReq ++ [c] } else s) := by
    split
    · exact ⟨⟨rfl, fun _ _ => rfl, fun _ _ => rfl, fun _ => rfl⟩, fun _ _ => rfl⟩
    · exact .refl s
  simp only [eventCounted]
  split
  · exact asked.trans (keepsFirings_countSig _ c)
  · exact asked

/-- What raising a trap of member 0 does (R102, R103): the firing goes on in its handler, or the trap is unhandled. -/
theorem raise_eq {s : State} {c k cause : Nat} {val : Word} {f0 f : Firing} (h0 : s.firing c k = some f0)
    (h : (resultsDelivered (eventCounted s c cause) c k f0).firing c k = some f) : s.raise c k cause val 0 =
      if bit f.trapVec 0 && takeable cause then
        let g0 := f.handle cause f.trapAt val
        let g := { g0 with nextIssue := max g0.nextIssue (f0.lastDue (eventCounted s c cause).clk + 1) }
        if badTarget g.pc then ((resultsDelivered (eventCounted s c cause) c k f0).setFiring c k g).unhandled c k 0x01 g.pc (wd g.pc)
        else (resultsDelivered (eventCounted s c cause) c k f0).setFiring c k g
      else (resultsDelivered (eventCounted s c cause) c k f0).unhandled c k cause f.trapAt val := by
  simp only [resultsDelivered, eventCounted] at h
  simp only [State.raise, resultsDelivered, eventCounted, h0, h, Bool.true_or, if_true, decide_true]

theorem fld_eq_part (x : Word) {hi lo : Nat} (h : lo ≤ hi) : fld x hi lo = part x hi lo := by
  rw [fld, part, BitVec.extractLsb'_toNat, Nat.shiftRight_eq_div_pow, Nat.sub_add_comm h]

theorem takeable_iff (cause : Nat) : takeable cause = true ↔ cause ≠ 0x16 ∧ cause ≠ 0x20 ∧ cause ≠ 0x30 := by
  simp [takeable, and_assoc]

theorem badTarget_of_legal {n : Nat} (hn : n < 2 ^ 64) (h : Legal (BitVec.ofNat 64 n)) : badTarget n = false := by
  obtain ⟨aligned, inner, inside⟩ := h
  rw [BitVec.toNat_ofNat, Nat.mod_eq_of_lt hn] at aligned inner inside
  simp [badTarget, aligned, inner, inside]

/-- Clearing `EN` leaves the other bits of `TRAPVEC` (R102). -/
theorem clearEnable_bit (v : Word) (j : Nat) : (v &&& ~~~(1 : Word)).getLsbD j = (v.getLsbD j && decide (j ≠ 0)) := by
  show (v &&& ~~~(1#64)).getLsbD j = _
  rw [BitVec.getLsbD_and, BitVec.getLsbD_not, BitVec.getLsbD_one]
  by_cases h : j < 64
  · simp [h]
  · simp [h, BitVec.getLsbD_of_ge v j (by omega)]

theorem raiseAfter_waits {s : State} {c k cause : Nat} {val : Word} {f : Firing} (h : s.firing c k = some f)
    (awaits : ∃ r ∈ f.flight, r.await = true) : s.raiseAfter c k cause val 0 = s.retry c k := by
  simp only [State.raiseAfter, h, List.any_eq_true.mpr awaits, if_true]

theorem raiseAfter_raises {s : State} {c k cause : Nat} {val : Word} {f : Firing} (h : s.firing c k = some f)
    (ready : ∀ r ∈ f.flight, r.await = false) :
    s.raiseAfter c k cause val 0 = ((if cause = 0x22 then s.countSuspect c else s).raise c k cause val 0).spentBy c k := by
  have none : f.flight.any (·.await) = false := List.any_eq_false.mpr fun r hr => by rw [ready r hr]; exact Bool.false_ne_true
  simp only [State.raiseAfter, h, none, Bool.false_eq_true, if_false]

theorem keepsFirings_suspect (s : State) (c cause : Nat) : KeepsFirings s (if cause = 0x22 then s.countSuspect c else s) := by
  split
  · exact keepsFirings_countSuspect s c
  · exact .refl s

theorem keeps_resultsDelivered (s : State) (c k : Nat) (f : Firing) : Keeps s (resultsDelivered s c k f) :=
  (keeps_setFiring s c k _).trans (keeps_disband _ c k)

/-- A trap whose handler may take it (R102). -/
theorem raise_handled {s : State} {c k cause : Nat} {val : Word} {f0 f : Firing} (h0 : s.firing c k = some f0)
    (h : (resultsDelivered s c k f0).firing c k = some f) (source : SameSource f0 f) (enabled : f0.trapVec.getLsbD 0 = true)
    (cause_ok : cause ≠ 0x16 ∧ cause ≠ 0x20 ∧ cause ≠ 0x30) (legal : Legal (BitVec.ofNat 64 (part f0.trapVec 17 2 * 4))) :
    ∃ n, s.raise c k cause val 0 = (resultsDelivered s c k f0).setFiring c k { f.handle cause f.trapAt val with nextIssue := n } := by
  have uncounted : eventCounted s c cause = s := by simp only [eventCounted, cause_ok.1, cause_ok.2.1, if_false]
  have addr : (f.handle cause f.trapAt val).pc = part f0.trapVec 17 2 * 4 := by
    rw [Firing.handle, source.trapVec, fld_eq_part _ (by decide)]
  have small : part f0.trapVec 17 2 * 4 < 2 ^ 64 := by rw [part]; omega
  rw [raise_eq h0 (by rw [uncounted]; exact h), uncounted]
  simp only [bit, source.trapVec, enabled, (takeable_iff cause).mpr cause_ok, Bool.and_self, if_true, addr, badTarget_of_legal small legal,
    Bool.false_eq_true, if_false]
  exact ⟨_, rfl⟩

/-- A trap that no handler may take (R100, R103). -/
theorem raise_unhandled {s : State} {c k cause : Nat} {val : Word} {f0 : Firing} (h0 : s.firing c k = some f0)
    (untaken : ¬ (f0.trapVec.getLsbD 0 = true ∧ cause ≠ 0x16 ∧ cause ≠ 0x20 ∧ cause ≠ 0x30)) :
    ∃ t f, Keeps s t ∧ t.firing c k = some f ∧ SameSource f0 f ∧ s.raise c k cause val 0 = t.unhandled c k cause (f0.pc % 2 ^ 18) val := by
  have count := keepsFirings_eventCounted s c cause
  obtain ⟨f, hf, -, -, source⟩ := resultsDelivered_firing ((count.firings c k).trans h0) (eventCounted s c cause).clk
  refine ⟨_, f, count.toKeeps.trans (keeps_resultsDelivered _ c k f0), hf, source, ?_⟩
  rw [raise_eq h0 hf, if_neg, Firing.trapAt, source.pc]
  rw [Bool.and_eq_true, bit, source.trapVec, takeable_iff]
  exact untaken

/-- The trap record of R104, by its fields. -/
theorem trapRecord_eq (cause slot actor task pc : Nat) (val : Word) (seqNo : Nat) : trapRecord cause slot actor task pc val seqNo =
    { w0 := BitVec.ofNat 64 (2 ^ 57 + cause % 256 * 2 ^ 48 + slot % 8 * 2 ^ 40 + actor % 64 * 2 ^ 32 + task % 2 ^ 32)
      w1 := BitVec.ofNat 64 pc, w2 := val, w3 := BitVec.ofNat 64 seqNo } := rfl

/-- A firing whose trap no handler may take ends as faulted, and its task is marked (R103). -/
theorem raiseAfter_ends {s : State} {c k cause : Nat} {val : Word} {f0 : Firing} {a : Actor} {task : Nat} {x : Task}
    (h0 : s.firing c k = some f0) (ready : ∀ r ∈ f0.flight, r.await = false)
    (untaken : ¬ (f0.trapVec.getLsbD 0 = true ∧ cause ≠ 0x16 ∧ cause ≠ 0x20 ∧ cause ≠ 0x30))
    (ha : s.actor c f0.actor = some a) (hr : (s.resident c f0.rti).map (·.task) = some task) (hx : s.task task = some x) :
    EndedFaulted (s.raiseAfter c k cause val 0) c k cause (f0.pc % 2 ^ 18) val f0 a task ∧
      ∃ y, (s.raiseAfter c k cause val 0).task task = some y ∧ Marked x c k cause (f0.pc % 2 ^ 18) val y := by
  have suspect := keepsFirings_suspect s c cause
  obtain ⟨u, f, before, hf, source, raised⟩ := raise_unhandled (val := val) ((suspect.firings c k).trans h0) untaken
  have kept := suspect.toKeeps.trans before
  obtain ⟨a', ha', same⟩ := kept.actor ha
  obtain ⟨x', hx', faulted⟩ := kept.task hx
  obtain ⟨⟨b, hb, ended⟩, y, hy, marked⟩ := unhandled_ends (cause := cause) (pc := f0.pc % 2 ^ 18) (val := val) hf
    (source.actor.symm ▸ ha') (source.rti.symm ▸ (kept.residents c f0.rti).trans hr) hx'
  rw [source.actor, source.seqNo, show a'.idx = a.idx from congrArg (·.idx) same] at ended
  rw [raiseAfter_raises h0 ready, raised]
  exact ⟨⟨b, hb.trans same, ended.spentBy⟩, y, hy, marked.1, fun was => marked.2 (faulted.trans was)⟩

/-- Settles O59: the handled trap from what draining and disbanding keep of the firing, the unhandled one from what every part of its end
keeps of the actor, the record and the task. -/
theorem trapEntry : Obligations.TrapEntry := by
  unfold Obligations.TrapEntry
  intro s c k cause val f0 h0 takes addr
  refine ⟨raiseAfter_waits h0, fun ready => ⟨fun taken legal => ?_, fun untaken a r t ha hr ht => ?_⟩⟩
  · obtain ⟨enabled, cause_ok⟩ := taken
    intro s1 u
    have kept : KeepsFirings s s1 := keepsFirings_suspect s c cause
    have at1 : s1.firing c k = some f0 := (kept.firings c k).trans h0
    have same : u = resultsDelivered s1 c k f0 := by rw [resultsDelivered, kept.clk]
    obtain ⟨f, hf, alone, flight, source⟩ := resultsDelivered_firing at1 s.clk
    obtain ⟨n, handled⟩ := raise_handled (val := val) at1 (same ▸ hf) source enabled cause_ok legal
    refine ⟨f, { f.handle cause f.trapAt val with nextIssue := n }, hf, ?_, alone, flight, source.pc, ?_, ?_, fun j hj _ => ?_⟩
    · rw [raiseAfter_raises h0 ready, handled, ← same]
    · simp only [Firing.handle, Firing.trapAt, source.pc, source.trapVec, fld_eq_part f0.trapVec (show 2 ≤ 17 by decide)]
      rfl
    · exact (clearEnable_bit f.trapVec 0).trans (Bool.and_false _)
    · refine (clearEnable_bit f.trapVec j).trans ?_
      rw [source.trapVec, decide_eq_true (Nat.ne_of_gt hj), Bool.and_true]
  · obtain ⟨⟨b, hb, ended⟩, y, hy, marked, verdict⟩ :=
      raiseAfter_ends (val := val) h0 ready untaken ha (congrArg (Option.map (·.task)) hr) ht
    have told := ended.told
    rw [trapRecord_eq] at told
    exact ⟨⟨_, ended.actor, rfl, rfl, congrArg (·.seqNo) hb⟩, told, ended.firing, y, hy, marked, verdict⟩

end Sys2Proof.Trapping
end

section
/-! PROOF. The results of the scalar ALU (R107 to R111): the model's operation on words as the number that the spec's table gives, one lemma for
each operation, and from these each instruction. -/

namespace Sys2Proof.Scalar

open Sys2Proof.Machine Sys2Proof.Claims Sys2Proof.Laws

/-! ### Words and fields as numbers -/

theorem readInt_eq_fieldNum (u : Bool) (n x : Nat) : readInt u n x = fieldNum u n x := by
  cases u <;> simp [readInt, fieldNum]

theorem fieldNum_false_toNat {n : Nat} (a : BitVec n) : fieldNum false n a.toNat = a.toInt := by
  rw [fieldNum, BitVec.toInt_eq_msb_cond, BitVec.msb_eq_decide]
  push_cast
  rfl

theorem fieldNum_toNat (u : Bool) (a : Word) : fieldNum u 64 a.toNat = num u a := by
  cases u with
  | true => rfl
  | false => exact fieldNum_false_toNat a

theorem int_eq_num (x : Ctx) (a : Word) : x.int a = num (isN x.w) a := (readInt_eq_fieldNum _ _ _).trans (fieldNum_toNat _ a)

theorem ofNat_toNat_word (a : Word) : BitVec.ofNat 64 a.toNat = a := (BitVec.ofNat_toNat 64 a).trans (BitVec.setWidth_eq a)

theorem low_natCast (n : Nat) : low n = BitVec.ofNat 64 n := BitVec.ofInt_natCast 64 n
@[simp] theorem low_toInt (a : Word) : low a.toInt = a := BitVec.ofInt_toInt
theorem low_add (a b : Int) : low (a + b) = low a + low b := BitVec.ofInt_add a b
theorem low_mul (a b : Int) : low (a * b) = low a * low b := BitVec.ofInt_mul a b
theorem low_sub (a b : Int) : low (a - b) = low a - low b := by
  rw [Int.sub_eq_add_neg, low_add, BitVec.sub_eq_add_neg]
  exact congrArg _ BitVec.ofInt_neg

@[simp] theorem low_num (u : Bool) (a : Word) : low (num u a) = a := by
  cases u with
  | true => exact (low_natCast _).trans (ofNat_toNat_word a)
  | false => exact low_toInt a

theorem num_inj (u : Bool) {a b : Word} : num u a = num u b ↔ a = b :=
  ⟨fun h => by rw [← low_num u a, h, low_num], congrArg _⟩

/-- The sign-extension of a field is the word of the signed number that it holds. -/
theorem signExtend_eq_low {n : Nat} (a : BitVec n) : a.signExtend 64 = low (fieldNum false n a.toNat) := by
  rw [BitVec.signExtend, fieldNum_false_toNat, low]

theorem sext32_eq_low (x : Word) : sext32 x = low (fieldNum false 32 (x.toNat % 2 ^ 32)) := by
  rw [sext32, signExtend_eq_low, BitVec.extractLsb'_toNat, Nat.shiftRight_zero]

/-! ### What the checks of decode leave (R11, R22) -/

theorem valid_of_ilCheck {op : Nat} {w : Tolog} {f : Form} (h : ilCheck op false w = none) (hf : formOf op w = some f) : f.valid = true := by
  simp only [ilCheck, hf] at h
  split at h
  · cases h
  split at h
  · cases h
  split at h
  · cases h
  next unreserved =>
    simp only [Bool.false_or, Bool.not_eq_true', Bool.not_eq_false, Form.rsvOk, Bool.and_eq_true] at unreserved
    obtain ⟨⟨-, valid⟩, -⟩ := unreserved
    exact valid

theorem len_of_ilCheck {op : Nat} {w : Tolog} (h : ilCheck op false w = none) : w.len ≠ 3 := by
  intro len
  simp [ilCheck, len] at h

/-! ### Quotients (R110) -/

theorem divWord_eq_quotient (u : Bool) (a b : Word) : divWord u a b = quotient u a b := by
  simp only [divWord, quotient]
  split
  · rfl
  cases u with
  | true =>
    apply BitVec.eq_of_toNat_eq
    rw [if_pos rfl, if_pos rfl, low_natCast, BitVec.toNat_udiv, BitVec.toNat_ofNat, Nat.mod_eq_of_lt]
    exact Nat.lt_of_le_of_lt (Nat.div_le_self _ _) a.isLt
  | false =>
    apply BitVec.eq_of_toInt_eq
    rw [if_neg Bool.false_ne_true, if_neg Bool.false_ne_true, BitVec.toInt_sdiv, low, BitVec.toInt_ofInt]

theorem remWord_eq_remainder (u : Bool) (a b : Word) : remWord u a b = remainder u a b := by
  simp only [remWord, remainder]
  split
  · rfl
  cases u with
  | true =>
    apply BitVec.eq_of_toNat_eq
    rw [if_pos rfl, if_pos rfl, low_natCast, BitVec.toNat_umod, BitVec.toNat_ofNat, Nat.mod_eq_of_lt (b := 2 ^ 64)]
    exact Nat.lt_of_le_of_lt (Nat.mod_le _ _) a.isLt
  | false => rw [if_neg Bool.false_ne_true, if_neg Bool.false_ne_true, ← BitVec.toInt_srem, low_toInt]

/-! ### Comparing and clamping (R22, R54) -/

theorem low_min_num (u : Bool) (a b : Word) : low (min (num u a) (num u b)) = if num u a ≤ num u b then a else b := by
  rw [Int.min_def, apply_ite low, low_num, low_num]

theorem low_max_num (u : Bool) (a b : Word) : low (max (num u a) (num u b)) = if num u a ≤ num u b then b else a := by
  rw [Int.max_def, apply_ite low, low_num, low_num]

theorem clampInt_eq_held (u : Bool) (i : Int) : clampInt u 64 i = held u i := by
  cases u <;> simp only [clampInt, intMin, intMax, held, Bool.false_eq_true, if_false, if_true] <;> omega

theorem ccHolds_eq_cond (cc : Nat) (u : Bool) (a b : Word) : ccHolds cc u 64 a.toNat b.toNat = Claims.cond cc u a b := by
  have same : (num u a == num u b) = (a == b) := by rw [Bool.eq_iff_iff, beq_iff_eq, beq_iff_eq, num_inj]
  have common : (a.toNat &&& b.toNat != 0) = (a &&& b != 0) := by
    rw [← BitVec.toNat_and, Bool.eq_iff_iff, bne_iff_ne, bne_iff_ne, ne_eq, ne_eq, BitVec.toNat_eq]; rfl
  simp only [ccHolds, readInt_eq_fieldNum, fieldNum_toNat]
  match cc with
  | 0 => exact same
  | 1 => exact congrArg not same
  | 2 => rfl
  | 3 => rfl
  | 4 => rfl
  | 5 => rfl
  | _ + 6 => exact common

theorem condField_toNat (m : BitVec 8) : (m.extractLsb' 2 3).toNat = m.toNat / 4 % 8 := by
  rw [BitVec.extractLsb'_toNat, Nat.shiftRight_eq_div_pow]

theorem lutBit_eq (lut : BitVec 8) (a b : Bool) : lutBit lut a b = lut.getLsbD ((if a then 2 else 0) + (if b then 1 else 0)) := by
  cases a <;> cases b <;> rfl

/-! ### Logic, shifts and rotations (R108, R109) -/

theorem and_not_eq (a b : Word) : a &&& ~~~b = BitVec.ofNat 64 (a.toNat &&& (2 ^ 64 - 1 - b.toNat)) := by
  rw [show 2 ^ 64 - 1 - b.toNat = (~~~b).toNat from BitVec.toNat_not.symm, BitVec.ofNat_and, ofNat_toNat_word, ofNat_toNat_word]

theorem amount_eq (x : Ctx) : x.amount = amount x := by
  rw [Ctx.amount, Trapping.fld_eq_part _ (by decide), part, Nat.pow_zero, Nat.div_one]; rfl

theorem shl64_eq (a : Word) (n : Nat) : shl64 a n = BitVec.ofNat 64 (a.toNat * 2 ^ n) := by
  apply BitVec.eq_of_toNat_eq
  rw [shl64, BitVec.toNat_ofNat]
  split
  · rw [BitVec.toNat_shiftLeft, Nat.shiftLeft_eq]
  next big => exact (Nat.mod_eq_zero_of_dvd (Nat.dvd_mul_left_of_dvd (Nat.pow_dvd_pow 2 (Nat.not_lt.mp big)) _)).symm

theorem shr64_eq (a : Word) (n : Nat) : shr64 a n = BitVec.ofNat 64 (a.toNat / 2 ^ n) := by
  apply BitVec.eq_of_toNat_eq
  rw [shr64, BitVec.toNat_ofNat, Nat.mod_eq_of_lt (Nat.lt_of_le_of_lt (Nat.div_le_self _ _) a.isLt)]
  split
  · rw [BitVec.toNat_ushiftRight, Nat.shiftRight_eq_div_pow]
  next big => exact (Nat.div_eq_of_lt (Nat.lt_of_lt_of_le a.isLt (Nat.pow_le_pow_right (by decide) (Nat.not_lt.mp big)))).symm

/-- Past 63, every arithmetic shift leaves the sign alone. -/
theorem toInt_div_two_pow_min (a : Word) (n : Nat) : a.toInt / 2 ^ min n 63 = a.toInt / 2 ^ n := by
  by_cases small : n ≤ 63
  · rw [Nat.min_eq_left small]
  rw [Nat.min_eq_right (by omega)]
  have lower : -2 ^ 63 ≤ a.toInt := BitVec.le_toInt a
  have upper : a.toInt < 2 ^ 63 := BitVec.toInt_lt
  have wide : (2 ^ 63 : Int) ≤ 2 ^ n := by exact_mod_cast Nat.pow_le_pow_right (by decide) (by omega : 63 ≤ n)
  by_cases negative : a.toInt < 0
  · rw [Int.ediv_eq_neg_one_of_neg_of_le negative (by omega), Int.ediv_eq_neg_one_of_neg_of_le negative (by omega)]
  · rw [Int.ediv_eq_zero_of_lt (by omega) upper, Int.ediv_eq_zero_of_lt (by omega) (by omega)]

theorem sar64_eq (a : Word) (n : Nat) : sar64 a n = low (a.toInt / 2 ^ n) := by
  rw [sar64, BitVec.sshiftRight, Int.shiftRight_eq_div_pow, low]
  congr 1
  exact_mod_cast toInt_div_two_pow_min a n

/-- The two parts of a rotation do not overlap, so that joining them adds them. -/
theorem rotated_or_eq_add {a r : Nat} (ha : a < 2 ^ 64) (hr : r ≤ 64) :
    a * 2 ^ r % 2 ^ 64 ||| a / 2 ^ (64 - r) = (a * 2 ^ r + a / 2 ^ (64 - r)) % 2 ^ 64 := by
  have split : 2 ^ 64 = 2 ^ r * 2 ^ (64 - r) := by rw [← Nat.pow_add, Nat.add_sub_cancel' hr]
  have wrapped : a / 2 ^ (64 - r) < 2 ^ r := Nat.div_lt_of_lt_mul (by rw [Nat.mul_comm, ← split]; exact ha)
  rw [Nat.mul_comm a (2 ^ r), split, Nat.mul_mod_mul_left, ← Nat.two_pow_add_eq_or_of_lt wrapped, Nat.mod_mul, Nat.mul_add_mod,
    Nat.mod_eq_of_lt wrapped, Nat.mul_add_div (Nat.two_pow_pos r), Nat.div_eq_of_lt wrapped, Nat.add_zero, Nat.add_comm]

theorem rotateLeft_eq (a : Word) {r : Nat} (hr : r < 64) :
    a.rotateLeft r = BitVec.ofNat 64 (a.toNat * 2 ^ r + a.toNat / 2 ^ (64 - r)) := by
  apply BitVec.eq_of_toNat_eq
  rw [BitVec.toNat_rotateLeft, Nat.mod_eq_of_lt hr, Nat.shiftLeft_eq, Nat.shiftRight_eq_div_pow, BitVec.toNat_ofNat,
    rotated_or_eq_add a.isLt (Nat.le_of_lt hr)]

theorem rotateRight_eq (a : Word) {r : Nat} (hr : r < 64) :
    a.rotateRight r = BitVec.ofNat 64 (a.toNat / 2 ^ r + a.toNat * 2 ^ (64 - r)) := by
  have back := rotated_or_eq_add a.isLt (Nat.sub_le 64 r)
  rw [Nat.sub_sub_self (Nat.le_of_lt hr)] at back
  apply BitVec.eq_of_toNat_eq
  rw [BitVec.toNat_rotateRight, Nat.mod_eq_of_lt hr, Nat.shiftLeft_eq, Nat.shiftRight_eq_div_pow, BitVec.toNat_ofNat, Nat.or_comm, back,
    Nat.add_comm]

theorem rot_eq (x : Ctx) (a : Word) (right : Bool) :
    (if right then a.rotateRight (x.amount % 64) else a.rotateLeft (x.amount % 64)) =
      BitVec.ofNat 64 (if right then a.toNat / 2 ^ (amount x % 64) + a.toNat * 2 ^ (64 - amount x % 64)
        else a.toNat * 2 ^ (amount x % 64) + a.toNat / 2 ^ (64 - amount x % 64)) := by
  have small : amount x % 64 < 64 := Nat.mod_lt _ (by decide)
  rw [amount_eq, apply_ite (BitVec.ofNat 64), rotateLeft_eq a small, rotateRight_eq a small]

/-! ### Counting bits (R108) -/

theorem clz_eq {n x : Nat} (h : x < 2 ^ n) : clz n x = if x = 0 then n else n - 1 - x.log2 := by
  induction n with
  | zero => simp [clz]
  | succ k ih =>
    rw [clz]
    by_cases small : x < 2 ^ k
    · rw [Nat.testBit_lt_two_pow small, if_neg Bool.false_ne_true, ih small]
      split
      · omega
      next pos =>
        have := (Nat.log2_lt pos).mpr small
        omega
    · have pos : x ≠ 0 := by have := Nat.two_pow_pos k; omega
      have top : x.log2 = k := (Nat.log2_eq_iff pos).mpr ⟨Nat.not_lt.mp small, h⟩
      rw [if_neg pos, if_pos (top ▸ Nat.testBit_log2 pos), top, Nat.add_sub_cancel, Nat.sub_self]

theorem clz_word (a : Word) : clz 64 a.toNat = if a = 0 then 64 else 63 - a.toNat.log2 := by
  have zero : a.toNat = 0 ↔ a = 0 := (BitVec.toNat_eq (y := 0)).symm
  simp only [clz_eq a.isLt, zero]

theorem popc_eq_countP (n x : Nat) : popc n x = (List.range n).countP x.testBit := by
  induction n with
  | zero => rfl
  | succ k ih => rw [popc, ih, List.range_succ, List.countP_append, List.countP_singleton, Nat.add_comm]

theorem popc_word (a : Word) : popc 64 a.toNat = (List.range 64).countP fun i => a.getLsbD i := popc_eq_countP 64 a.toNat

/-! ### Bit fields and extensions (R108, R111) -/

theorem pos_eq (x : Ctx) : x.pos = pos x.w := by
  rw [Ctx.pos, Trapping.fld_eq_part _ (by decide), part, Nat.pow_zero, Nat.div_one]; rfl

theorem wid_eq (x : Ctx) : x.wid = Claims.width x.w := Trapping.fld_eq_part _ (by decide)

theorem bfx_eq (x : Ctx) (a : Word) :
    bfx x.n a x.pos x.wid = low (fieldNum (isN x.w) (Claims.width x.w) (a.toNat / 2 ^ pos x.w % 2 ^ Claims.width x.w)) := by
  rw [bfx, pos_eq, wid_eq, readInt_eq_fieldNum]; rfl

theorem ones_getLsbD {n : Nat} (positive : 0 < n) (fits : n ≤ 64) (i : Nat) :
    (BitVec.allOnes 64 >>> (63 - (n - 1))).getLsbD i = decide (i < n) := by
  rw [BitVec.getLsbD_ushiftRight, BitVec.getLsbD_allOnes, decide_eq_decide]; omega

/-- Taking a field away and putting another in its place changes the bits of the field alone. -/
theorem testBit_replace {d a p n : Nat} (i : Nat) :
    (d - d / 2 ^ p % 2 ^ n * 2 ^ p + a % 2 ^ n * 2 ^ p).testBit i =
      if p ≤ i ∧ i < p + n then a.testBit (i - p) else d.testBit i := by
  have parts : d = 2 ^ p * (2 ^ n * (d / 2 ^ p / 2 ^ n) + d / 2 ^ p % 2 ^ n) + d % 2 ^ p := by rw [Nat.div_add_mod, Nat.div_add_mod]
  have replaced : d - d / 2 ^ p % 2 ^ n * 2 ^ p + a % 2 ^ n * 2 ^ p =
      2 ^ p * (2 ^ n * (d / 2 ^ p / 2 ^ n) + a % 2 ^ n) + d % 2 ^ p := by
    conv => lhs; enter [1, 1]; rw [parts]
    rw [Nat.mul_add, Nat.mul_add, Nat.mul_comm (d / 2 ^ p % 2 ^ n), Nat.mul_comm (a % 2 ^ n)]
    omega
  rw [replaced, Nat.testBit_two_pow_mul_add _ (Nat.mod_lt _ (Nat.two_pow_pos p)),
    Nat.testBit_two_pow_mul_add _ (Nat.mod_lt _ (Nat.two_pow_pos n))]
  simp only [Nat.testBit_mod_two_pow, Nat.testBit_div_two_pow]
  by_cases below : i < p
  · simp [below, Nat.not_le.mpr below]
  by_cases inside : i - p < n
  · simp [below, inside, Nat.not_lt.mp below, show i < p + n by omega]
  · simp [below, inside, show ¬ i < p + n by omega, show i - p - n + n + p = i by omega]

theorem bfi_eq (d a : Word) {p n : Nat} (hn : 0 < n) (h : p + n ≤ 64) :
    bfi d a p n = BitVec.ofNat 64 (d.toNat - d.toNat / 2 ^ p % 2 ^ n * 2 ^ p + a.toNat % 2 ^ n * 2 ^ p) := by
  apply BitVec.eq_of_getLsbD_eq
  intro i hi
  simp only [bfi, setFld, show p + n - 1 - p = n - 1 by omega, wd, BitVec.getLsbD_ofNat, testBit_replace, BitVec.getLsbD_or, BitVec.getLsbD_and,
    BitVec.getLsbD_not, BitVec.getLsbD_shiftLeft, ones_getLsbD hn (by omega : n ≤ 64), hi, decide_true, Bool.true_and]
  by_cases below : i < p
  · simp [below, Nat.not_le.mpr below, BitVec.testBit_toNat]
  by_cases inside : i - p < n
  · simp [below, inside, Nat.not_lt.mp below, show i < p + n by omega, show i - p < 64 by omega]
  · simp [below, inside, show ¬ i < p + n by omega, BitVec.testBit_toNat]

theorem bfi_field {w : Tolog} (h : ilCheck 0x15 false w = none) : 0 < Claims.width w ∧ pos w + Claims.width w ≤ 64 := by
  have assigned : ((w.imm.extractLsb' 8 7).toNat != 0 &&
      decide ((w.imm.extractLsb' 0 6).toNat + (w.imm.extractLsb' 8 7).toNat ≤ 64)) = true := valid_of_ilCheck h rfl
  simp only [Bool.and_eq_true, bne_iff_ne, decide_eq_true_eq, BitVec.extractLsb'_toNat, Nat.shiftRight_eq_div_pow, Nat.pow_zero, Nat.div_one]
    at assigned
  obtain ⟨wide, inside⟩ := assigned
  exact ⟨Nat.pos_of_ne_zero wide, inside⟩

theorem sizeField_toNat (m : BitVec 8) : (m.extractLsb' 5 3).toNat = m.toNat / 32 := by
  rw [BitVec.extractLsb'_toNat, Nat.shiftRight_eq_div_pow]
  omega

theorem sext_bits {w : Tolog} (h : ilCheck 0x16 false w = none) :
    8 * 2 ^ (w.mod.extractLsb' 5 3).toNat = if w.mod.toNat / 32 = 0 then 8 else if w.mod.toNat / 32 = 1 then 16 else 32 := by
  have assigned : decide ((w.mod.extractLsb' 5 3).toNat ≤ 2) = true := valid_of_ilCheck h rfl
  rw [decide_eq_true_eq] at assigned
  rw [← sizeField_toNat]
  match (w.mod.extractLsb' 5 3).toNat, assigned with
  | 0, _ => rfl
  | 1, _ => rfl
  | 2, _ => rfl

theorem movi_eq (w : Tolog) : (if w.len = 2 then w.imm else if isN w then w.imm &&& 0xFFFFFFFF else sext32 w.imm) =
    if w.len = 2 then w.imm else if isN w then BitVec.ofNat 64 (w.imm.toNat % 2 ^ 32) else low (fieldNum false 32 (w.imm.toNat % 2 ^ 32)) := by
  have masked : w.imm &&& 0xFFFFFFFF = BitVec.ofNat 64 (w.imm.toNat % 2 ^ 32) := by
    rw [← Nat.and_two_pow_sub_one_eq_mod, BitVec.ofNat_and, ofNat_toNat_word]; rfl
  rw [masked, sext32_eq_low]

theorem lea_eq (a b : Word) (n : Nat) : a + b <<< n = BitVec.ofNat 64 (a.toNat + b.toNat * 2 ^ n) := by
  rw [BitVec.ofNat_add, ← Nat.shiftLeft_eq, ofNat_toNat_word]
  rfl

/-! ### The instructions -/

/-- An instruction whose body only computes gives what the body computes. -/
theorem gives_pure {i : Instr} {op : Nat} {w : Tolog} {f : Ctx → List RegWrite} {v : Ctx → State → List RegWrite}
    (he : ∀ s, exec i s = issue op w s (pureBody f)) (hv : ilCheck op false w = none → ∀ x s, x.w = w → f x = v x s) : Gives i op w v := by
  intro s h
  obtain ⟨-, decodes, -⟩ := id h
  rw [he, issue_ok h rfl, hv decodes (ctx op w s) (start s) rfl]

theorem gives_g {i : Instr} {op : Nat} {w : Tolog} {f v : Ctx → Word} (he : ∀ s, exec i s = issue op w s (pureBody (gRes f)))
    (hv : ilCheck op false w = none → ∀ x, x.w = w → f x = v x) : Gives i op w fun x _ => [.g w.d (v x)] :=
  gives_pure he fun ok x _ hw => by rw [gRes, hv ok x hw, hw]

/-- Settles O1: each instruction by the lemma about its operation, in the order of the statement. -/
theorem scalarResults : Obligations.ScalarResults := by
  unfold Obligations.ScalarResults
  refine ⟨fun w => ⟨?_, ?_, ?_, ?_, ?_, ?_, ?_, ?_, ?_, ?_, ?_, ?_⟩, fun w => ⟨?_, ?_, ?_, ?_, ?_, ?_, ?_, ?_, ?_, ?_, ?_, ?_, ?_⟩,
    fun w => ⟨?_, ?_, ?_, ?_, ?_, ?_⟩⟩
  -- arithmetic (R108, R110)
  · exact gives_pure (fun _ => rfl) fun _ _ _ _ => rfl
  · exact gives_g (fun _ => rfl) fun _ x _ => by rw [low_add, low_toInt, low_toInt]
  · exact gives_g (fun _ => rfl) fun _ x _ => by rw [low_sub, low_toInt, low_toInt]
  · exact gives_g (fun _ => rfl) fun _ x _ => by rw [low_mul, low_toInt, low_toInt]
  · exact gives_g (fun _ => rfl) fun _ x hw => by rw [int_eq_num, int_eq_num, hw]; rfl
  · exact gives_g (fun _ => rfl) fun _ x hw => by rw [divWord_eq_quotient, ← hw]; rfl
  · exact gives_g (fun _ => rfl) fun _ x hw => by rw [remWord_eq_remainder, ← hw]; rfl
  · exact gives_g (fun _ => rfl) fun _ x hw => by rw [int_eq_num, int_eq_num, hw]; exact low_min_num _ _ _
  · exact gives_g (fun _ => rfl) fun _ x hw => by rw [int_eq_num, int_eq_num, hw]; exact low_max_num _ _ _
  · exact gives_g (fun _ => rfl) fun _ _ _ => rfl
  · exact gives_g (fun _ => rfl) fun _ x _ => by rw [low_add, low_mul, low_toInt, low_toInt, low_toInt]
  · exact gives_g (fun _ => rfl) fun _ x hw => by rw [clampInt_eq_held, int_eq_num, int_eq_num, ← hw]; rfl
  -- logic, shifts and bit fields (R108, R109, R111)
  · exact gives_g (fun _ => rfl) fun _ x _ => by rw [BitVec.ofNat_and, ofNat_toNat_word, ofNat_toNat_word]
  · exact gives_g (fun _ => rfl) fun _ x _ => by rw [BitVec.ofNat_or, ofNat_toNat_word, ofNat_toNat_word]
  · exact gives_g (fun _ => rfl) fun _ x _ => by rw [BitVec.ofNat_xor, ofNat_toNat_word, ofNat_toNat_word]
  · exact gives_g (fun _ => rfl) fun _ x _ => and_not_eq _ _
  · exact gives_g (fun _ => rfl) fun _ x _ => by rw [amount_eq, shl64_eq]
  · exact gives_g (fun _ => rfl) fun _ x _ => by rw [amount_eq, shr64_eq]
  · exact gives_g (fun _ => rfl) fun _ x _ => by rw [amount_eq, sar64_eq]
  · exact gives_g (fun _ => rfl) fun _ x _ => rot_eq x (x.g w.a) (w.mod.getLsbD 5)
  · exact gives_g (fun _ => rfl) fun _ x _ => congrArg wd (clz_word _)
  · exact gives_g (fun _ => rfl) fun _ x _ => congrArg wd (popc_word _)
  · exact gives_g (fun _ => rfl) fun _ x hw => by rw [bfx_eq, hw]
  · exact gives_g (fun _ => rfl) fun ok x hw => by
      obtain ⟨wide, inside⟩ := bfi_field ok
      rw [pos_eq, wid_eq, hw, bfi_eq _ _ wide inside]
  · exact gives_g (fun _ => rfl) fun ok x hw => by rw [sext_bits ok, ← hw]; exact congrArg wi (readInt_eq_fieldNum _ _ _)
  -- moves, selection, comparison and addresses (R108)
  · exact gives_g (fun _ => rfl) fun _ x hw => by rw [← hw]; exact movi_eq x.w
  · exact gives_g (fun _ => rfl) fun _ _ _ => rfl
  · exact gives_g (fun _ => rfl) fun _ _ _ => rfl
  · exact gives_pure (fun _ => rfl) fun _ x _ hw => by rw [ccHolds_eq_cond, condField_toNat, ← hw]; rfl
  · exact gives_pure (fun _ => rfl) fun _ x _ _ => by rw [lutBit_eq]
  · exact gives_g (fun _ => rfl) fun _ x _ => by rw [sizeField_toNat, lea_eq]

end Sys2Proof.Scalar
end

section
/-! PROOF. Control transfers (R9, R10, R112 to R115): when a target is legal, what a body that ends in a transfer does, and the target in which
the body of each instruction ends. -/

namespace Sys2Proof.Transfer

open Sys2Proof.Machine Sys2Proof.Claims Sys2Proof.Laws Sys2Proof.Scalar

/-! ### Targets (R9, R10, R112) -/

theorem badTarget_iff (t : Word) : badTarget t.toNat = true ↔ ¬ Legal t := by
  simp only [badTarget, Legal, Bool.or_eq_true, bne_iff_ne, beq_iff_eq, decide_eq_true_eq]
  omega

theorem rel_eq_relTarget (x : Ctx) : x.rel = relTarget x := by
  rw [Ctx.rel, sext32_eq_low, relTarget, low_add, low_natCast]
  rfl

theorem lenBytes_eq_lengthOf {len : BitVec 2} (h : len ≠ 3) : lenBytes len = lengthOf len := by
  revert len; decide

theorem seqAddr_eq_successor {len : BitVec 2} (h : len ≠ 3) (pc : Nat) : seqAddr pc len = successor pc (lengthOf len) := by
  rw [seqAddr, lenBytes_eq_lengthOf h]
  rfl

/-! ### Transfers (R112, R113) -/

theorem transfer_of_legal (e : Eff) {t : Word} (h : Legal t) : transfer e t = .ok { e with jump := some t.toNat } := by
  rw [transfer, if_neg fun bad => (badTarget_iff t).mp bad h]

theorem transfer_of_not_legal (e : Eff) {t : Word} (h : ¬ Legal t) : transfer e t = .trap 0x01 t 0 := by
  rw [transfer, if_pos ((badTarget_iff t).mpr h)]

theorem acts_of_ok {i : Instr} {op : Nat} {w : Tolog} {s : State} {body : Ctx → State → Body} {e : Eff} (he : exec i s = issue op w s body)
    (h : Issues op w s) (hb : body (ctx op w s) (start s) = .ok e) : Acts i op w s e := he.trans (issue_ok h hb)

theorem traps_of_trap {i : Instr} {op : Nat} {w : Tolog} {s : State} {body : Ctx → State → Body} {cause : Nat} {val : Ctx → Word}
    (he : exec i s = issue op w s body) (h : Issues op w s) (hb : body (ctx op w s) (start s) = .trap cause (val (ctx op w s)) 0) :
    Traps i op w cause val s := he.trans (issue_trap h hb)

/-- An instruction whose body ends in a transfer from the state in which it starts (R113). -/
theorem transfers_of_body {i : Instr} {op : Nat} {w : Tolog} {s : State} {body : Ctx → State → Body} {target : Ctx → Word}
    {ws : Ctx → List RegWrite} (he : exec i s = issue op w s body) (h : Issues op w s)
    (hb : body (ctx op w s) (start s) = transfer { s := start s, writes := ws (ctx op w s) } (target (ctx op w s))) :
    Transfers i op w target ws s :=
  ⟨fun legal => acts_of_ok he h (hb.trans (transfer_of_legal _ legal)),
    fun illegal => traps_of_trap he h (hb.trans (transfer_of_not_legal _ illegal))⟩

/-! ### The table of `JTAB` (R115) -/

theorem ofLe_eq_number (bs : List Byte) : ofLe bs = number bs := by
  induction bs with
  | nil => rfl
  | cons b t ih => rw [ofLe, ih]; rfl

theorem number_lt (bs : List Byte) : number bs < 256 ^ bs.length := by
  induction bs with
  | nil => decide
  | cons b t ih =>
    have := b.isLt
    rw [List.length_cons, Nat.pow_succ]
    show b.toNat + 256 * number t < _
    omega

/-- The entry of a table, sign-extended (R115). -/
theorem entry_eq_low {bs : List Byte} (h : bs.length = 4) : ((wordOf bs).extractLsb' 0 32).signExtend 64 = low (fieldNum false 32 (number bs)) := by
  have small : number bs < 2 ^ 32 := by simpa [h] using number_lt bs
  rw [signExtend_eq_low, BitVec.extractLsb'_toNat, Nat.shiftRight_zero, wordOf, wd, BitVec.toNat_ofNat, ofLe_eq_number,
    Nat.mod_eq_of_lt (b := 2 ^ 64) (by omega), Nat.mod_eq_of_lt small]

/-- The default target of a table (R115). -/
theorem default_eq (pc : Nat) (imm : Word) :
    wd pc + (imm.extractLsb' 48 16).signExtend 64 * 4 = low (pc + 4 * fieldNum false 16 (imm.toNat / 2 ^ 48)) := by
  have top : (imm.extractLsb' 48 16).toNat = imm.toNat / 2 ^ 48 := by
    rw [BitVec.extractLsb'_toNat, Nat.shiftRight_eq_div_pow, Nat.mod_eq_of_lt (by omega)]
  rw [signExtend_eq_low, top, low_add, low_natCast, low_mul, BitVec.mul_comm]
  rfl

theorem disp_eq_low (imm : Word) : disp imm = low (fieldNum false 24 (imm.toNat / 256 % 2 ^ 24)) := by
  rw [disp, signExtend_eq_low, BitVec.extractLsb'_toNat, Nat.shiftRight_eq_div_pow]

/-- A load that has sent no access and issued none goes on with the bytes that it reads (R133, R137). -/
theorem loadVia_reads {x : Ctx} {s t u : State} {hi off n align : Nat} {spaces : List Nat} {go : State → List Byte → Body} {a : Acc} {bs : List Byte}
    (asked : x.f.asked = []) (issued : x.f.issued = [])
    (checked : s.check x.c (x.res s) x.sid hi off n align .load spaces false x.w.ch.toNat = .ok (t, a)) (behind : x.behind s a = false)
    (held : x.held t a = false) (read : t.read a = some (u, bs)) : loadVia x s hi off n align spaces go = go u bs := by
  have unsent : x.sent 0 = false := by rw [Ctx.sent, asked]; rfl
  have accessed : x.access s (x.res s) x.c hi off n align .load spaces false x.w.ch.toNat 0 = .ok (t, a) := by
    simp only [Ctx.access, issued, mget, checked, behind, Bool.false_eq_true, if_false]
  simp only [loadVia, unsent, accessed, held, read, Bool.false_eq_true, if_false]

theorem jtabBody_default {x : Ctx} {s : State} (h : x.w.imm.toNat / 2 ^ 32 % 2 ^ 16 ≤ (x.g x.w.b).toNat) :
    jtabBody x s = transfer { s } (low (x.f.pc + 4 * fieldNum false 16 (x.w.imm.toNat / 2 ^ 48))) := by
  simp only [jtabBody, Trapping.fld_eq_part x.w.imm (show 32 ≤ 47 by decide), part]
  rw [if_pos h, default_eq]

theorem jtabBody_entry {x : Ctx} {s t u : State} {a : Acc} {bs : List Byte} (h : (x.g x.w.b).toNat < x.w.imm.toNat / 2 ^ 32 % 2 ^ 16)
    (asked : x.f.asked = []) (issued : x.f.issued = [])
    (checked : s.check x.c (x.res s) x.sid (x.w.imm.toNat % 256)
      (low (x.g x.w.a).toInt + low (fieldNum false 24 (x.w.imm.toNat / 256 % 2 ^ 24)) + low (4 * (x.g x.w.b).toNat)).toNat
      4 4 .load [1, 2, 3, 4, 5] false x.w.ch.toNat = .ok (t, a))
    (behind : x.behind s a = false) (held : x.held t a = false) (read : t.read a = some (u, bs)) (four : bs.length = 4) :
    jtabBody x s = transfer { s := u } (low (x.f.pc + fieldNum false 32 (number bs))) := by
  have offset : x.g x.w.a + (x.w.imm.extractLsb' 8 24).signExtend 64 + 4 * x.g x.w.b =
      low (x.g x.w.a).toInt + low (fieldNum false 24 (x.w.imm.toNat / 256 % 2 ^ 24)) + low (4 * (x.g x.w.b).toNat) := by
    rw [low_toInt, ← disp_eq_low, low_mul, low_natCast, ofNat_toNat_word]
    rfl
  have index : hidx x.w.imm = x.w.imm.toNat % 256 := by rw [hidx, BitVec.extractLsb'_toNat, Nat.shiftRight_zero]
  simp only [jtabBody, Trapping.fld_eq_part x.w.imm (show 32 ≤ 47 by decide), part]
  rw [if_neg (Nat.not_le.mpr h), offset, index, ldSpaces, loadVia_reads asked issued checked behind held read, entry_eq_low four, low_add,
    low_natCast]
  rfl

/-! ### The instructions -/

theorem callBody_eq {x : Ctx} (s : State) (h : x.w.len ≠ 3) : callBody x s =
    transfer { s, writes := [.g x.w.d (BitVec.ofNat 64 (successor x.f.pc (lengthOf x.w.len)))] } (relTarget x) := by
  rw [callBody, seqAddr_eq_successor h, rel_eq_relTarget]
  rfl

theorem loopBody_last {x : Ctx} (s : State) (h : x.g x.w.d - 1 = 0) : loopBody x s = .ok { s, writes := [.g x.w.d 0] } := by
  simp only [loopBody, h, if_true]

theorem loopBody_more {x : Ctx} (s : State) (h : x.g x.w.d - 1 ≠ 0) :
    loopBody x s = transfer { s, writes := [.g x.w.d (x.g x.w.d - 1)] } (relTarget x) := by
  simp only [loopBody, h, if_false, rel_eq_relTarget]

/-- Settles O2: each transfer by the target in which its body ends, `JTAB` by the default and the entry of its table. -/
theorem controlTransfer : Obligations.ControlTransfer := by
  unfold Obligations.ControlTransfer
  intro w s
  refine ⟨fun h => ?_, fun h => ?_, fun h => ?_, fun h => ?_, fun h => ⟨fun last => ?_, fun more => ?_⟩,
    fun h => ⟨fun beyond => ?_, fun within fresh s1 a s2 bs checked behind held read four => ?_⟩⟩
  · exact transfers_of_body rfl h rfl
  · exact transfers_of_body rfl h (congrArg _ (rel_eq_relTarget _))
  · obtain ⟨-, decodes, -⟩ := id h
    exact transfers_of_body rfl h (callBody_eq _ (len_of_ilCheck decodes))
  · exact transfers_of_body rfl h rfl
  · exact acts_of_ok rfl h (loopBody_last _ last)
  · exact transfers_of_body rfl h (loopBody_more _ more)
  · exact transfers_of_body rfl h (jtabBody_default beyond)
  · obtain ⟨asked, -, issued⟩ := fresh
    have entry := jtabBody_entry within asked issued checked behind held read four
    exact ⟨fun legal => acts_of_ok rfl h (entry.trans (transfer_of_legal _ legal)),
      fun illegal => traps_of_trap rfl h (entry.trans (transfer_of_not_legal _ illegal))⟩

end Sys2Proof.Transfer
end

section
/-! PROOF. Packed elements, and vector integer arithmetic, logic, moves and requantisation (R155 to R163): the elements of a packed register, the
model's operation on an element as the number that the spec's table gives, and from these each instruction. -/

namespace Sys2Proof.VectorInt

open Sys2Proof.Machine Sys2Proof.Claims Sys2Proof.Laws Sys2Proof.Scalar

/-! ### Packed registers (R155) -/

theorem packN_div_mod (n : Nat) (xs : List Nat) (e : Nat) : packN n xs / 2 ^ (e * n) % 2 ^ n = xs.getD e 0 % 2 ^ n := by
  induction xs generalizing e with
  | nil => simp [packN]
  | cons a t ih =>
    cases e with
    | zero => simp [packN]
    | succ k =>
      have rest : packN n (a :: t) / 2 ^ n = packN n t := by
        rw [packN, Nat.add_mul_div_left _ _ (Nat.two_pow_pos n), Nat.div_eq_of_lt (Nat.mod_lt _ (Nat.two_pow_pos n)), Nat.zero_add]
      rw [Nat.succ_mul, Nat.add_comm, Nat.pow_add, ← Nat.div_div_eq_div_mul, rest, ih, List.getD_cons_succ]

theorem extractLsb'_ofNat_toNat {m p n : Nat} (a : Nat) (h : p + n ≤ m) : ((BitVec.ofNat m a).extractLsb' p n).toNat = a / 2 ^ p % 2 ^ n := by
  have split : 2 ^ m = 2 ^ p * 2 ^ (m - p) := by rw [← Nat.pow_add, Nat.add_sub_cancel' (by omega)]
  rw [BitVec.extractLsb'_toNat, BitVec.toNat_ofNat, Nat.shiftRight_eq_div_pow, split, Nat.mod_mul_right_div_self,
    Nat.mod_mod_of_dvd _ (Nat.pow_dvd_pow 2 (by omega))]

/-- The bits `o` to `o + k − 1` of element `e` of a packed register. -/
theorem packV_field {n e o k : Nat} (xs : List Nat) (inside : o + k ≤ n) (h : e * n + n ≤ 8192) :
    ((packV n xs).extractLsb' (e * n + o) k).toNat = xs.getD e 0 / 2 ^ o % 2 ^ k := by
  have split : 2 ^ n = 2 ^ o * 2 ^ (n - o) := by rw [← Nat.pow_add, Nat.add_sub_cancel' (by omega)]
  have field (a : Nat) : a / 2 ^ o % 2 ^ k = a % 2 ^ n / 2 ^ o % 2 ^ k := by
    rw [split, Nat.mod_mul_right_div_self, Nat.mod_mod_of_dvd _ (Nat.pow_dvd_pow 2 (by omega))]
  rw [packV, extractLsb'_ofNat_toNat _ (by omega), Nat.pow_add, ← Nat.div_div_eq_div_mul, field, packN_div_mod, ← field]

theorem elem_packV {n e : Nat} (xs : List Nat) (h : e * n + n ≤ 8192) : elem (packV n xs) n e = xs.getD e 0 % 2 ^ n := by
  have whole := packV_field (o := 0) xs (Nat.le_of_eq (Nat.zero_add n)) h
  rwa [Nat.pow_zero, Nat.div_one] at whole

theorem getD_map_range {k e : Nat} (f : Nat → Nat) (h : e < k) : ((List.range k).map f).getD e 0 = f e := by
  simp [List.getD, h]

theorem mask_lane (x : Ctx) {i : Nat} (bits : Nat) (small : bits < 2 ^ 32) (lane : i < x.f.lanes) (held : i < 256) :
    ((x.mask bits).extractLsb' (32 * i) 32).toNat = if x.active.getLsbD i then bits else 0 := by
  rw [Nat.mul_comm]
  refine (elem_packV _ (by omega)).trans ?_
  rw [getD_map_range (k := x.lanes) _ lane, Ctx.on]
  split
  · exact Nat.mod_eq_of_lt small
  · rfl

theorem fullMask_lane (x : Ctx) {i : Nat} (lane : i < x.f.lanes) (held : i < 256) :
    x.fullMask.extractLsb' (32 * i) 32 = if x.active.getLsbD i then BitVec.allOnes 32 else 0 := by
  apply BitVec.eq_of_toNat_eq
  rw [Ctx.fullMask, mask_lane x _ (by decide) lane held]
  split <;> rfl

/-! ### Results in the active lanes (R156, R158) -/

theorem elements_of_packed {x : Ctx} {n : Nat} {f : Nat → Int} {ys : List Nat}
    (h : ∀ e, e < x.count n → x.onE n e = true → (((ys.getD e 0 : Nat) : Int) % 2 ^ n = f e % 2 ^ n)) :
    Elements x n f [.v x.w.d.toNat (packV n ys) x.fullMask] := by
  refine ⟨_, _, rfl, fun i lane held => fullMask_lane x lane held, fun e within inside on => ?_⟩
  rw [← h e within on]
  exact_mod_cast elem_packV ys inside

theorem elements_vec (x : Ctx) (n : Nat) (f : Nat → Nat) : Elements x n (fun e => (f e : Int)) (x.vec n f) :=
  elements_of_packed fun e within _ => by rw [getD_map_range f within]

theorem wrapInt_cast (n : Nat) (i : Int) : (wrapInt n i : Int) = i % 2 ^ n :=
  Int.toNat_of_nonneg (Int.emod_nonneg _ (Int.ne_of_gt (Int.pow_pos (by decide))))

theorem elements_ivec {x : Ctx} {f g : Nat → Int} (same : ∀ e, f e % 2 ^ x.ew = g e % 2 ^ x.ew) : Elements x x.ew g (x.ivec f) :=
  elements_of_packed fun e within on => by rw [getD_map_range _ within, if_pos on, wrapInt_cast, Int.emod_emod]; exact same e

/-! ### Fields and elements as numbers (R22, R54, R155) -/

theorem widthField_toNat (m : BitVec 8) : (m.extractLsb' 0 2).toNat = m.toNat % 4 := by
  rw [BitVec.extractLsb'_toNat, Nat.shiftRight_zero]

theorem opField_toNat (m : BitVec 8) : (m.extractLsb' 3 3).toNat = m.toNat / 8 % 8 := by
  rw [BitVec.extractLsb'_toNat, Nat.shiftRight_eq_div_pow]

theorem ctx_ew (x : Ctx) : x.ew = ew x.w := by rw [Ctx.ew, widthField_toNat, ew]

theorem ew_pos (w : Tolog) : 0 < ew w := Nat.mul_pos (by decide) (Nat.two_pow_pos _)

theorem readInt_elem (u : Bool) (x : Ctx) (r : BitVec 6) (n e : Nat) : readInt u n (elem (x.v r) n e) = el u x r n e := readInt_eq_fieldNum _ _ _

theorem ie_eq_el (x : Ctx) (u : Bool) (r : BitVec 6) (e : Nat) : x.ie u r e = el u x r (ew x.w) e := by
  rw [Ctx.ie, readInt_elem, ctx_ew]

theorem elem_lt (v : VReg) (n e : Nat) : elem v n e < 2 ^ n := (v.extractLsb' (e * n) n).isLt

theorem testBit_elem (v : VReg) {n j : Nat} (e : Nat) (h : j < n) : (elem v n e).testBit j = v.getLsbD (e * n + j) := by
  rw [elem, BitVec.testBit_toNat, BitVec.getLsbD_extractLsb', decide_eq_true h, Bool.true_and]

theorem fieldNum_bounds {u : Bool} {n a : Nat} (positive : 0 < n) (h : a < 2 ^ n) :
    intMin u n ≤ fieldNum u n a ∧ fieldNum u n a ≤ intMax u n := by
  have twice : 2 ^ n = 2 * 2 ^ (n - 1) := by rw [← Nat.pow_succ', Nat.succ_eq_add_one, Nat.sub_add_cancel positive]
  have whole : ((2 ^ n : Nat) : Int) = 2 ^ n := by push_cast; rfl
  have half : ((2 ^ (n - 1) : Nat) : Int) = 2 ^ (n - 1) := by push_cast; rfl
  cases u with
  | true => exact ⟨Int.natCast_nonneg a, show (a : Int) ≤ 2 ^ n - 1 by omega⟩
  | false =>
    simp only [intMin, intMax, fieldNum, Bool.not_false, Bool.true_and, decide_eq_true_eq, Bool.false_eq_true, if_false]
    split <;> omega

theorem el_bounds (u : Bool) (x : Ctx) (r : BitVec 6) {n : Nat} (e : Nat) (positive : 0 < n) :
    intMin u n ≤ el u x r n e ∧ el u x r n e ≤ intMax u n := fieldNum_bounds positive (elem_lt _ n e)

theorem clampInt_eq_heldTo (u : Bool) (n : Nat) (i : Int) : clampInt u n i = heldTo u n i := by
  have range : intMin u n ≤ intMax u n := by
    have whole : (0 : Int) < 2 ^ n := Int.pow_pos (by decide)
    have half : (0 : Int) < 2 ^ (n - 1) := Int.pow_pos (by decide)
    cases u with
    | true => exact Int.le_sub_one_of_lt whole
    | false => show -2 ^ (n - 1) ≤ (2 : Int) ^ (n - 1) - 1; omega
  show max (intMin u n) (min (intMax u n) i) = if i < intMin u n then intMin u n else if intMax u n < i then intMax u n else i
  split
  · omega
  · split <;> omega

/-! ### Arithmetic (R159, R160, R163) -/

theorem fit_eq_maySat (x : Ctx) (i : Int) : x.fit i = maySat x.w i := by
  rw [Ctx.fit, clampInt_eq_heldTo, ctx_ew]; rfl

theorem prod_eq_product (x : Ctx) (e : Nat) : x.prod e = product x x.w e := by
  simp only [Ctx.prod, Ctx.factor, product, ie_eq_el, readInt_eq_fieldNum, ctx_ew, Bool.and_eq_true, decide_eq_true_eq, Bool.not_eq_true']
  by_cases short : ew x.w = 32 ∧ m3 x.w = false
  · have short' : ew x.w = 32 ∧ x.m3 = false := short
    rw [if_pos short, if_pos short', if_pos short', short.left]; rfl
  · have short' : ¬ (ew x.w = 32 ∧ x.m3 = false) := short
    rw [if_neg short, if_neg short', if_neg short']; rfl

theorem vdot4_emod (x : Ctx) (i : Nat) :
    (vdot4 x i : Int) % 2 ^ 32 = (
      let p (j : Nat) : Int := el (vn x.w || m3 x.w) x x.w.a 8 (4 * i + j) * el (vn x.w) x x.w.b 8 (4 * i + j)
      let t := el (vn x.w) x x.w.c 32 i + p 0 + p 1 + p 2 + p 3
      if vsat x.w then heldTo (vn x.w) 32 t else t) % 2 ^ 32 := by
  rw [vdot4, wrapInt_cast]
  simp only [readInt_elem, clampInt_eq_heldTo]
  exact Int.emod_emod _ _

/-! ### Shifts (R161) -/

theorem shAmt_eq_vamount (x : Ctx) (e : Nat) : x.shAmt e = vamount x x.w e := by
  rw [Ctx.shAmt, vamount, Trapping.fld_eq_part _ (by decide), part, Nat.pow_zero, Nat.div_one, ctx_ew]; rfl

theorem vshl_emod (sat u : Bool) (n k a : Nat) :
    vshl sat u n k a % 2 ^ n = (if sat then heldTo u n (fieldNum u n a * 2 ^ k) else (a : Int) * 2 ^ k) % 2 ^ n := by
  rw [vshl, clampInt_eq_heldTo, readInt_eq_fieldNum]
  cases sat with
  | true => rfl
  | false =>
    simp only [Bool.false_eq_true, if_false]
    split
    next past =>
      rw [Int.zero_emod]
      exact_mod_cast (Nat.mod_eq_zero_of_dvd (Nat.dvd_mul_left_of_dvd (Nat.pow_dvd_pow 2 past) a)).symm
    next => push_cast; rfl

theorem vshr_eq {n a : Nat} (k : Nat) (h : a < 2 ^ n) : vshr n k a = (a : Int) / 2 ^ k := by
  rw [vshr]
  split
  next past => exact_mod_cast (Nat.div_eq_of_lt (Nat.lt_of_lt_of_le h (Nat.pow_le_pow_right (by decide) past))).symm
  next => push_cast; rfl

/-- Past the width, every arithmetic shift of a field leaves its sign alone. -/
theorem ediv_two_pow_min {i : Int} {n : Nat} (k : Nat) (lower : -2 ^ n ≤ i) (upper : i < 2 ^ n) : i / 2 ^ min k n = i / 2 ^ k := by
  by_cases small : k ≤ n
  · rw [Nat.min_eq_left small]
  rw [Nat.min_eq_right (by omega)]
  have wide : (2 ^ n : Int) ≤ 2 ^ k := by exact_mod_cast Nat.pow_le_pow_right (by decide) (by omega : n ≤ k)
  by_cases negative : i < 0
  · rw [Int.ediv_eq_neg_one_of_neg_of_le negative (by omega), Int.ediv_eq_neg_one_of_neg_of_le negative (by omega)]
  · rw [Int.ediv_eq_zero_of_lt (by omega) upper, Int.ediv_eq_zero_of_lt (by omega) (by omega)]

theorem vsar_eq {n a : Nat} (k : Nat) (positive : 0 < n) (h : a < 2 ^ n) : vsar n k a = fieldNum false n a / 2 ^ k := by
  obtain ⟨lower, upper⟩ := fieldNum_bounds (u := false) positive h
  have half : (2 : Int) ^ (n - 1) ≤ 2 ^ n := by exact_mod_cast Nat.pow_le_pow_right (by decide) (Nat.sub_le n 1)
  have least : intMin false n = -2 ^ (n - 1) := rfl
  have greatest : intMax false n = 2 ^ (n - 1) - 1 := rfl
  rw [vsar, readInt_eq_fieldNum, ediv_two_pow_min k (by omega) (by omega)]

/-! ### Counts and comparison (R22, R159) -/

theorem clz_elem (v : VReg) (n e : Nat) : clz n (elem v n e) = lead n (elem v n e) := clz_eq (elem_lt v n e)

theorem popc_elem (v : VReg) (n e : Nat) : popc n (elem v n e) = (List.range n).countP fun j => v.getLsbD (e * n + j) := by
  rw [popc_eq_countP]
  exact List.countP_congr fun j hj => by rw [testBit_elem v e (List.mem_range.mp hj)]

theorem ccHolds_eq_vcond (cc : Nat) (u : Bool) (x : Ctx) (e : Nat) :
    ccHolds cc u (ew x.w) (elem (x.v x.w.a) (ew x.w) e) (elem (x.v x.w.b) (ew x.w) e) = vcond cc u x x.w e := by
  simp only [ccHolds, readInt_elem]
  match cc with
  | 0 => rfl
  | 1 => exact decide_not.symm
  | 2 => rfl
  | 3 => rfl
  | 4 => rfl
  | 5 => rfl
  | _ + 6 => rfl

/-! ### Requantisation (R162) -/

/-- The width and the place of the field that a requantisation writes in each active lane. -/
def rqWidth (w : Tolog) : Nat := if m3 w then 4 else 8
def rqPlace (w : Tolog) (c : Nat) : Nat := if m3 w then 4 * (c / 2 ^ 16 % 8) else 8 * (c / 2 ^ 16 % 4)

theorem rqField_inside (w : Tolog) (c : Nat) : rqPlace w c + rqWidth w ≤ 32 := by
  rw [rqPlace, rqWidth]
  split <;> omega

/-- The number that a lane's accumulator and multiplier give, before it is held to the type's range. -/
def requantised (sh : Nat) (zp a m : Int) : Int := (if sh = 0 then a * m else (a * m + 2 ^ (sh - 1)) / 2 ^ sh) + zp

theorem vrq_eq (w : Tolog) (u : Bool) (sh : Nat) (zp a m : Int) :
    (vrq (m3 w) u sh zp a m : Int) = heldTo u (rqWidth w) (requantised sh zp a m) % 2 ^ rqWidth w := by
  rw [vrq, wrapInt_cast, clampInt_eq_heldTo]; rfl

/-- What `VRQ` puts in lane `i`'s field. -/
def rqLane (x : Ctx) (i : Nat) : Nat :=
  let c := x.g x.w.c
  vrq x.m3 x.un (fld c 5 0) (readInt false 8 (fld c 15 8)) (x.ie false x.w.a i) (x.ie false x.w.b i)

theorem rqLane_eq {x : Ctx} (i : Nat) (wide : ew x.w = 32) :
    let c := (x.g x.w.c).toNat
    (rqLane x i : Int) = heldTo (vn x.w) (rqWidth x.w)
      (requantised (c % 64) (fieldNum false 8 (c / 256 % 256)) (el false x x.w.a 32 i) (el false x x.w.b 32 i)) % 2 ^ rqWidth x.w := by
  have shift (c : Word) : fld c 5 0 = c.toNat % 64 := (Trapping.fld_eq_part _ (by decide)).trans (congrArg (· % 64) (Nat.div_one _))
  have zero (c : Word) : fld c 15 8 = c.toNat / 256 % 256 := Trapping.fld_eq_part _ (by decide)
  rw [rqLane, ie_eq_el, ie_eq_el, wide, readInt_eq_fieldNum, shift, zero]
  exact vrq_eq x.w x.un ..

/-- The lanes of the result of `VRQ`. -/
def rqLanes (x : Ctx) (o : Nat) : VReg := packV 32 ((List.range x.lanes).map fun i => if x.on i then rqLane x i * 2 ^ o else 0)

theorem vrqRes_eq (x : Ctx) : vrqRes x =
    [.v x.w.d.toNat (rqLanes x (rqPlace x.w (x.g x.w.c).toNat)) (x.mask ((2 ^ rqWidth x.w - 1) * 2 ^ rqPlace x.w (x.g x.w.c).toNat))] := by
  have place : fld (x.g x.w.c) 18 16 = (x.g x.w.c).toNat / 2 ^ 16 % 8 := Trapping.fld_eq_part _ (by decide)
  simp only [vrqRes, rqPlace, rqWidth, rqLanes, rqLane, place, show x.m3 = m3 x.w from rfl]
  cases m3 x.w with
  | true => rfl
  | false =>
    have four : (x.g x.w.c).toNat / 2 ^ 16 % 8 % 4 = (x.g x.w.c).toNat / 2 ^ 16 % 4 := Nat.mod_mod_of_dvd _ (by decide)
    simp only [Bool.false_eq_true, if_false, four]

theorem rqMask_lane (x : Ctx) (c : Nat) {i : Nat} (lane : i < x.f.lanes) (held : i < 256) :
    ((x.mask ((2 ^ rqWidth x.w - 1) * 2 ^ rqPlace x.w c)).extractLsb' (32 * i) 32).toNat =
      if x.active.getLsbD i then (2 ^ rqWidth x.w - 1) * 2 ^ rqPlace x.w c else 0 := by
  refine mask_lane x _ ?_ lane held
  calc (2 ^ rqWidth x.w - 1) * 2 ^ rqPlace x.w c < 2 ^ rqWidth x.w * 2 ^ rqPlace x.w c :=
        Nat.mul_lt_mul_of_pos_right (Nat.sub_lt (Nat.two_pow_pos _) Nat.one_pos) (Nat.two_pow_pos _)
    _ = 2 ^ (rqWidth x.w + rqPlace x.w c) := (Nat.pow_add ..).symm
    _ ≤ 2 ^ 32 := Nat.pow_le_pow_right (by decide) (Nat.add_comm .. ▸ rqField_inside x.w c)

theorem rqLanes_field {x : Ctx} (c : Nat) {i : Nat} (lane : i < x.f.lanes) (held : i < 256) (on : x.active.getLsbD i = true) :
    ((rqLanes x (rqPlace x.w c)).extractLsb' (32 * i + rqPlace x.w c) (rqWidth x.w)).toNat = rqLane x i % 2 ^ rqWidth x.w := by
  rw [rqLanes, Nat.mul_comm, packV_field _ (rqField_inside x.w c) (by omega), getD_map_range (k := x.lanes) _ lane,
    if_pos (show x.on i = true from on), Nat.mul_div_cancel _ (Nat.two_pow_pos _)]

/-! ### The instructions -/

/-- An instruction whose body computes elements of the width field, each equal, modulo its width, to what the statement gives (R158, R159). -/
theorem givesVec_ivec {i : Instr} {op : Nat} {w : Tolog} {f g : Ctx → Nat → Int}
    (he : ∀ s, exec i s = issue op w s (pureBody fun x => x.ivec (f x)))
    (hv : ilCheck op false w = none → ∀ x e, x.w = w → f x e % 2 ^ ew w = g x e % 2 ^ ew w) : GivesVec i op w (ew w) g := by
  intro s h
  obtain ⟨-, decodes, -⟩ := id h
  have wide : (ctx op w s).ew = ew w := ctx_ew _
  exact ⟨_, wide ▸ elements_ivec fun e => wide ▸ hv decodes _ e rfl, (he s).trans (issue_ok h rfl)⟩

/-- The same for a body that computes elements of `n` bits. -/
theorem givesVec_vec {i : Instr} {op n : Nat} {w : Tolog} {f : Ctx → Nat → Nat} {g : Ctx → Nat → Int}
    (he : ∀ s, exec i s = issue op w s (pureBody fun x => x.vec n (f x)))
    (hv : ∀ x e, x.w = w → (f x e : Int) % 2 ^ n = g x e % 2 ^ n) : GivesVec i op w n g := by
  intro s h
  obtain ⟨y, m, written, mask, elements⟩ := elements_vec (ctx op w s) n (f (ctx op w s))
  exact ⟨_, ⟨y, m, written, mask, fun e within inside on => (elements e within inside on).trans (hv _ e rfl)⟩, (he s).trans (issue_ok h rfl)⟩

/-- The same for a multiply, whose `.w32` form occupies the multipliers (R160). -/
theorem givesMul_ivec {i : Instr} {op : Nat} {w : Tolog} {f g : Ctx → Nat → Int}
    (he : ∀ s, exec i s = issue op w s (mulBody fun x => x.ivec (f x))) (hv : ∀ x e, x.w = w → f x e = g x e) :
    GivesMul i op w (ew w) (ew w == 32 && m3 w) g := by
  intro s h
  have wide : (ctx op w s).ew = ew w := ctx_ew _
  refine ⟨_, wide ▸ elements_ivec fun e => congrArg (· % _) (hv _ e rfl), (he s).trans (issue_ok h ?_)⟩
  rw [mulBody, wide]; rfl

theorem rsvOk_of_ilCheck {op : Nat} {w : Tolog} {f : Form} (h : ilCheck op false w = none) (hf : formOf op w = some f) :
    f.rsvOk op w = true := by
  rw [← Bool.not_eq_false]
  intro reserved
  simp only [ilCheck, hf, reserved, Bool.not_false, Bool.or_true, if_true] at h
  split at h
  · cases h
  · split at h <;> cases h

/-- The `MOD` bits that an instruction does not assign are zero (R11). -/
theorem mods_of_ilCheck {op : Nat} {w : Tolog} {f : Form} (h : ilCheck op false w = none) (hf : formOf op w = some f) :
    w.mod &&& ~~~f.mods = 0 := by
  have unreserved := rsvOk_of_ilCheck h hf
  simp only [Form.rsvOk, Bool.and_eq_true, beq_iff_eq] at unreserved
  obtain ⟨⟨⟨-, mods⟩, -⟩, -⟩ := unreserved
  exact mods

/-- `N` is reserved on `VABS`. -/
theorem vabs_signed {w : Tolog} (h : ilCheck 0x67 false w = none) : vn w = false := by
  have reserved : w.mod &&& ~~~0xC3#8 = 0 := mods_of_ilCheck h rfl
  have bit : (w.mod &&& ~~~0xC3#8).getLsbD 2 = false := by rw [reserved]; rfl
  rwa [BitVec.getLsbD_and, show (~~~0xC3#8).getLsbD 2 = true from rfl, Bool.and_true] at bit

/-- `VRQ` takes elements of 32 bits only. -/
theorem vrq_wide {w : Tolog} (h : ilCheck 0x72 false w = none) : ew w = 32 := by
  have assigned : ((w.mod.extractLsb' 0 2).toNat == 2) = true := valid_of_ilCheck h rfl
  exact congrArg (8 * 2 ^ ·) ((widthField_toNat w.mod).symm.trans (beq_iff_eq.mp assigned))

/-- Settles O11: each instruction by the lemma about its operation on an element, in the order of the statement. -/
theorem vectorIntegers : Obligations.VectorIntegers := by
  unfold Obligations.VectorIntegers
  refine ⟨fun w => ⟨?_, ?_, ?_, ?_, ?_, ?_, ?_, ?_, ?_, ?_, ?_, ?_, ?_, ?_, ?_⟩,
    fun w => ⟨?_, ?_, ?_, ?_, ?_, ?_, ?_, ?_, ?_, fun s h => ?_⟩⟩
  -- arithmetic, shifts and the dot product (R159 to R161, R163)
  · exact givesVec_ivec (fun _ => rfl) fun _ x e hw => by rw [ie_eq_el, ie_eq_el, hw]
  · exact givesVec_ivec (fun _ => rfl) fun _ x e hw => by rw [ie_eq_el, ie_eq_el, hw]
  · exact givesMul_ivec (fun _ => rfl) fun x e hw => by rw [fit_eq_maySat, prod_eq_product, hw]
  · exact givesMul_ivec (fun _ => rfl) fun x e hw => by rw [prod_eq_product, ctx_ew, hw]
  · exact givesMul_ivec (fun _ => rfl) fun x e hw => by rw [fit_eq_maySat, prod_eq_product, ie_eq_el, hw, ← hw]; rfl
  · exact givesVec_ivec (fun _ => rfl) fun _ x e hw => by rw [ie_eq_el, ie_eq_el, hw, Int.min_def, ← hw]; rfl
  · exact givesVec_ivec (fun _ => rfl) fun _ x e hw => by rw [ie_eq_el, ie_eq_el, hw, Int.max_def, ← hw]; rfl
  · exact givesVec_ivec (fun _ => rfl) fun ok x e hw => by rw [fit_eq_maySat, ie_eq_el, hw, maySat, vabs_signed ok]
  · exact givesVec_ivec (fun _ => rfl) fun _ x e hw => by
      rw [shAmt_eq_vamount, ctx_ew, hw]; subst hw; exact vshl_emod ..
  · exact givesVec_ivec (fun _ => rfl) fun _ x e hw => by rw [shAmt_eq_vamount, ctx_ew, hw, vshr_eq _ (elem_lt ..)]; rfl
  · exact givesVec_ivec (fun _ => rfl) fun _ x e hw => by rw [shAmt_eq_vamount, ctx_ew, hw, vsar_eq _ (ew_pos w) (elem_lt ..)]; rfl
  · exact givesVec_ivec (fun _ => rfl) fun _ x e hw => by rw [ie_eq_el, ie_eq_el, clampInt_eq_heldTo, ctx_ew, hw, ← hw]; rfl
  · exact givesVec_ivec (fun _ => rfl) fun _ x e hw => by rw [ie_eq_el, ie_eq_el, clampInt_eq_heldTo, ctx_ew, hw, ← hw]; rfl
  · exact givesVec_ivec (fun _ => rfl) fun _ x e hw => by rw [ie_eq_el, ie_eq_el, hw, ← hw]; rfl
  · exact givesVec_vec (fun _ => rfl) fun x e hw => by subst hw; exact vdot4_emod x e
  -- logic, counts, comparison, selection and moves (R159)
  · exact givesVec_vec (fun _ => rfl) fun _ _ _ => rfl
  · exact givesVec_vec (fun _ => rfl) fun _ _ _ => rfl
  · exact givesVec_vec (fun _ => rfl) fun _ _ _ => rfl
  · exact givesVec_ivec (fun _ => rfl) fun _ x e hw => by rw [ctx_ew, hw, clz_elem]; rfl
  · exact givesVec_ivec (fun _ => rfl) fun _ x e hw => by rw [ctx_ew, hw, popc_elem]
  · exact givesVec_ivec (fun _ => rfl) fun _ x e hw => by
      subst hw; rw [ctx_ew, ccHolds_eq_vcond, opField_toNat]; rfl
  · exact givesVec_ivec (fun _ => rfl) fun _ x e hw => by
      rw [ctx_ew, ie_eq_el, ie_eq_el, hw, testBit_elem _ _ (Nat.sub_lt (ew_pos w) Nat.one_pos), Nat.add_sub_assoc (ew_pos w)]
  · exact givesVec_ivec (fun _ => rfl) fun _ x e hw => by rw [ie_eq_el, hw]
  · exact givesVec_ivec (fun _ => rfl) fun _ x e _ => by push_cast; rfl
  -- requantisation (R162)
  · obtain ⟨-, decodes, -⟩ := id h
    have wide : ew (ctx 0x72 w s).w = 32 := vrq_wide decodes
    refine ⟨_, _, fun i lane held => ⟨rqMask_lane _ _ lane held, fun on => ?_⟩,
      Transfer.acts_of_ok rfl h (congrArg (fun ws => Body.ok { s := start s, writes := ws }) (vrqRes_eq (ctx 0x72 w s)))⟩
    refine (congrArg Nat.cast (rqLanes_field _ lane held on)).trans ?_
    push_cast
    rw [rqLane_eq i wide, Int.emod_emod]
    rfl

end Sys2Proof.VectorInt
end

section
/-! PROOF. Element access, reductions, scans and lane masks (R164 to R166): a reduction is a fold whose result has the properties that the rule gives,
a scan's elements are the reductions of the elements up to each, and a lane mask has the bits of its lanes. -/

namespace Sys2Proof.VectorReduce

open Sys2Proof.Machine Sys2Proof.Claims Sys2Proof.Laws Sys2Proof.Scalar Sys2Proof.VectorInt

/-! ### Folds -/

/-- A step that keeps one of two numbers, the one that comes first in an order: `min` for `≤`, `max` for `≥`. -/
structure Chooses (before : Int → Int → Prop) (step : Int → Int → Int) : Prop where
  trans : ∀ {a b c}, before a b → before b c → before a c
  antisymm : ∀ {a b}, before a b → before b a → a = b
  refl : ∀ a, before a a
  left : ∀ a b, before (step a b) a
  right : ∀ a b, before (step a b) b
  either : ∀ a b, step a b = a ∨ step a b = b

theorem min_chooses : Chooses (· ≤ ·) min where
  trans := Int.le_trans
  antisymm := Int.le_antisymm
  refl := Int.le_refl
  left := Int.min_le_left
  right := Int.min_le_right
  either a b := by omega

theorem max_chooses : Chooses (· ≥ ·) max where
  trans ab bc := Int.le_trans bc ab
  antisymm ab ba := Int.le_antisymm ba ab
  refl := Int.le_refl
  left := Int.le_max_left
  right := Int.le_max_right
  either a b := by omega

/-- What a chain of choices keeps comes before the start and every element, and is one of them. -/
theorem Chooses.foldl_spec {before : Int → Int → Prop} {step : Int → Int → Int} (c : Chooses before step) (f : Nat → Int) (es : List Nat)
    (t : Int) :
    let v := es.foldl (fun t e => step t (f e)) t
    before v t ∧ (∀ e ∈ es, before v (f e)) ∧ (v = t ∨ ∃ e ∈ es, v = f e) := by
  induction es generalizing t with
  | nil => exact ⟨c.refl t, List.forall_mem_nil _, .inl rfl⟩
  | cons e r ih =>
    obtain ⟨start, rest, taken⟩ := ih (step t (f e))
    refine ⟨c.trans start (c.left ..), List.forall_mem_cons.mpr ⟨c.trans start (c.right ..), rest⟩, ?_⟩
    obtain first | ⟨a, member, last⟩ := taken
    · obtain old | new := c.either t (f e)
      · exact .inl (first.trans old)
      · exact .inr ⟨e, List.mem_cons_self, first.trans new⟩
    · exact .inr ⟨a, List.mem_cons_of_mem _ member, last⟩

/-- From a start that comes after every element, the choice among a list that is not empty is one of its elements. -/
theorem Chooses.foldl_mem {before : Int → Int → Prop} {step : Int → Int → Int} (c : Chooses before step) (f : Nat → Int) {es : List Nat}
    {t : Int} (last : ∀ e ∈ es, before (f e) t) (nonempty : es ≠ []) : ∃ e ∈ es, es.foldl (fun t e => step t (f e)) t = f e := by
  obtain ⟨-, first, unchanged | taken⟩ := c.foldl_spec f es t
  · obtain ⟨e, member⟩ := List.exists_mem_of_ne_nil es nonempty
    exact ⟨e, member, c.antisymm (first e member) (by rw [unchanged]; exact last e member)⟩
  · exact taken

theorem getLsbD_foldl_and {n : Nat} (f : Nat → BitVec n) (es : List Nat) (t : BitVec n) (j : Nat) :
    (es.foldl (fun t e => t &&& f e) t).getLsbD j = (t.getLsbD j && es.all fun e => (f e).getLsbD j) := by
  induction es generalizing t with
  | nil => simp
  | cons e r ih => rw [List.foldl_cons, ih, BitVec.getLsbD_and, List.all_cons, Bool.and_assoc]

theorem getLsbD_foldl_or {n : Nat} (f : Nat → BitVec n) (es : List Nat) (t : BitVec n) (j : Nat) :
    (es.foldl (fun t e => t ||| f e) t).getLsbD j = (t.getLsbD j || es.any fun e => (f e).getLsbD j) := by
  induction es generalizing t with
  | nil => simp
  | cons e r ih => rw [List.foldl_cons, ih, BitVec.getLsbD_or, List.any_cons, Bool.or_assoc]

theorem getLsbD_foldl_xor {n : Nat} (f : Nat → BitVec n) (es : List Nat) (t : BitVec n) (j : Nat) :
    (es.foldl (fun t e => t ^^^ f e) t).getLsbD j = (t.getLsbD j ^^ (es.countP fun e => (f e).getLsbD j) % 2 == 1) := by
  induction es generalizing t with
  | nil => simp
  | cons e r ih =>
    have parity (k : Nat) : (true ^^ k % 2 == 1) = ((k + 1) % 2 == 1) := by
      obtain even | odd := Nat.mod_two_eq_zero_or_one k <;> simp [Nat.add_mod, *]
    rw [List.foldl_cons, ih, BitVec.getLsbD_xor, List.countP_cons, Bool.xor_assoc]
    cases (f e).getLsbD j with
    | false => rw [Bool.false_xor]; rfl
    | true => rw [parity]; rfl

/-! ### Reductions (R165) -/

/-- The fold that reduces the elements `es` of a source. -/
def reduction (op : Nat) (u : Bool) (x : Ctx) (r : BitVec 6) (n : Nat) (es : List Nat) : Int :=
  es.foldl (fun t e => redStep op n t (el u x r n e)) (redId op u n)

theorem wrapInt_toNat {n : Nat} (a : BitVec n) : wrapInt n a.toNat = a.toNat := by
  have whole : ((a.toNat : Int) % 2 ^ n) = (a.toNat : Nat) := by exact_mod_cast congrArg Nat.cast (Nat.mod_eq_of_lt a.isLt)
  rw [wrapInt, whole, Int.toNat_natCast]

theorem wrapInt_fieldNum (u : Bool) {n : Nat} (a : BitVec n) : wrapInt n (fieldNum u n a.toNat) = a.toNat := by
  rw [fieldNum]
  split
  · rw [wrapInt, Int.sub_emod_right]; exact wrapInt_toNat a
  · exact wrapInt_toNat a

/-- A bitwise step of R165, on the bits of the elements. -/
def bitStep (op : Nat) {n : Nat} (a b : BitVec n) : BitVec n := if op = 3 then a &&& b else if op = 4 then a ||| b else a ^^^ b

/-- The identity of a bitwise operation. -/
def bitId (op n : Nat) : BitVec n := if op = 3 then BitVec.allOnes n else 0#n

theorem redStep_bitwise {op : Nat} (h : 3 ≤ op) (u : Bool) (x : Ctx) (r : BitVec 6) {n : Nat} (t : BitVec n) (e : Nat) :
    redStep op n t.toNat (el u x r n e) = ((bitStep op t ((x.v r).extractLsb' (e * n) n)).toNat : Int) := by
  match op, h with
  | 3, _ => simp only [redStep, bitStep, el, wrapInt_toNat, wrapInt_fieldNum, if_true, BitVec.toNat_and]
  | 4, _ => simp only [redStep, bitStep, el, wrapInt_toNat, wrapInt_fieldNum]; rfl
  | _ + 5, _ => simp only [redStep, bitStep, el, wrapInt_toNat, wrapInt_fieldNum, Nat.reduceEqDiff, if_false, BitVec.toNat_xor]

theorem redId_bitwise {op : Nat} (h : 3 ≤ op) (u : Bool) (n : Nat) : redId op u n = ((bitId op n).toNat : Int) := by
  match op, h with
  | 3, _ =>
    rw [redId, bitId, if_pos rfl, BitVec.toNat_allOnes, Int.ofNat_sub Nat.one_le_two_pow]
    push_cast; rfl
  | _ + 4, _ => simp [redId, bitId]

theorem reduction_bitwise {op : Nat} (h : 3 ≤ op) (u : Bool) (x : Ctx) (r : BitVec 6) (n : Nat) (es : List Nat) :
    reduction op u x r n es = ((es.foldl (fun t e => bitStep op t ((x.v r).extractLsb' (e * n) n)) (bitId op n)).toNat : Int) := by
  rw [reduction, redId_bitwise h]
  exact List.foldl_hom (fun t : BitVec n => (t.toNat : Int)) fun t e => redStep_bitwise h u x r t e

/-- A bit of a bitwise reduction, from that bit of the elements. -/
theorem foldl_bitStep_getLsbD (op : Nat) (v : VReg) {n j : Nat} (es : List Nat) (h : j < n) :
    (es.foldl (fun t e => bitStep op t (v.extractLsb' (e * n) n)) (bitId op n)).getLsbD j =
      if op = 3 then es.all fun e => v.getLsbD (e * n + j)
      else if op = 4 then es.any fun e => v.getLsbD (e * n + j)
      else (es.countP fun e => v.getLsbD (e * n + j)) % 2 == 1 := by
  have element (e : Nat) : (v.extractLsb' (e * n) n).getLsbD j = v.getLsbD (e * n + j) := by
    rw [BitVec.getLsbD_extractLsb', decide_eq_true h, Bool.true_and]
  by_cases conjunction : op = 3
  · simp only [bitStep, bitId, conjunction, if_true, getLsbD_foldl_and, element, BitVec.getLsbD_allOnes, decide_eq_true h, Bool.true_and]
  by_cases disjunction : op = 4
  · simp only [bitStep, bitId, disjunction, Nat.reduceEqDiff, if_false, if_true, getLsbD_foldl_or, element, BitVec.getLsbD_zero,
      Bool.false_or]
  · simp only [bitStep, bitId, conjunction, disjunction, if_false, getLsbD_foldl_xor, element, BitVec.getLsbD_zero, Bool.false_xor]

theorem reduced_reduction (op : Nat) (u : Bool) (x : Ctx) (r : BitVec 6) {n : Nat} (es : List Nat) (positive : 0 < n) :
    Reduced op u x r n es (reduction op u x r n es) := by
  refine ⟨?add, ?min, ?max, fun bitwise => ?_⟩
  case add =>
    rintro rfl
    exact (List.sum_eq_foldl.trans List.foldl_map).symm
  case min =>
    rintro rfl
    obtain ⟨-, below, -⟩ := min_chooses.foldl_spec (el u x r n) es (intMax u n)
    refine ⟨below, ?_⟩
    split
    next empty => rw [empty]; rfl
    next nonempty => exact min_chooses.foldl_mem _ (fun e _ => (el_bounds u x r e positive).right) nonempty
  case max =>
    rintro rfl
    obtain ⟨-, above, -⟩ := max_chooses.foldl_spec (el u x r n) es (intMin u n)
    refine ⟨above, ?_⟩
    split
    next empty => rw [empty]; rfl
    next nonempty => exact max_chooses.foldl_mem _ (fun e _ => (el_bounds u x r e positive).left) nonempty
  · rw [reduction_bitwise bitwise, Int.toNat_natCast]
    refine ⟨Int.natCast_nonneg _, by exact_mod_cast BitVec.isLt _, fun j inside => ?_⟩
    rw [BitVec.testBit_toNat]
    exact foldl_bitStep_getLsbD op (x.v r) es inside

theorem vredRes_eq (x : Ctx) :
    let op := x.w.mod.toNat / 8 % 8
    vredRes x = [.g x.w.d (low (reduction op (vn x.w || decide (3 ≤ op)) x x.w.a (ew x.w)
      (activeBelow x (ew x.w) (x.f.lanes * 32 / ew x.w))))] := by
  simp only [vredRes, opField_toNat, ie_eq_el, ctx_ew]; rfl

/-! ### Scans (R165) -/

/-- A fold over the elements that `p` admits steps at the first where `p` admits it. -/
theorem foldl_filter_cons {α : Type} (p : Nat → Bool) (g : α → Nat → α) (e : Nat) (r : List Nat) (t : α) :
    ((e :: r).filter p).foldl g t = (r.filter p).foldl g (if p e then g t e else t) := by
  rw [List.filter_cons]; split <;> rfl

/-- An active element of a scan is the reduction of the active elements before it, with itself unless `excl`. -/
theorem scanGo_getD (x : Ctx) (op : Nat) (excl : Bool) (es : List Nat) (t : Int) {k : Nat} (h : k < es.length)
    (on : x.onE x.ew es[k] = true) :
    (scanGo x op excl es t).getD k 0 = wrapInt x.ew
      (((es.take (if excl then k else k + 1)).filter (x.onE x.ew)).foldl (fun t e => redStep op x.ew t (x.ie x.un x.w.a e)) t) := by
  induction es generalizing t k with
  | nil => cases h
  | cons e r ih =>
    cases k with
    | zero =>
      have first : x.onE x.ew e = true := on
      rw [scanGo, if_pos first, List.getD_cons_zero]
      cases excl <;> simp [first]
    | succ k =>
      have shorter : (e :: r).take (if excl then k + 1 else k + 1 + 1) = e :: r.take (if excl then k else k + 1) := by cases excl <;> rfl
      rw [shorter, foldl_filter_cons, scanGo]
      split
      next active => rw [List.getD_cons_succ, ih _ (Nat.lt_of_succ_lt_succ h) on]
      next passive => rw [List.getD_cons_succ, ih _ (Nat.lt_of_succ_lt_succ h) on]

theorem elements_scan {x : Ctx} {op : Nat} (excl : Bool) :
    Elements x (ew x.w) (fun e => reduction op (vn x.w) x x.w.a (ew x.w) (activeBelow x (ew x.w) (if excl then e else e + 1)))
      [.v x.w.d.toNat (packV x.ew (scanGo x op excl (List.range (x.count x.ew)) (redId op x.un x.ew))) x.fullMask] := by
  rw [← ctx_ew]
  refine elements_of_packed fun e within on => ?_
  have inside : (if excl then e else e + 1) ≤ x.count x.ew := by split <;> omega
  rw [scanGo_getD x op excl _ _ (List.length_range ▸ within) (by rwa [List.getElem_range]), wrapInt_cast, Int.emod_emod, List.take_range,
    Nat.min_eq_left inside]
  simp only [reduction, ie_eq_el, ctx_ew]; rfl

theorem scanField_toNat (m : BitVec 8) : (m.extractLsb' 3 2).toNat = m.toNat / 8 % 4 := by
  rw [BitVec.extractLsb'_toNat, Nat.shiftRight_eq_div_pow]

/-! ### Elements (R164) -/

theorem getLsbD_ofNat_shifted {m : Nat} (a o : Nat) {j : Nat} (h : j < m) :
    (BitVec.ofNat m (a * 2 ^ o)).getLsbD j = (decide (o ≤ j) && a.testBit (j - o)) := by
  rw [BitVec.getLsbD_ofNat, decide_eq_true h, Bool.true_and, Nat.testBit_mul_two_pow]

theorem vinsMask_getLsbD {n o j : Nat} (h : j < 8192) :
    (BitVec.ofNat 8192 ((2 ^ n - 1) * 2 ^ o)).getLsbD j = decide (o ≤ j ∧ j < o + n) := by
  rw [getLsbD_ofNat_shifted _ _ h, Nat.testBit_two_pow_sub_one, ← Bool.decide_and, decide_eq_decide]
  omega

theorem vinsField_getLsbD (a : Word) {n o j : Nat} (h : j < 8192) (start : o ≤ j) (stop : j < o + n) :
    (BitVec.ofNat 8192 (a.toNat % 2 ^ n * 2 ^ o)).getLsbD j = a.getLsbD (j - o) := by
  rw [getLsbD_ofNat_shifted _ _ h, decide_eq_true start, Bool.true_and, Nat.testBit_mod_two_pow, decide_eq_true (by omega : j - o < n),
    Bool.true_and, BitVec.testBit_toNat]

/-! ### Lane masks (R166) -/

theorem kOf_getLsbD (x : Ctx) (p : Nat → Bool) {j : Nat} (lane : j < x.f.lanes) (held : j < 256) : (x.kOf p).getLsbD j = p j := by
  have bit := packN_div_mod 1 ((List.range x.lanes).map fun i => if p i then 1 else 0) j
  rw [getD_map_range (k := x.lanes) _ lane, Nat.mul_one, Nat.pow_one] at bit
  rw [Ctx.kOf, BitVec.getLsbD_ofNat, decide_eq_true held, Bool.true_and, Nat.testBit_eq_decide_div_mod_eq, bit]
  cases p j <;> rfl

theorem klogBit_eq (t : BitVec 8) (a b : Bool) : klogRes.lut t a b = t.getLsbD ((if a then 2 else 0) + (if b then 1 else 0)) := by
  cases a <;> cases b <;> rfl

theorem givesMask_kOf {i : Instr} {op : Nat} {w : Tolog} {p : Ctx → Nat → Bool}
    (he : ∀ s, exec i s = issue op w s (pureBody fun x => [.k x.w.d.toNat (x.kOf (p x))])) : GivesMask i op w p := fun s h =>
  ⟨_, fun _ lane held => kOf_getLsbD _ _ lane held, (he s).trans (issue_ok h rfl)⟩

/-! ### The instructions -/

/-- Settles O12: `VEXT` and `VINS` by the bits of an element, `VRED` and `VSCAN` by what a reduction is, the masks by their bits. -/
theorem vectorReductions : Obligations.VectorReductions := by
  unfold Obligations.VectorReductions
  refine fun w => ⟨?_, fun s h => ?_, fun s h _ => ?_, fun s h _ => ?_, ?_, ?_, ?_⟩
  -- elements (R164)
  · refine gives_pure (fun _ => rfl) fun _ x _ hw => ?_
    rw [vextRes, ie_eq_el, Ctx.count, ctx_ew, hw, ← hw]; rfl
  · have wide : (ctx 0x79 w s).ew = ew w := ctx_ew _
    refine ⟨_, _, fun j inside => ⟨vinsMask_getLsbD inside, vinsField_getLsbD _ inside⟩, Transfer.acts_of_ok rfl h ?_⟩
    rw [pureBody, vinsRes, Ctx.count, wide]; rfl
  -- reductions and scans (R165)
  · refine ⟨_, reduced_reduction _ _ _ _ _ (ew_pos w), Transfer.acts_of_ok rfl h ?_⟩
    rw [pureBody, vredRes_eq]; rfl
  · refine ⟨_, fun e => reduced_reduction _ _ _ _ _ (ew_pos w), _, elements_scan (x := ctx 0x7B w s) (w.mod.getLsbD 5),
      Transfer.acts_of_ok rfl h ?_⟩
    rw [pureBody, vscanRes, scanField_toNat]; rfl
  -- lane masks (R166)
  · simp only [← klogBit_eq]; exact givesMask_kOf fun _ => rfl
  · exact givesMask_kOf fun _ => rfl
  · exact gives_pure (fun _ => rfl) fun _ x _ _ => by rw [popc_eq_countP]; rfl

end Sys2Proof.VectorReduce
end
